-- ==== Sys2Proof/Word.lean ====
section
/-! DEFINITION. The word types of the part: store words and bytes, as the spec's "Units and conventions" give them. -/

namespace Sys2Proof

/-- A store word, a web position or a line-clock value: 32 bits (spec/00_scope.md, Units and conventions). -/
abbrev Word := BitVec 32

/-- One byte of the work store. -/
abbrev Byte := BitVec 8

end Sys2Proof
end

