-- ==== Sys2Proof/Syntax.lean ====
section
/-! DEFINITION. The commands and events of the part: one constructor per row of spec/opcode_table.json. -/

namespace Sys2Proof

/-- A lane across the web; lane A is the first (spec/00_scope.md, Names). -/
inductive Lane where
  | a
  | b
  deriving DecidableEq, Repr

/-- One byte the host stores through its memory window (spec/00_scope.md, The way in). -/
structure HostWrite where
  addr : Nat
  byte : Byte
  deriving DecidableEq, Repr

/-- The steps of the part, each whole and indivisible (spec/95_what_each_step_holds.md).
The operands are what the outside brings with the step: what the host writes, or what a sensor reports. -/
inductive Instr where
  /-- ATTN (R176): the host writes `value` to ATTN, having stored `writes` in the work store since its last step.
  The stores ride on this row because the table has no row of their own (DESIGN CHOICE, log 3). -/
  | attn (value : Word) (writes : List HostWrite)
  /-- CLEAR (R173): the host writes `value` to CLEAR. -/
  | clear (value : Word)
  /-- POWER_UP (R173). -/
  | powerUp
  /-- REGISTER_WRITE_IGNORED (R174): a write of `value` to SUMMARY or to an offset that holds no register. -/
  | registerWriteIgnored (offset value : Word)
  /-- CONFIGURE (R163): posted with the record address in operand word 1. -/
  | configure (addr : Word)
  /-- CONFIGURE_COMPLETE (R179): the reading that CONFIGURE started has ended. -/
  | configureComplete
  /-- START (R164). -/
  | start
  /-- PAUSE (R165). -/
  | pause
  /-- CLEAR_FAULT (R171). -/
  | clearFault
  /-- INITIATE (R4): queue number, record address. -/
  | initiate (queue addr : Word)
  /-- RESUME (R10): queue number. -/
  | resume (queue : Word)
  /-- RELEASE_QUEUE (R12): queue number. -/
  | releaseQueue (queue : Word)
  /-- WITHDRAW (R22): order number, charge flag. -/
  | withdraw (number charge : Word)
  /-- SET_LANES (R27): the mask. -/
  | setLanes (mask : Word)
  /-- RECALIBRATE (R83). -/
  | recalibrate
  /-- LOAD_PRICES (R147): table address. -/
  | loadPrices (addr : Word)
  /-- LOAD_PRICES_COMPLETE (R149): the reading that LOAD_PRICES started has ended. -/
  | loadPricesComplete
  /-- RELEASE_BIN (R141): bin number. -/
  | releaseBin (bin : Word)
  /-- SECTION_RESET_EXPOSURE (R78). -/
  | sectionResetExposure
  /-- SECTION_RESET_CUTTER (R124). -/
  | sectionResetCutter
  /-- SECTION_RESET_SORTER (R143). -/
  | sectionResetSorter
  /-- IMAGE_LINE_READ_COMPLETE (R71): the read in progress for `lane` completes. -/
  | imageLineReadComplete (lane : Lane)
  /-- LEAD_IN_START (R70). -/
  | leadInStart
  /-- LEAD_IN_END (R70). -/
  | leadInEnd
  /-- ROW_START (R64). -/
  | rowStart
  /-- EXPOSURE_FEED_STEP (R68). -/
  | exposureFeedStep
  /-- ROW_END (R73). -/
  | rowEnd
  /-- CALIB_OR_BLANK_ROW_END (R74). -/
  | calibOrBlankRowEnd
  /-- HEAD_TEMPERATURE_SAMPLE (R75): the sensor reads `quarters` quarter degrees. -/
  | headTemperatureSample (quarters : Nat)
  /-- PROCESS_FEED_STEP (R96). -/
  | processFeedStep
  /-- DENSITOMETER_READING (R86): the densities read in the three channels. -/
  | densitometerReading (red green blue : Nat)
  /-- MARK_WINDOW_OPEN (R116). -/
  | markWindowOpen
  /-- MARK_REPORT (R117): the report's Y_obs. -/
  | markReport (yObs : Word)
  /-- MARK_MISSED (R118). -/
  | markMissed
  /-- KNIFE_FIRE (R120). -/
  | knifeFire
  /-- PIECE_AT_DIVERTER (R131). -/
  | pieceAtDiverter
  /-- ARRIVAL (R134): the destination whose entry sensor reports. -/
  | arrival (dest : Fin 34)
  /-- MISROUTED (R136). -/
  | misrouted
  /-- LATE_EXPIRY (R137): the destination whose late expiry is reached. -/
  | lateExpiry (dest : Fin 34)
  /-- BIN_WAITING (R140): the bin whose countdown expires. -/
  | binWaiting (bin : Fin 32)
  /-- DOOR_OPEN (R138). -/
  | doorOpen (bin : Fin 32)
  /-- DOOR_CLOSE (R139). -/
  | doorClose (bin : Fin 32)
  /-- PAPER_END (R106): the sensor now reports END (`true`) or PRESENT. -/
  | paperEnd (isEnd : Bool)
  /-- DRAIN_COMPLETE (R167). -/
  | drainComplete
  /-- LINE_STOP_INPUT (R168): the input is now asserted (`true`) or not. -/
  | lineStopInput (asserted : Bool)
  /-- WEB_JAM_SENSOR (R168): the sensor now reports a jam (`true`) or none. -/
  | webJamSensor (jam : Bool)
  /-- CONVEYOR_JAM_SENSOR (R168): the sensor now reports a jam (`true`) or none. -/
  | conveyorJamSensor (jam : Bool)
  /-- LINE_CLOCK_TICK (R175). -/
  | lineClockTick
  deriving DecidableEq, Repr

end Sys2Proof
end

