-- ==== Sys2Proof/Decode.lean ====
section
/-! DEFINITION. The command a word spells by the bits of spec/opcode_table.json. No row of the table gives bits. -/

namespace Sys2Proof

/-- The command that a word of the table's bits spells. Every row of spec/opcode_table.json has an empty list of
fields and no fixed bits (spec/98_reader.md: n_rows_with_fixed 0, n_rows_with_fields 0), so no word spells a command. -/
def decodeTableWord (nbits w : Nat) : Option Instr :=
  match nbits, w with
  | _, _ => none

end Sys2Proof
end

