-- ==== Sys2Proof/Config.lean ====
section
/-! DEFINITION. What the part fixes: sizes of the store and the head, and the capacities of its tables and queues. -/

namespace Sys2Proof.Config

/-- The work store holds 256 MiB (R1, R5). -/
abbrev storeBytes : Nat := 268435456

/-- The anchor area is the first 4096 bytes of the store (spec/00_scope.md, The way in). -/
abbrev anchorBytes : Nat := 4096

/-- What a store byte reads as that nothing has written.
DESIGN CHOICE (log 2), unsafe: the spec gives the DRAM no contents at power-up. -/
abbrev unwrittenByte : Byte := 0

/-- Elements of the line head (R46). -/
abbrev headElements : Nat := 3664

/-- Length of a calibration row in lines, CAL_LEN (R25). -/
abbrev calLen : Nat := 240

/-- Lines of a lead-in (R70). -/
abbrev leadInLines : Nat := 4

/-- Elements of the boundary mark across the web (R69). -/
abbrev markElements : Nat := 12

/-- Entries of the track table (R98). -/
abbrev trackCap : Nat := 64

/-- Boundaries of the cut queue (R112). -/
abbrev cutCap : Nat := 65

/-- Entries of the remake list (R41). -/
abbrev remakeCap : Nat := 32

/-- Entries of the deferred list (R13). -/
abbrev deferCap : Nat := 8

/-- Entries of the conveyor queue (R133). -/
abbrev conveyorCap : Nat := 8

/-- The greatest late count of a destination (R137). -/
abbrev lateCap : Nat := 8

/-- Places of a notice holding queue (R181). -/
abbrev heldCap : Nat := 4

/-- Line places of a lane's line buffer (R71). -/
abbrev linePlaces : Nat := 16

/-- Bytes of a configuration record (R187). -/
abbrev configBytes : Nat := 512

/-- Bytes of the gain table (R61). -/
abbrev gainBytes : Nat := 21984

/-- The questions one composition attempt puts to one queue before it gives up: more than the store has
record addresses.
DESIGN CHOICE (log 9): the spec bounds the questions only by the length of the chain, and a chain that runs in a
ring of refused records has no end. -/
abbrev chainBound : Nat := 8388608

end Sys2Proof.Config
end

