-- ==== Sys2Proof/Machine/State.lean ====
section
/-! DEFINITION. The state of the part, block by block, as plain data; its fault and refusal reasons; its reset state.
A block's default values are those the spec gives for chip clear, but for the late expiries (log 38); those of the pins and
of the store are the model's (logs 2 and 4). -/

namespace Sys2Proof.Machine

/-! ## Shapes that hold like things under their names -/

/-- One value for each lane. -/
structure PerLane (α : Type) where
  a : α
  b : α
  deriving DecidableEq, Repr

/-- One value for each channel: red, green, blue. -/
structure PerChan (α : Type) where
  red : α
  green : α
  blue : α
  deriving DecidableEq, Repr

/-- The three channels. -/
inductive Chan where
  | red
  | green
  | blue
  deriving DecidableEq, Repr

/-- The three order queues, which are also the three levels of the Row Composer's walk (R3, R33). -/
inductive QueueId where
  | express
  | standard
  | bulk
  deriving DecidableEq, Repr

/-- One value for each queue. -/
structure PerQueue (α : Type) where
  express : α
  standard : α
  bulk : α
  deriving DecidableEq, Repr

/-- The three notice classes (R181). -/
inductive NoticeClass where
  | a
  | b
  | c
  deriving DecidableEq, Repr

/-- One value for each notice class. -/
structure PerClass (α : Type) where
  a : α
  b : α
  c : α
  deriving DecidableEq, Repr

/-! ## Machine Control -/

/-- The machine states (R161). -/
inductive MachineState where
  | cleared
  | ready
  | running
  | pausing
  | paused
  | faulted
  deriving DecidableEq, Repr

/-- The fault causes (R161); `noFault` is NONE. -/
inductive FaultCause where
  | noFault
  | coverOpen
  | jamWeb
  | jamConveyor
  | marksLost
  deriving DecidableEq, Repr

/-- The pause causes (R161); `noPause` is NONE. -/
inductive PauseCause where
  | noPause
  | host
  | paperOut
  | faultCleared
  deriving DecidableEq, Repr

/-- What Machine Control holds (R161). -/
structure McState where
  state : MachineState := .cleared
  faultCause : FaultCause := .noFault
  pauseCause : PauseCause := .noPause
  /-- The paper-out request: `true` is pending (R166). -/
  paperOutReq : Bool := false
  /-- The conveyor stop (R169, R170). -/
  convStop : Bool := false
  deriving DecidableEq, Repr

/-! ## Command Unit -/

/-- The causes a notice can carry (the table above R181). -/
inductive Cause where
  | fault
  | paused
  | headHot
  | headCool
  | calFailed
  | strayPrint
  | misrouted
  | conveyorFull
  | orderDone
  | orderRefused
  | paperWanted
  | remakeRefused
  | queueParked
  | queueHalted
  | pricesRetired
  | noFreeBin
  | binWaiting
  | binDisturbed
  | splitToCatch
  deriving DecidableEq, Repr

/-- A notice (R182); its class is its cause's. -/
structure Notice where
  cause : Cause
  subject : Word
  stamp : Word
  more : Bool := false
  deriving DecidableEq, Repr

/-- What the Command Unit holds of one class (R181): the copy of the posted notice while the slot is occupied, and
the holding queue, oldest first. -/
structure ClassState where
  posted : Option Notice := none
  held : List Notice := []
  deriving DecidableEq, Repr

/-- A command whose record is being read, with the address it named (R179). -/
inductive Job where
  | configure (addr : Word)
  | loadPrices (addr : Word)
  deriving DecidableEq, Repr

/-- What the Command Unit holds (R175, R176, R181, R184). The cell-busy flag stands set between events exactly
while a record is being read, so it is held as `job`: set when `job` is some. -/
structure CuState where
  attnPending : Bool := false
  job : Option Job := none
  lineClock : Word := 0
  classes : PerClass ClassState := ⟨{}, {}, {}⟩
  enables : PerClass Bool := ⟨false, false, false⟩
  irq : Bool := false
  deriving DecidableEq, Repr

/-! ## Order Manager -/

/-- The states of a queue context (R3). -/
inductive QueueState where
  | idle
  | active
  | parked
  | blocked
  | halted
  deriving DecidableEq, Repr

/-- The halt reasons (R3); `noHalt` is NONE. -/
inductive HaltReason where
  | noHalt
  | badLink
  | deferFull
  deriving DecidableEq, Repr

/-- A queue context (R3). -/
structure QueueCtx where
  state : QueueState := .idle
  next : Word := 0
  tail : Word := 0
  halt : HaltReason := .noHalt
  taken : Word := 0
  deriving DecidableEq, Repr

/-- An entry of the deferred list (R13). -/
structure Deferred where
  addr : Word
  number : Word
  queue : QueueId
  fits : Bool := false
  deriving DecidableEq, Repr

/-- The item cursor of an open order: the next uncomposed copy (R15). Items count from 0 and copies from 1. -/
structure Cursor where
  item : Nat
  copy : Nat
  deriving DecidableEq, Repr

/-- A place of an order's bin list (R129). -/
structure BinPlace where
  bin : Fin 32
  early : Bool := false
  deriving DecidableEq, Repr

/-- What the Order Manager keeps of one item of an open order: the counts and flags it writes into the record
(R18, R19; the part reads no progress field, spec/12), and `passed`, set when a CONFIGURE has the cursor pass over
the item (R14). DEDUCED (log 10). -/
structure ItemProgress where
  good : Nat := 0
  failed : Nat := 0
  underrun : Bool := false
  markMissed : Bool := false
  clipped : Bool := false
  uncalibrated : Bool := false
  split : Bool := false
  passed : Bool := false
  deriving DecidableEq, Repr

/-- The state of an order in the open-order table, with the charge flag of a WITHDRAWING order (R15). -/
inductive OrderPhase where
  | opened
  | composed
  | withdrawing (charge : Bool)
  deriving DecidableEq, Repr

/-- A slot in use of the open-order table (R15). -/
structure OpenOrder where
  addr : Word
  number : Word
  queue : QueueId
  seq : Word
  /-- `none` is the end. -/
  cursor : Option Cursor
  nPrints : Nat
  composed : Nat := 0
  good : Nat := 0
  rejected : Nat := 0
  failed : Nat := 0
  catchCount : Nat := 0
  dropped : Nat := 0
  bins : List BinPlace
  gen : Option Word
  tier : Nat
  promo : Nat
  phase : OrderPhase := .opened
  items : List ItemProgress
  deriving DecidableEq, Repr

/-- What the Order Manager holds (R3, R13, R15). -/
structure OmState where
  queues : PerQueue QueueCtx := ⟨{}, {}, {}⟩
  table : Vector (Option OpenOrder) 8 := Vector.replicate 8 none
  deferred : List Deferred := []
  seq : Word := 0
  deriving DecidableEq, Repr

/-! ## Row Composer -/

/-- One attempt at one copy: the open-order slot and the order number held in it, item, copy and attempt (R29, R41). -/
structure CopyRef where
  slot : Fin 8
  number : Word
  item : Nat
  copy : Nat
  attempt : Nat
  deriving DecidableEq, Repr

/-- A print of a committed row (R29): its copy, its image, and its first element on the head. -/
structure PrintSpec where
  ref : CopyRef
  image : Nat
  width : Nat
  height : Nat
  stride : Nat
  first : Nat
  deriving DecidableEq, Repr

/-- The kinds of row and of track entry (R25, R98). -/
inductive RowKind where
  | print
  | calib
  | blank
  deriving DecidableEq, Repr

/-- The lane masks 1, 2 and 3 (R27). -/
inductive LaneMask where
  | aOnly
  | bOnly
  | both
  deriving DecidableEq, Repr

/-- The committed row of the next-row slot (R29); its track entries are those in stage COMMITTED that are not BLANK. -/
structure SlotRow where
  kind : RowKind
  length : Nat
  mask : LaneMask
  prints : PerLane (Option PrintSpec) := ⟨none, none⟩
  deriving DecidableEq, Repr

/-- What the Row Composer holds (R45). -/
structure RcState where
  slot : Option SlotRow := none
  /-- The staged lane mask. -/
  mask : LaneMask := .aOnly
  remakes : List CopyRef := []
  /-- The Row Composer's own head-hot hold (R39). -/
  hot : Bool := false
  /-- The first-calibration hold (R40). -/
  firstCal : Bool := false
  binWait : PerQueue Bool := ⟨false, false, false⟩
  deriving DecidableEq, Repr

/-! ## Exposure Engine -/

/-- The row context (R62). A BLANK row latches θ alone (R66). -/
structure RowContext where
  theta : Nat
  phi : PerChan Nat
  bal : Option (PerChan Nat)
  mask : Option LaneMask
  stale : Bool
  deriving DecidableEq, Repr

/-- A print of the exposing row (R62); its held line lies in its lane's buffer. -/
structure PrintRun where
  spec : PrintSpec
  clip : Nat := 0
  underrun : Bool := false
  deriving DecidableEq, Repr

/-- The exposing row (R62). The index of its next line is X − x0 (R68), and its track entries are those with its x0. -/
structure ExposingRow where
  kind : RowKind
  x0 : Word
  length : Nat
  ctx : Option RowContext
  prints : PerLane (Option PrintRun) := ⟨none, none⟩
  deriving DecidableEq, Repr

/-- What passes under the head: a lead-in with the lines it has exposed, before a BLANK row or the slot row (R70), or a row. -/
inductive Exposing where
  | leadIn (done : Nat) (forBlank : Bool)
  | row (r : ExposingRow)
  deriving DecidableEq, Repr

/-- What a line read is for: the exposing row's print, the slot row's print, or nothing any more (R71, R72, R77). -/
inductive ReadFor where
  | exposing
  | slot
  | discard
  deriving DecidableEq, Repr

/-- A line in a buffer, read and not yet sent (R71). -/
structure BufLine where
  forSlot : Bool
  line : Nat
  data : List Byte
  deriving DecidableEq, Repr

/-- The line read in progress of a lane (R71). -/
structure LineRead where
  dest : ReadFor
  line : Nat
  addr : Nat
  len : Nat
  deriving DecidableEq, Repr

/-- A lane's line buffer (R71): the held line, the lines ahead of it in the order they will be sent, the read in
progress (which holds a place), and the next line to fetch of the exposing and of the slot row's print. -/
structure LineBuffer where
  held : Option (List Byte) := none
  lines : List BufLine := []
  reading : Option LineRead := none
  nextExp : Nat := 0
  nextSlot : Nat := 0
  deriving DecidableEq, Repr

/-- What the Exposure Engine holds (R62), the clock value its last temperature sample was due at (R75), the mask in
force (R28), and the drive line it last sent the head, empty when it sends nothing (R46). -/
structure EeState where
  expo : Option Exposing := none
  buffers : PerLane LineBuffer := ⟨{}, {}⟩
  continuity : Bool := false
  hot : Bool := false
  sample : Nat := 0
  sampleAt : Word := 0
  maskInForce : LaneMask := .aOnly
  drive : List Nat := []
  deriving DecidableEq, Repr

/-! ## Calibration Unit -/

/-- The calibration states (R80). -/
inductive CalState where
  | valid
  | due
  | inFlight
  | stale
  deriving DecidableEq, Repr

/-- The patch record (R80). -/
structure Patch where
  x0 : Word
  theta : Nat
  bal : Option (PerChan Nat)
  deriving DecidableEq, Repr

/-- What the Calibration Unit holds (R80); `bal` is none while no balances are installed. -/
structure CaState where
  state : CalState := .valid
  bal : Option (PerChan Nat) := none
  thetaCal : Nat := 0
  invalid : Nat := 0
  patch : Option Patch := none
  deriving DecidableEq, Repr

/-! ## Web Transport -/

/-- The stages of a track entry (R98). -/
inductive Stage where
  | committed
  | exposing
  | inLoop
  | processing
  | cut
  | conveyor
  deriving DecidableEq, Repr

/-- The flags of a track entry (R98, R104). -/
structure TrackFlags where
  underrun : Bool := false
  clipped : Bool := false
  uncalibrated : Bool := false
  markMissed : Bool := false
  reject : Bool := false
  lost : Bool := false
  withdrawn : Bool := false
  split : Bool := false
  deriving DecidableEq, Repr

/-- A track entry (R98); `ref` is some for PRINT entries, `x0` is none while COMMITTED. -/
structure Entry where
  kind : RowKind
  lane : Lane
  ref : Option CopyRef := none
  x0 : Option Word := none
  length : Nat
  flags : TrackFlags := {}
  stage : Stage := .committed
  deriving DecidableEq, Repr

/-- What names a track entry: a row is named by its row start (R112), an entry of it by its lane; the one slot row and
the one BLANK row in its lead-in have no row start yet and are told apart by kind. -/
structure EntryKey where
  x0 : Option Word
  lane : Lane
  kind : RowKind
  deriving DecidableEq, Repr

/-- What the Web Transport holds (R94, R98, R105, R106); the track table is in paper order (R99). -/
structure WtState where
  x : Word := 0
  y : Word := 0
  track : List Entry := []
  paperUsed : Word := 0
  waste : Word := 0
  /-- The paper-end state: `true` is END. -/
  paperEnd : Bool := false
  deriving DecidableEq, Repr

/-! ## Cutter Unit -/

/-- The mark states (R112). -/
inductive MarkState where
  | pending
  | seen
  | missed
  deriving DecidableEq, Repr

/-- The window states (R112). -/
inductive Window where
  | ahead
  | opened
  | closed
  deriving DecidableEq, Repr

/-- A boundary of the cut queue (R112); the rows after and before are named by their row starts. -/
structure Boundary where
  pos : Word
  rowAfter : Option Word
  rowBefore : Option Word
  mark : MarkState := .pending
  delta : Int := 0
  window : Window := .ahead
  deriving DecidableEq, Repr

/-- What the Cutter Unit holds (R112). The MARKS_LOST condition is set while the miss count is 2, so it is not held twice. -/
structure CtState where
  queue : List Boundary := []
  misses : Nat := 0
  deriving DecidableEq, Repr

/-! ## Sorter Unit -/

/-- The bin states (R126). -/
inductive BinState where
  | free
  | reserved
  | filling
  | full
  | complete
  deriving DecidableEq, Repr

/-- The owner of a bin: an open-order slot and the order number held in it (R126). -/
structure Owner where
  slot : Fin 8
  number : Word
  deriving DecidableEq, Repr

/-- An entry of the bin table (R126); `countdown` is none when idle. -/
structure Bin where
  state : BinState := .free
  owner : Option Owner := none
  delivered : Nat := 0
  routed : Nat := 0
  doorOpen : Bool := false
  countdown : Option Word := none
  deriving DecidableEq, Repr

/-- An entry of the conveyor queue (R133). -/
structure ConvEntry where
  piece : EntryKey
  dest : Fin 34
  stamp : Word
  deriving DecidableEq, Repr

/-- The late count of a destination and its late expiry (R137). DESIGN CHOICE (log 38): the expiry is 0 after chip clear, for
which R144 gives the count alone. -/
structure Late where
  count : Nat := 0
  expiry : Word := 0
  deriving DecidableEq, Repr

/-- What the Sorter Unit holds (R126, R131, R133, R137). -/
structure SuState where
  bins : Vector Bin 32 := Vector.replicate 32 {}
  awaiting : List EntryKey := []
  conveyor : List ConvEntry := []
  late : Vector Late 34 := Vector.replicate 34 {}
  deriving DecidableEq, Repr

/-! ## Pricing Unit -/

/-- A quantity break (R146). -/
structure Break where
  minimum : Nat
  price : Nat
  deriving DecidableEq, Repr

/-- A price line (R146); `none` in surface or tier is ANY. -/
structure PriceLine where
  group : Nat
  surface : Option Nat
  tier : Option Nat
  base : Nat
  breaks : List Break
  deriving DecidableEq, Repr

/-- The kinds of promotion (R146). -/
inductive PromoKind where
  | percent
  | freeNth
  | fixedOff
  deriving DecidableEq, Repr

/-- A promotion (R146). -/
structure Promotion where
  code : Nat
  kind : PromoKind
  value : Nat
  mask : BitVec 16
  qualifying : Nat
  deriving DecidableEq, Repr

/-- A price table as installed (R146). -/
structure PriceTable where
  lines : List PriceLine
  promos : List Promotion
  minCharge : Nat
  deriving DecidableEq, Repr

/-- A generation slot that is not EMPTY (R145): CURRENT when `current`, RETIRING otherwise. -/
structure GenSlot where
  current : Bool
  number : Word
  table : PriceTable
  hold : Nat
  deriving DecidableEq, Repr

/-- The kind of an item: price group and surface (R151). -/
structure ItemKind where
  group : Nat
  surface : Nat
  deriving DecidableEq, Repr

/-- An entry of a tally list (R152). -/
structure TallyEntry where
  kind : ItemKind
  qty : Nat
  deriving DecidableEq, Repr

/-- The Pricing Unit's part of an open-order slot (R145); the order's generation number is held once, in the
Order Manager's slot (R15). -/
structure PuOrder where
  kinds : List ItemKind := []
  tally : List TallyEntry := []
  deriving DecidableEq, Repr

/-- What the Pricing Unit holds (R145). -/
structure PuState where
  gens : Vector (Option GenSlot) 2 := Vector.replicate 2 none
  counter : Word := 1
  orders : Vector PuOrder 8 := Vector.replicate 8 {}
  deriving DecidableEq, Repr

/-! ## The configuration in force -/

/-- The lane modes (R26). -/
inductive LaneMode where
  | oneUp
  | twoUp
  deriving DecidableEq, Repr

/-- A defined size (R97), in tenths of a millimetre. -/
structure SizeDef where
  width : Nat
  length : Nat
  group : Nat
  deriving DecidableEq, Repr

/-- Store contents: address and byte pairs, addresses strictly rising, no byte equal to the unwritten byte. -/
abbrev Memory := List Host.Cell

/-- The configuration in force: the part's copies of the configuration record and of the gain table (R60, R61, R81,
R97, R127). `gains` holds the gain table's bytes from offset 0. -/
structure Conf where
  paperWidth : Nat := 0
  surface : Nat := 0
  laneMode : LaneMode := .oneUp
  initMask : LaneMask := .aOnly
  markWin : Nat := 0
  clipLimit : Nat := 0
  loopMax : Nat := 0
  minPiece : Nat := 0
  lDens : Nat := 0
  lMk : Nat := 0
  lCut : Nat := 0
  thetaRef : Nat := 0
  thetaMax : Nat := 0
  calDrift : Nat := 0
  binCount : Nat := 0
  pMin : Nat := 0
  binCap : Nat := 0
  confirmLimit : Nat := 0
  unloadLimit : Nat := 0
  tempCoef : PerChan Int := ⟨0, 0, 0⟩
  target : PerChan Nat := ⟨0, 0, 0⟩
  initBal : PerChan Nat := ⟨0, 0, 0⟩
  patchCode : PerChan Nat := ⟨0, 0, 0⟩
  sizes : List (Option SizeDef) := []
  curve : PerChan (List Nat) := ⟨[], [], []⟩
  table : PerChan (List Nat) := ⟨[], [], []⟩
  gains : Memory := []
  deriving DecidableEq, Repr

/-! ## The pins, and the whole state -/

/-- The levels of the input pins that are read as well as reported (R126, R106, R168).
The spec gives them no level at power-up: DESIGN CHOICE (log 4), doors closed, paper present, nothing asserted. -/
structure Pins where
  lineStop : Bool := false
  webJam : Bool := false
  convJam : Bool := false
  paperEnd : Bool := false
  /-- Door sensors of the bins: `true` is open. -/
  doors : Vector Bool 32 := Vector.replicate 32 false
  deriving DecidableEq, Repr

/-- The model's own marks of what the event in progress still owes at its end: a composition attempt (R30), a writing
of the machine status block (R185). Both are clear between events. -/
structure Work where
  attempt : Bool := false
  status : Bool := false
  deriving DecidableEq, Repr

/-- The state of the part, its input pins, the work store, and the commands that wait. -/
structure State where
  cu : CuState := {}
  om : OmState := {}
  rc : RcState := {}
  ee : EeState := {}
  ca : CaState := {}
  wt : WtState := {}
  ct : CtState := {}
  su : SuState := {}
  pu : PuState := {}
  mc : McState := {}
  /-- The configuration in force; none from chip clear to the first successful CONFIGURE. -/
  conf : Option Conf := none
  pins : Pins := {}
  store : Memory := []
  work : Work := {}
  pending : List Instr := []
  deriving DecidableEq, Repr

/-- The part after chip clear, with nothing written in the store and no command waiting (R173, log 1). -/
def State.reset : State := {}

/-- What stops the part. -/
inductive Fault where
  /-- Raised by IMAGE_LINE_READ_COMPLETE when the line lies beyond the 256 MiB store. R7 keeps every image inside the
  store when its order is taken, so only a host that rewrites a request after linking it can bring this about. Safe. -/
  | lineOutsideStore
  deriving DecidableEq, Repr

/-- What the model refuses. -/
inductive Refusal where
  /-- The command has no meaning in the model. Safe. -/
  | notModelled (mnemonic : String)
  /-- Raised by ATTN when a host store does not lie in the memory window (spec/00_scope.md, The way in). Safe. -/
  | hostWriteOutsideStore
  /-- Raised by HEAD_TEMPERATURE_SAMPLE and DENSITOMETER_READING for a value the sensor cannot read (R75, R85). Safe. -/
  | sensorRange
  deriving DecidableEq, Repr

end Sys2Proof.Machine
end

