-- ==== Sys2Proof/Machine/Ops.lean ====
section
/-! DEFINITION. Shared operations: the work store, positions and clock limits, the accessors of lanes, channels, queues
and classes, and the outcome every event ends in. -/

namespace Sys2Proof.Machine

/-! ## The work store -/

/-- The byte at an address; an unlisted address reads as the unwritten byte (log 2). -/
def Memory.read : Memory → Nat → Byte
  | [], _ => Config.unwrittenByte
  | (k, v) :: t, a => if k = a then v else Memory.read t a

/-- Stores one byte and keeps the canonical form. -/
def Memory.write : Memory → Nat → Byte → Memory
  | [], a, v => if v = Config.unwrittenByte then [] else [(a, v)]
  | (k, w) :: t, a, v =>
    if a < k then (if v = Config.unwrittenByte then (k, w) :: t else (a, v) :: (k, w) :: t)
    else if a = k then (if v = Config.unwrittenByte then t else (k, v) :: t)
    else (k, w) :: Memory.write t a v

/-- The canonical form: addresses strictly rising, no entry equal to what an unlisted address reads as. -/
abbrev Memory.wf (m : Memory) : Prop :=
  (m.map (·.1)).Pairwise (· < ·) ∧ ∀ c ∈ m, c.2 ≠ Config.unwrittenByte

/-- A little-endian number of `len` bytes (spec/00_scope.md, Store words). -/
def Memory.readNat (m : Memory) (a : Nat) : Nat → Nat
  | 0 => 0
  | len + 1 => (Memory.read m a).toNat + 256 * Memory.readNat m (a + 1) len

/-- Stores a number little-endian in `len` bytes, lowest byte first; higher bytes of the number are dropped. -/
def Memory.writeNat (m : Memory) (a : Nat) : Nat → Nat → Memory
  | 0, _ => m
  | len + 1, n => Memory.writeNat (Memory.write m a (BitVec.ofNat 8 n)) (a + 1) len (n / 256)

/-- A byte as a number. -/
def Memory.read8 (m : Memory) (a : Nat) : Nat := Memory.readNat m a 1

/-- A half-word. -/
def Memory.read16 (m : Memory) (a : Nat) : Nat := Memory.readNat m a 2

/-- A word as a number. -/
def Memory.read32 (m : Memory) (a : Nat) : Nat := Memory.readNat m a 4

/-- A word. -/
def Memory.readWord (m : Memory) (a : Nat) : Word := BitVec.ofNat 32 (Memory.read32 m a)

/-- Stores a byte given as a number. -/
def Memory.write8 (m : Memory) (a n : Nat) : Memory := Memory.writeNat m a 1 n

/-- Stores a half-word. -/
def Memory.write16 (m : Memory) (a n : Nat) : Memory := Memory.writeNat m a 2 n

/-- Stores a word given as a number. -/
def Memory.write32 (m : Memory) (a n : Nat) : Memory := Memory.writeNat m a 4 n

/-- Stores a word. -/
def Memory.writeWord (m : Memory) (a : Nat) (w : Word) : Memory := Memory.writeNat m a 4 w.toNat

/-- The `len` bytes from an address, lowest first. -/
def Memory.readBytes (m : Memory) (a len : Nat) : List Byte := (List.range len).map fun i => Memory.read m (a + i)

/-- A copy of the `len` bytes from `base`, at offsets from 0: what CONFIGURE copies into the gain memory (R61). -/
def Memory.slice (m : Memory) (base len : Nat) : Memory :=
  (m.filter fun c => base ≤ c.1 && c.1 < base + len).map fun c => (c.1 - base, c.2)

/-- The byte stores of the host, in order. -/
def Memory.hostWrites (m : Memory) (ws : List HostWrite) : Memory :=
  ws.foldl (fun m w => Memory.write m w.addr w.byte) m

/-! ## Positions and time limits -/

/-- Whether a position has been reached, compared by the difference modulo 2^32 (R94). -/
def reached (now pos : Word) : Bool := decide ((now - pos).toNat < 2147483648)

/-- Whether a time limit of `limit` milliseconds counted from `start` has fallen due (R175). -/
def elapsed (now start : Word) (limit : Nat) : Bool := decide (limit ≤ (now - start).toNat)

/-- A number as a position or clock difference. -/
def lines (n : Nat) : Word := BitVec.ofNat 32 n

/-- The loop fill F = X − Y (R94). -/
def loopFill (s : State) : Nat := (s.wt.x - s.wt.y).toNat

/-- The configuration in force; its fields read 0 before the first CONFIGURE, when no rule reads them. -/
def State.cfg (s : State) : Conf := s.conf.getD {}

/-! ## Accessors by name -/

def PerLane.get {α : Type} (p : PerLane α) : Lane → α
  | .a => p.a
  | .b => p.b

def PerLane.set {α : Type} (p : PerLane α) (l : Lane) (v : α) : PerLane α :=
  match l with
  | .a => { p with a := v }
  | .b => { p with b := v }

def PerChan.get {α : Type} (p : PerChan α) : Chan → α
  | .red => p.red
  | .green => p.green
  | .blue => p.blue

def PerChan.ofFn {α : Type} (f : Chan → α) : PerChan α := ⟨f .red, f .green, f .blue⟩

def PerQueue.get {α : Type} (p : PerQueue α) : QueueId → α
  | .express => p.express
  | .standard => p.standard
  | .bulk => p.bulk

def PerQueue.set {α : Type} (p : PerQueue α) (q : QueueId) (v : α) : PerQueue α :=
  match q with
  | .express => { p with express := v }
  | .standard => { p with standard := v }
  | .bulk => { p with bulk := v }

def PerClass.get {α : Type} (p : PerClass α) : NoticeClass → α
  | .a => p.a
  | .b => p.b
  | .c => p.c

def PerClass.set {α : Type} (p : PerClass α) (k : NoticeClass) (v : α) : PerClass α :=
  match k with
  | .a => { p with a := v }
  | .b => { p with b := v }
  | .c => { p with c := v }

/-- The channel's number in tables and records: red 0, green 1, blue 2 (R187 layouts). -/
def Chan.index : Chan → Nat
  | .red => 0
  | .green => 1
  | .blue => 2

def allChans : List Chan := [.red, .green, .blue]

/-- Queue numbers: EXPRESS 0, STANDARD 1, BULK 2 (R3). -/
def QueueId.index : QueueId → Nat
  | .express => 0
  | .standard => 1
  | .bulk => 2

/-- The queue a command's operand names; 3 or more names none (R4, R10, R12). -/
def QueueId.ofWord (w : Word) : Option QueueId :=
  if w = 0 then some .express else if w = 1 then some .standard else if w = 2 then some .bulk else none

/-- The key that names an entry. -/
def Entry.key (e : Entry) : EntryKey := ⟨e.x0, e.lane, e.kind⟩

/-- A PRINT entry flagged neither REJECT, LOST nor WITHDRAWN is live (R98). -/
def Entry.live (e : Entry) : Bool :=
  decide (e.kind = .print) && !e.flags.reject && !e.flags.lost && !e.flags.withdrawn

/-- Whether an entry is a print of the order with this number in this slot. -/
def Entry.ofOrder (e : Entry) (slot : Fin 8) (number : Word) : Bool :=
  match e.ref with
  | some r => decide (r.slot = slot) && decide (r.number = number)
  | none => false

/-- The MARKS_LOST condition: set while the consecutive-miss count is 2 (R112). -/
def CtState.marksLost (ct : CtState) : Bool := decide (ct.misses = 2)

/-- The conveyor runs in every state but CLEARED, unless the conveyor stop is set (R162). -/
def State.conveyorRuns (s : State) : Bool := decide (s.mc.state ≠ .cleared) && !s.mc.convStop

/-- The process feed runs in RUNNING and PAUSING (R95, R162). -/
def State.feedRuns (s : State) : Bool := decide (s.mc.state = .running) || decide (s.mc.state = .pausing)

/-- Asks for a composition attempt at the end of the event (R30, log 7). -/
def askAttempt (s : State) : State := { s with work := { s.work with attempt := true } }

/-- Asks for a writing of the machine status block at the end of the event (R185, log 8). -/
def askStatus (s : State) : State := { s with work := { s.work with status := true } }

/-- Replaces an entry of the track table. -/
def updateEntry (k : EntryKey) (f : Entry → Entry) (s : State) : State :=
  { s with wt := { s.wt with track := s.wt.track.map fun e => if e.key = k then f e else e } }

/-- The entry a key names. -/
def findEntry (s : State) (k : EntryKey) : Option Entry := s.wt.track.find? fun e => decide (e.key = k)

/-- What every event answers with. -/
abbrev Outcome := Host.Outcome State Fault Refusal

end Sys2Proof.Machine
end

