-- ==== Sys2Proof/Machine/Operands.lean ====
section
/-! DEFINITION. Every operand form: the command cell's words, the order record, the configuration record with its
gain table, and the price table, each read from the store by the layouts of spec/12_record_formats.md, and the checks
CONFIGURE and LOAD_PRICES make of them. -/

namespace Sys2Proof.Machine

/-! ## The command cell -/

/-- The markers of the command cell; the fourth value counts as not POSTED (R176). -/
def cellPosted (m : Memory) : Bool := decide (Memory.read8 m 0 % 4 = 1)

/-- The command code, bits 8 to 15 of word 0. -/
def cellCode (m : Memory) : Nat := Memory.read8 m 1

/-- Operand word 1. -/
def cellWord1 (m : Memory) : Word := Memory.readWord m 4

/-- Operand word 2. -/
def cellWord2 (m : Memory) : Word := Memory.readWord m 8

/-- The reply codes (R187, Command cell). -/
inductive ReplyCode where
  | done
  | illegalState
  | badOperand
  | badRecord
  | queueBusy
  | notParked
  | stillEnd
  | noSuchOrder
  | pricesBusy
  | conditionPresent
  | unknownCommand
  deriving DecidableEq, Repr

def ReplyCode.code : ReplyCode → Nat
  | .done => 1
  | .illegalState => 2
  | .badOperand => 3
  | .badRecord => 4
  | .queueBusy => 5
  | .notParked => 6
  | .stillEnd => 7
  | .noSuchOrder => 8
  | .pricesBusy => 9
  | .conditionPresent => 10
  | .unknownCommand => 11

/-- The lane mask an operand or a record byte names (R27, R97). -/
def laneMaskOf (n : Nat) : Option LaneMask :=
  if n = 1 then some .aOnly else if n = 2 then some .bOnly else if n = 3 then some .both else none

/-! ## Addresses -/

/-- A record the host names begins at a multiple of 64 above the anchor area, and its `len` bytes end inside the store
(R5 with 64 bytes, R147 with 16, R179 with 512). -/
def recordAddressOk (a len : Nat) : Bool :=
  decide (a % 64 = 0) && decide (Config.anchorBytes ≤ a) && decide (a + len ≤ Config.storeBytes)

/-- The record-address check of R5. -/
def orderAddressOk (a : Word) : Bool := recordAddressOk a.toNat 64

/-! ## The order record -/

def recLink (m : Memory) (a : Nat) : Word := Memory.readWord m a
def recNumber (m : Memory) (a : Nat) : Word := Memory.readWord m (a + 4)
def recItemCount (m : Memory) (a : Nat) : Nat := Memory.read16 m (a + 8)
/-- The price tier: the two low bits of its byte (R7). -/
def recTier (m : Memory) (a : Nat) : Nat := Memory.read8 m (a + 10) % 4
def recPromo (m : Memory) (a : Nat) : Nat := Memory.read16 m (a + 12)

/-- Where item `n` of a record begins. -/
def itemAddr (a n : Nat) : Nat := a + 64 + 32 * n

/-- The request fields of an item. -/
structure ItemReq where
  image : Nat
  width : Nat
  height : Nat
  size : Nat
  qty : Nat
  deriving DecidableEq, Repr

/-- The request of item `n`, read from the store (log 10). -/
def readItem (m : Memory) (a n : Nat) : ItemReq where
  image := Memory.read32 m (itemAddr a n)
  width := Memory.read16 m (itemAddr a n + 4)
  height := Memory.read16 m (itemAddr a n + 6)
  size := Memory.read8 m (itemAddr a n + 8)
  qty := Memory.read16 m (itemAddr a n + 10)

/-- The requests of all items of a record, in record order. -/
def readItems (m : Memory) (a : Nat) : List ItemReq := (List.range (recItemCount m a)).map (readItem m a)

/-- The line stride of an image: width times 3, rounded up to a multiple of 64 (spec/01, The order record). -/
def lineStride (width : Nat) : Nat := (3 * width + 63) / 64 * 64

/-- The size a code names, none when the configuration leaves it undefined (R97, R187). -/
def sizeOf (c : Conf) (code : Nat) : Option SizeDef := (c.sizes[code]?).join

/-- Tenths of a millimetre as lines or elements: times 1.2 (spec/00_scope.md, Units and conventions). -/
def tenthsToLines (t : Nat) : Nat := t * 12 / 10

/-- The row length of a size, 0 for an undefined one (R25). -/
def sizeLines (c : Conf) (code : Nat) : Nat := (sizeOf c code).elim 0 fun d => tenthsToLines d.length

/-- The width of a lane in tenths (R8, R26). -/
def laneWidth (c : Conf) : Nat :=
  match c.laneMode with
  | .oneUp => c.paperWidth
  | .twoUp => (c.paperWidth - 40) / 2

/-- A size fits when its width lies within the lane width and no more than 10 tenths below it (R8). -/
def sizeFits (c : Conf) (code : Nat) : Bool :=
  (sizeOf c code).any fun d => decide (d.width ≤ laneWidth c) && decide (laneWidth c ≤ d.width + 10)

/-- The sum of the item quantities (R7, check 9). -/
def printCount (items : List ItemReq) : Nat := (items.map (·.qty)).sum

/-- Division rounding up. -/
def ceilDiv (n d : Nat) : Nat := (n + d - 1) / d

/-! ## The configuration record (R60, R61, R81, R97, R127, R180) -/

/-- A half-word read as two's complement (R187). -/
def read16s (m : Memory) (a : Nat) : Int :=
  if Memory.read16 m a < 32768 then (Memory.read16 m a : Int) else (Memory.read16 m a : Int) - 65536

/-- Three half-words, red, green, blue. -/
def readChan16 (m : Memory) (a : Nat) : PerChan Nat := PerChan.ofFn fun c => Memory.read16 m (a + 2 * c.index)

/-- `n` half-words from an address. -/
def readList16 (m : Memory) (a n : Nat) : List Nat := (List.range n).map fun i => Memory.read16 m (a + 2 * i)

/-- A size entry; width 0 is undefined (R187 layouts). -/
def readSize (m : Memory) (a : Nat) : Option SizeDef :=
  if Memory.read16 m a = 0 then none
  else some { width := Memory.read16 m a, length := Memory.read16 m (a + 2), group := Memory.read8 m (a + 4) }

/-- The address of the gain table that a configuration record names. -/
def gainAddr (m : Memory) (a : Nat) : Nat := Memory.read32 m (a + 8)

/-- The configuration a record and its gain table spell. -/
def parseConf (m : Memory) (a : Nat) : Conf where
  paperWidth := Memory.read16 m a
  surface := Memory.read8 m (a + 2)
  laneMode := if Memory.read8 m (a + 3) = 2 then .twoUp else .oneUp
  initMask := (laneMaskOf (Memory.read8 m (a + 4))).getD .aOnly
  markWin := Memory.read16 m (a + 6)
  clipLimit := Memory.read32 m (a + 0xC)
  loopMax := Memory.read16 m (a + 0x10)
  minPiece := Memory.read16 m (a + 0x12)
  lDens := Memory.read16 m (a + 0x14)
  lMk := Memory.read16 m (a + 0x16)
  lCut := Memory.read16 m (a + 0x18)
  thetaRef := Memory.read16 m (a + 0x1A)
  thetaMax := Memory.read16 m (a + 0x1C)
  calDrift := Memory.read16 m (a + 0x1E)
  binCount := Memory.read8 m (a + 0x20)
  pMin := Memory.read8 m (a + 0x21)
  binCap := Memory.read16 m (a + 0x22)
  confirmLimit := Memory.read16 m (a + 0x24)
  unloadLimit := Memory.read16 m (a + 0x26)
  tempCoef := PerChan.ofFn fun c => read16s m (a + 0x28 + 2 * c.index)
  target := readChan16 m (a + 0x30)
  initBal := readChan16 m (a + 0x38)
  patchCode := PerChan.ofFn fun c => Memory.read8 m (a + 0x40 + c.index)
  sizes := (List.range 16).map fun i => readSize m (a + 0x48 + 8 * i)
  curve := PerChan.ofFn fun c => readList16 m (a + 0xC8 + 34 * c.index) 17
  table := PerChan.ofFn fun c => readList16 m (a + 0x130 + 66 * c.index) 33
  gains := Memory.slice m (gainAddr m a) Config.gainBytes

/-- The class enables of a configuration record: bits 0, 1, 2 for A, B, C (R180). -/
def parseEnables (m : Memory) (a : Nat) : PerClass Bool :=
  let e := Memory.read8 m (a + 5)
  ⟨e.testBit 0, e.testBit 1, e.testBit 2⟩

/-- One check of a record: the offset it names, and whether it passes. -/
abbrev FieldCheck := Nat × Bool

/-- Whether a number lies in a range. -/
def within (lo n hi : Nat) : Bool := decide (lo ≤ n) && decide (n ≤ hi)

/-- A gain passes when it is 0 or lies from 2048 to 6143 (R61). -/
def gainOk (g : Nat) : Bool := decide (g = 0) || within 2048 g 6143

/-- The gain table check: the address check of R60, then every gain of R61. -/
def gainTableOk (m : Memory) (g : Nat) : Bool :=
  recordAddressOk g Config.gainBytes &&
    (List.range (3 * Config.headElements)).all fun i => gainOk (Memory.read16 m (g + 2 * i))

/-- The greatest of the defined size lengths in lines, CAL_LEN and MIN_PIECE (R79). DESIGN CHOICE (log 37): a length that is
not a multiple of 5, itself refused, has no whole number of lines (R179); it is rounded down here. -/
def longestRow (c : Conf) : Nat :=
  (c.sizes.filterMap fun d => d.map fun d => tenthsToLines d.length).foldl max (max Config.calLen c.minPiece)

/-- The checks of size entry `i` (R97); an undefined entry is not checked. -/
def sizeChecks (c : Conf) (i : Nat) : List FieldCheck :=
  match sizeOf c i with
  | none => []
  | some d =>
    [(0x48 + 8 * i, within 500 d.width 3050 && decide (d.width % 5 = 0)),
     (0x48 + 8 * i + 2, within 500 d.length 4570 && decide (d.length % 5 = 0)),
     (0x48 + 8 * i + 4, within 0 d.group 15)]

/-- The checks of a channel's fields (R60, R81). -/
def chanChecks (c : Conf) (k : Chan) : List FieldCheck :=
  [(0x28 + 2 * k.index, decide (-64 ≤ c.tempCoef.get k) && decide (c.tempCoef.get k ≤ 64)),
   (0x30 + 2 * k.index, within 50 (c.target.get k) 3999),
   (0x38 + 2 * k.index, within 2048 (c.initBal.get k) 6143)] ++
  (c.curve.get k).mapIdx fun i v => (0xC8 + 34 * k.index + 2 * i, within 0 v 4095)

/-- The comparisons of BIN_COUNT and BIN_CAP with the bin table (R127). -/
def binChecks (c : Conf) (binCapNow : Nat) (bins : Vector Bin 32) : List FieldCheck :=
  let all := bins.toList
  let noneBeyond := (all.mapIdx fun i b => decide (b.state = .free) || decide (i < c.binCount)).all id
  let held := all.any fun b => decide (b.state = .reserved) || decide (b.state = .filling) || decide (b.state = .full)
  [(0x20, within 4 c.binCount 32 && noneBeyond),
   (0x22, within 10 c.binCap 250 && (!held || decide (c.binCap = binCapNow)))]

/-- Every check CONFIGURE makes of the record at `a`, with the offset each names (R60, R61, R79, R81, R97, R127, R180,
R187). Fields that take every value they can hold are not listed. -/
def confChecks (m : Memory) (a : Nat) (binCapNow : Nat) (bins : Vector Bin 32) : List FieldCheck :=
  let c := parseConf m a
  let mode := Memory.read8 m (a + 3)
  let mask := Memory.read8 m (a + 4)
  [(0x00, within 890 c.paperWidth 3050 && decide (c.paperWidth % 5 = 0)),
   (0x02, within 0 c.surface 7),
   (0x03, decide (mode = 1) || (decide (mode = 2) && decide (1020 ≤ c.paperWidth))),
   (0x04, within 1 mask 3 && (!decide (mode = 1) || !decide (mask = 2))),
   (0x05, decide (Memory.read8 m (a + 5) < 8)),
   (0x06, within 0 c.markWin 120),
   (0x08, gainTableOk m (gainAddr m a)),
   (0x10, decide (c.loopMax ≤ 30000) && decide (2 * longestRow c ≤ c.loopMax)),
   (0x12, within 600 c.minPiece 2400),
   (0x14, within 240 c.lDens 24000),
   (0x16, decide (c.lDens < c.lMk) && decide (c.lMk ≤ 24000)),
   (0x18, decide (c.lMk + 2 * c.markWin + 1 < c.lCut) && decide (c.lCut ≤ 24000)),
   (0x1A, within 0 c.thetaRef 400),
   (0x1C, within 0 c.thetaMax 400),
   (0x1E, within 4 c.calDrift 80),
   (0x24, within 100 c.confirmLimit 5000),
   (0x26, within 0 c.unloadLimit 3600)] ++
  binChecks c binCapNow bins ++ allChans.flatMap (chanChecks c) ++ (List.range 16).flatMap (sizeChecks c)

/-- The lowest offset that a failing check names (R179). -/
def lowestFailing (cs : List FieldCheck) : Option Nat := ((cs.filter (!·.2)).map (·.1)).min?

/-! ## The price table (R146, R148, R189) -/

def lineAddr (a n : Nat) : Nat := a + 0x10 + 20 * n
def promoAddr (a nLines n : Nat) : Nat := a + 0x10 + 20 * nLines + 12 * n

/-- Surface and tier: 0xFF is ANY. -/
def anyOr (n : Nat) : Option Nat := if n = 0xFF then none else some n

def readBreak (m : Memory) (l j : Nat) : Break where
  minimum := Memory.read16 m (l + 8 + 4 * j)
  price := Memory.read16 m (l + 8 + 4 * j + 2)

/-- A price line; breaks beyond its count are not read (R189). -/
def readLine (m : Memory) (l : Nat) : PriceLine where
  group := Memory.read8 m l
  surface := anyOr (Memory.read8 m (l + 1))
  tier := anyOr (Memory.read8 m (l + 2))
  base := Memory.read16 m (l + 4)
  breaks := (List.range (Memory.read8 m (l + 3))).map (readBreak m l)

def promoKindOf (n : Nat) : Option PromoKind :=
  if n = 1 then some .percent else if n = 2 then some .freeNth else if n = 3 then some .fixedOff else none

def readPromo (m : Memory) (p : Nat) : Promotion where
  code := Memory.read16 m p
  kind := (promoKindOf (Memory.read8 m (p + 2))).getD .percent
  value := Memory.read16 m (p + 4)
  mask := BitVec.ofNat 16 (Memory.read16 m (p + 6))
  qualifying := Memory.read32 m (p + 8)

/-- The price table at an address. -/
def parsePrices (m : Memory) (a : Nat) : PriceTable where
  lines := (List.range (Memory.read16 m a)).map fun n => readLine m (lineAddr a n)
  promos := (List.range (Memory.read16 m (a + 2))).map fun n => readPromo m (promoAddr a (Memory.read16 m a) n)
  minCharge := Memory.read16 m (a + 4)

/-- The checks of price line `n` (R148, R189). -/
def lineChecks (m : Memory) (a n : Nat) : List FieldCheck :=
  let l := lineAddr a n
  let o := 0x10 + 20 * n
  let k := Memory.read8 m (l + 3)
  [(o, within 0 (Memory.read8 m l) 15),
   (o + 1, within 0 (Memory.read8 m (l + 1)) 7 || decide (Memory.read8 m (l + 1) = 0xFF)),
   (o + 2, within 0 (Memory.read8 m (l + 2)) 3 || decide (Memory.read8 m (l + 2) = 0xFF)),
   (o + 3, within 0 k 3)] ++
  (if k ≤ 3 then (List.range k).map fun j =>
      (o + 8 + 4 * j, within 2 (readBreak m l j).minimum 9999 &&
        (decide (j = 0) || decide ((readBreak m l (j - 1)).minimum < (readBreak m l j).minimum)))
    else [])

/-- Whether a value lies within the range of its kind (R146). -/
def promoValueOk (kind : PromoKind) (v : Nat) : Bool :=
  match kind with
  | .percent => within 1 v 100
  | .freeNth => within 2 v 100
  | .fixedOff => within 0 v 65535

/-- The checks of promotion `n` of a table of `nLines` lines (R148, R189). -/
def promoChecks (m : Memory) (a nLines n : Nat) : List FieldCheck :=
  let p := promoAddr a nLines n
  let o := 0x10 + 20 * nLines + 12 * n
  let code := Memory.read16 m p
  [(o, within 1 code 65535 && (List.range n).all fun j => !decide (Memory.read16 m (promoAddr a nLines j) = code))] ++
  match promoKindOf (Memory.read8 m (p + 2)) with
  | none => [(o + 2, false)]
  | some k => [(o + 4, promoValueOk k (Memory.read16 m (p + 4)))]

/-- Every check LOAD_PRICES makes of the table at `a` (R148, R189). -/
def priceChecks (m : Memory) (a : Nat) : List FieldCheck :=
  let nl := Memory.read16 m a
  let np := Memory.read16 m (a + 2)
  let counts : List FieldCheck := [(0, within 1 nl 64), (2, within 0 np 8)]
  if counts.all (·.2) then
    if a + 16 + 20 * nl + 12 * np ≤ Config.storeBytes then
      (List.range nl).flatMap (lineChecks m a) ++ (List.range np).flatMap (promoChecks m a nl)
    else [(0, false)]
  else counts

end Sys2Proof.Machine
end

