-- ==== Sys2Proof/Machine/Exposure.lean ====
section
/-! DEFINITION. The exposure arithmetic: the seven stages from a code value to a drive value, and the drive line sent
to the head (R46 to R59, R69). -/

namespace Sys2Proof.Machine

/-- The n-th of a list of knots. -/
def knot (ks : List Nat) (i : Nat) : Nat := ks.getD i 0

/-- Interpolation between knots `step` apart: K[i] + floor(((K[i+1] − K[i]) × f + step/2) / step), the floor toward
minus infinity (R48, R49). -/
def interpolate (ks : List Nat) (step v : Nat) : Nat :=
  let i := v / step
  let f := v % step
  ((knot ks i : Int) + (((knot ks (i + 1) : Int) - knot ks i) * f + (step / 2 : Nat)) / step).toNat

/-- Stage 1: code value to density (R48). -/
def density (curve : List Nat) (v : Nat) : Nat := interpolate curve 16 v

/-- Stage 2: density to exposure in sixteenths of a tick (R49); the Calibration Unit uses the same (R86, R87). -/
def exposure (table : List Nat) (d : Nat) : Nat := interpolate table 128 d

/-- Scaling by a factor in units of 1/4096, half up (R50, R51, R52). -/
def scale (x factor : Nat) : Nat := (x * factor + 2048) / 4096

/-- The temperature factor Φ of a channel, held within 3072 to 5120 (R51). -/
def tempFactor (k : Int) (theta thetaRef : Nat) : Nat :=
  (max 3072 (min 5120 (4096 + k * ((theta : Int) - thetaRef)))).toNat

/-- Stage 6: sixteenths of a tick to ticks, half up (R53). -/
def ticks (b : Nat) : Nat := (b + 8) / 16

/-- Stage 7, the short pulses: away from the lengths below P_min (R56). -/
def shortPulse (pMin t : Nat) : Nat :=
  if t = 0 then 0 else if pMin ≤ t then t else if pMin ≤ 2 * t then pMin else 0

/-- The gain of a channel and element, from the gain memory (R61). -/
def gainOf (c : Conf) (k : Chan) (e : Nat) : Nat := Memory.read16 c.gains (2 * (Config.headElements * k.index + e))

/-- The ticks of stage 6 for a code value under an element of nonzero gain (R48 to R53). -/
def ticksOf (c : Conf) (ctx : RowContext) (k : Chan) (e v : Nat) : Nat :=
  let x := exposure (c.table.get k) (density (c.curve.get k) v)
  let g := scale x (gainOf c k e)
  let h := scale g (ctx.phi.get k)
  ticks (scale h ((ctx.bal.getD ⟨0, 0, 0⟩).get k))

/-- The drive value of a code value: 0 at a disabled element (R50), 4095 when clamped (R54), the short-pulse rule below (R56). -/
def driveValue (c : Conf) (ctx : RowContext) (k : Chan) (e v : Nat) : Nat :=
  if gainOf c k e = 0 then 0
  else if 4095 < ticksOf c ctx k e v then 4095
  else shortPulse c.pMin (ticksOf c ctx k e v)

/-- Whether stage 7 clamps the value (R54); a disabled element clamps nothing (R50). -/
def clamped (c : Conf) (ctx : RowContext) (k : Chan) (e v : Nat) : Bool :=
  !decide (gainOf c k e = 0) && decide (4095 < ticksOf c ctx k e v)

/-- The code value of channel `k` at column `p`: three bytes to a pixel, red first (R47). -/
def codeValue (pixels : List Byte) (k : Chan) (p : Nat) : Nat := (pixels.getD (3 * p + k.index) 0).toNat

/-- The first element of the paper, E0 (R26). -/
def paperFirst (c : Conf) : Nat := (Config.headElements - tenthsToLines c.paperWidth) / 2

/-- The elements of the paper (R26). -/
def paperElements (c : Conf) : Nat := tenthsToLines c.paperWidth

/-- The first element of a print of width `w` tenths in a lane (R26). -/
def printFirst (c : Conf) (lane : Lane) (w : Nat) : Nat :=
  match c.laneMode with
  | .oneUp => (Config.headElements - tenthsToLines w) / 2
  | .twoUp =>
    let le := tenthsToLines (laneWidth c)
    let span := match lane with
      | .a => paperFirst c + 12
      | .b => paperFirst c + paperElements c - 12 - le
    span + (le - tenthsToLines w) / 2

/-- The elements of the boundary mark (R69). -/
def underMark (c : Conf) (e : Nat) : Bool :=
  decide (paperFirst c ≤ e) && decide (e < paperFirst c + Config.markElements)

/-- The drive value of the boundary mark at an element and channel (R69). -/
def markValue (c : Conf) (k : Chan) (e : Nat) : Nat := if gainOf c k e = 0 then 0 else 4095

/-- The lines of a row that carry half a boundary mark: the first four and the last four (R69). -/
def markLine (length line : Nat) : Bool := decide (line < 4) || decide (length ≤ line + 4)

/-- What a row exposes on one line outside the boundary mark. -/
structure LineImage where
  kind : RowKind
  ctx : RowContext
  /-- Each lane's print and the pixels sent for it, none where the lane exposes nothing. -/
  lanes : PerLane (Option (PrintSpec × List Byte))
  deriving DecidableEq, Repr

/-- Whether an element lies under a print (R47). -/
def underPrint (p : PrintSpec) (e : Nat) : Bool := decide (p.first ≤ e) && decide (e < p.first + p.width)

/-- The value of one lane's print at an element, none outside the print (R47). -/
def laneValue (c : Conf) (ctx : RowContext) (l : Option (PrintSpec × List Byte)) (k : Chan) (e : Nat) : Option Nat :=
  l.bind fun (p, px) => if underPrint p e then some (driveValue c ctx k e (codeValue px k (e - p.first))) else none

/-- The value at an element from the prints, the patch, or blank paper (R47, R59). -/
def rowValue (c : Conf) (im : LineImage) (k : Chan) (e : Nat) : Nat :=
  match im.kind with
  | .print =>
    match laneValue c im.ctx im.lanes.a k e, laneValue c im.ctx im.lanes.b k e with
    | some v, _ => v
    | none, some v => v
    | none, none => 0
  | .calib =>
    if paperFirst c ≤ e ∧ e < paperFirst c + paperElements c then driveValue c im.ctx k e (c.patchCode.get k) else 0
  | .blank => 0

/-- The value at an element of a line: the boundary mark replaces what lies beneath (R69). -/
def lineValue (c : Conf) (marked : Bool) (im : LineImage) (k : Chan) (e : Nat) : Nat :=
  if marked && underMark c e then markValue c k e else rowValue c im k e

/-- The drive line: 3 × 3664 values, red, green, blue (R46). -/
def driveLine (c : Conf) (marked : Bool) (im : LineImage) : List Nat :=
  allChans.flatMap fun k => (List.range Config.headElements).map fun e => lineValue c marked im k e

/-- The drive line of a lead-in: the mark and nothing else (R70). -/
def leadInLine (c : Conf) : List Nat :=
  allChans.flatMap fun k =>
    (List.range Config.headElements).map fun e => if underMark c e then markValue c k e else 0

/-- How much one line raises a print's clip count: one for each clamped value of the print (R54, R55). The values beneath
the boundary mark are computed like the others (R47) and count; R69 only replaces what is sent. -/
def clipsOfLine (c : Conf) (ctx : RowContext) (p : PrintSpec) (px : List Byte) : Nat :=
  (allChans.map fun k =>
    ((List.range p.width).filter fun i => clamped c ctx k (p.first + i) (codeValue px k i)).length).sum

end Sys2Proof.Machine
end

