-- ==== Sys2Proof/Machine/Flags.lean ====
section
/-! DEFINITION. Codes of every enumeration the host reads, the notices and the interrupt line, SUMMARY, and the two
blocks the part writes in the anchor area (R174 to R188). -/

namespace Sys2Proof.Machine

/-! ## Codes (spec/12_record_formats.md) -/

def MachineState.code : MachineState → Nat
  | .cleared => 0
  | .ready => 1
  | .running => 2
  | .pausing => 3
  | .paused => 4
  | .faulted => 5

def FaultCause.code : FaultCause → Nat
  | .noFault => 0
  | .coverOpen => 1
  | .jamWeb => 2
  | .jamConveyor => 3
  | .marksLost => 4

def PauseCause.code : PauseCause → Nat
  | .noPause => 0
  | .host => 1
  | .paperOut => 2
  | .faultCleared => 3

def CalState.code : CalState → Nat
  | .valid => 0
  | .due => 1
  | .inFlight => 2
  | .stale => 3

def LaneMask.code : LaneMask → Nat
  | .aOnly => 1
  | .bOnly => 2
  | .both => 3

def QueueState.code : QueueState → Nat
  | .idle => 0
  | .active => 1
  | .parked => 2
  | .blocked => 3
  | .halted => 4

def HaltReason.code : HaltReason → Nat
  | .noHalt => 0
  | .badLink => 1
  | .deferFull => 2

def NoticeClass.code : NoticeClass → Nat
  | .a => 1
  | .b => 2
  | .c => 3

/-- The class of a cause (the table above R181). -/
def Cause.cls : Cause → NoticeClass
  | .fault | .paused | .headHot | .headCool | .calFailed | .strayPrint | .misrouted | .conveyorFull => .a
  | .orderDone | .orderRefused | .paperWanted | .remakeRefused | .queueParked | .queueHalted | .pricesRetired => .b
  | .noFreeBin | .binWaiting | .binDisturbed | .splitToCatch => .c

/-- The code of a cause in its class. -/
def Cause.code : Cause → Nat
  | .fault => 1
  | .paused => 2
  | .headHot => 3
  | .headCool => 4
  | .calFailed => 5
  | .strayPrint => 6
  | .misrouted => 7
  | .conveyorFull => 8
  | .orderDone => 1
  | .orderRefused => 2
  | .paperWanted => 3
  | .remakeRefused => 4
  | .queueParked => 5
  | .queueHalted => 6
  | .pricesRetired => 7
  | .noFreeBin => 1
  | .binWaiting => 2
  | .binDisturbed => 3
  | .splitToCatch => 4

/-! ## Notices and the interrupt line -/

/-- Where a class's notice slot lies (R187, The anchor area). -/
def NoticeClass.slotAddr : NoticeClass → Nat
  | .a => 0x40
  | .b => 0x50
  | .c => 0x60

/-- A class is taken to be occupied while the Command Unit holds a copy of a posted notice (R181). -/
def ClassState.occupied (c : ClassState) : Bool := c.posted.isSome

/-- The level the interrupt line has by R184: some enabled class is occupied. -/
def CuState.lineLevel (c : CuState) : Bool :=
  (c.enables.a && c.classes.a.occupied) || (c.enables.b && c.classes.b.occupied) ||
    (c.enables.c && c.classes.c.occupied)

/-- Judges the interrupt line (R184). -/
def judgeLine (s : State) : State := { s with cu := { s.cu with irq := s.cu.lineLevel } }

/-- Word 0 of a notice slot: class, cause and "more" mark. -/
def Notice.word0 (n : Notice) : Nat :=
  n.cause.cls.code + 256 * n.cause.code + (if n.more then 2147483648 else 0)

/-- Writes a notice into the slot of a class: words 1, 2 and 3 and then word 0 (R188). -/
def writeSlot (k : NoticeClass) (n : Notice) (m : Memory) : Memory :=
  let m := Memory.writeWord m (k.slotAddr + 4) n.subject
  let m := Memory.writeWord m (k.slotAddr + 8) n.stamp
  let m := Memory.write32 m (k.slotAddr + 12) 0
  Memory.write32 m k.slotAddr n.word0

/-- Equal in cause and subject (R181). -/
def Notice.alike (n m : Notice) : Bool := decide (n.cause = m.cause) && decide (n.subject = m.subject)

/-- Puts a notice into the slot of a class, keeps the copy and judges the line (R181, R184). -/
def occupy (k : NoticeClass) (n : Notice) (held : List Notice) (s : State) : State :=
  judgeLine { s with
    cu := { s.cu with classes := s.cu.classes.set k { posted := some n, held := held } }
    store := writeSlot k n s.store }

/-- Sets the "more" mark of the newest held notice (R181). -/
def markMore : List Notice → List Notice
  | [] => []
  | [n] => [{ n with more := true }]
  | n :: ns => n :: markMore ns

/-- A block raises a notice: merged, posted, held, or not kept (R181). -/
def post (c : Cause) (subject : Word) (s : State) : State :=
  let n : Notice := { cause := c, subject := subject, stamp := s.cu.lineClock }
  let k := s.cu.classes.get c.cls
  if k.posted.any (·.alike n) || k.held.any (·.alike n) then s
  else if !k.occupied then occupy c.cls n k.held s
  else
    let held := if k.held.length < Config.heldCap then k.held ++ [n] else markMore k.held
    { s with cu := { s.cu with classes := s.cu.classes.set c.cls { k with held := held } } }

/-- One class at an attention: a slot whose word 0 reads 0 is free, and takes the oldest held notice (R183). -/
def freeSlot (k : NoticeClass) (s : State) : State :=
  if (s.cu.classes.get k).occupied && decide (Memory.read32 s.store k.slotAddr = 0) then
    match (s.cu.classes.get k).held with
    | n :: rest => occupy k n rest s
    | [] => judgeLine { s with cu := { s.cu with classes := s.cu.classes.set k { posted := none, held := [] } } }
  else s

/-- The reading of the notice slots at an attention (R183). -/
def readSlots (s : State) : State := freeSlot .c (freeSlot .b (freeSlot .a s))

/-- What a read of SUMMARY returns (R174). -/
def State.summary (s : State) : Word :=
  BitVec.ofNat 32
    (s.mc.state.code + (if s.cu.classes.a.occupied then 16 else 0) + (if s.cu.classes.b.occupied then 32 else 0)
      + (if s.cu.classes.c.occupied then 64 else 0) + (if s.cu.irq then 256 else 0)
      + (if s.cu.attnPending then 512 else 0) + (if s.cu.job.isSome then 1024 else 0))

/-- What an access of the host to the register window names (R174); the spec gives the registers no offsets. -/
inductive Register where
  | attn
  | summary
  | clear
  /-- An offset without a register. -/
  | none
  deriving DecidableEq, Repr

/-- What a read of the register window returns (R174). A read has no effect, so it is a function of the state and no
command. -/
def State.readRegister (s : State) : Register → Word
  | .summary => s.summary
  | .attn | .clear | .none => 0

/-! ## Blocks the part writes -/

/-- The number of open orders (R15). -/
def openCount (s : State) : Nat := (s.om.table.toList.filter (·.isSome)).length

/-- The number of the CURRENT generation, 0 for none (R145). -/
def currentGen (s : State) : Word :=
  ((s.pu.gens.toList.filterMap id).find? (·.current)).elim 0 (·.number)

/-- The number of the RETIRING generation, 0 for none (R145). -/
def heldGen (s : State) : Word :=
  ((s.pu.gens.toList.filterMap id).find? (!·.current)).elim 0 (·.number)

/-- Writes the machine status block at 0x200, its fields in offset order, the line clock last (R185). -/
def writeStatus (s : State) : State :=
  let bal := s.ca.bal.getD ⟨0, 0, 0⟩
  let m := s.store
  let m := Memory.write8 m 0x200 s.mc.state.code
  let m := Memory.write8 m 0x201 s.mc.faultCause.code
  let m := Memory.write8 m 0x202 s.mc.pauseCause.code
  let m := Memory.write8 m 0x203 s.ca.state.code
  let m := Memory.writeWord m 0x204 s.wt.x
  let m := Memory.writeWord m 0x208 s.wt.y
  let m := Memory.write32 m 0x20C (loopFill s)
  let m := Memory.write16 m 0x210 s.ee.sample
  let m := Memory.write8 m 0x212 s.ee.maskInForce.code
  let m := Memory.write8 m 0x213 s.rc.mask.code
  let m := Memory.write16 m 0x214 bal.red
  let m := Memory.write16 m 0x216 bal.green
  let m := Memory.write16 m 0x218 bal.blue
  let m := Memory.write8 m 0x21A (openCount s)
  let m := Memory.write8 m 0x21B s.wt.track.length
  let m := Memory.writeWord m 0x21C s.wt.paperUsed
  let m := Memory.writeWord m 0x220 s.wt.waste
  let m := Memory.writeWord m 0x224 (currentGen s)
  let m := Memory.writeWord m 0x228 (heldGen s)
  let m := Memory.writeWord m 0x22C s.cu.lineClock
  { s with store := m }

/-- Where a queue's control block lies. -/
def QueueId.blockAddr (q : QueueId) : Nat := 0x100 + 0x20 * q.index

/-- Writes a queue's control block, its fields in offset order, the count last (R3, R185). -/
def writeControlBlock (q : QueueId) (s : State) : State :=
  let c := s.om.queues.get q
  let m := s.store
  let m := Memory.write8 m q.blockAddr c.state.code
  let m := Memory.write8 m (q.blockAddr + 1) c.halt.code
  let m := Memory.writeWord m (q.blockAddr + 4) c.next
  let m := Memory.writeWord m (q.blockAddr + 8) c.tail
  let m := Memory.writeWord m (q.blockAddr + 12) c.taken
  { s with store := m }

/-- Changes a queue context and writes its control block (R3). -/
def setQueue (q : QueueId) (c : QueueCtx) (s : State) : State :=
  writeControlBlock q { s with om := { s.om with queues := s.om.queues.set q c } }

end Sys2Proof.Machine
end

