-- ==== Sys2Proof/Machine/Pricing.lean ====
section
/-! DEFINITION. The Pricing Unit: the close computation, the tally, and the price generations (R145 to R160). -/

namespace Sys2Proof.Machine

/-! ## The close computation -/

/-- What the Pricing Unit gives the Order Manager at close (R157). -/
structure Price where
  subtotal : Nat := 0
  discount : Nat := 0
  total : Nat := 0
  noPriceLine : Bool := false
  promoUnknown : Bool := false
  promoNotMet : Bool := false
  minCharge : Bool := false
  withdrawnUncharged : Bool := false
  deriving DecidableEq, Repr

/-- The price flags byte (R187, order record). -/
def Price.flags (p : Price) : Nat :=
  (if p.noPriceLine then 1 else 0) + (if p.promoUnknown then 2 else 0) + (if p.promoNotMet then 4 else 0) +
    (if p.minCharge then 8 else 0) + (if p.withdrawnUncharged then 16 else 0)

/-- Whether a line matches a kind and tier at one of the four levels (R153). -/
def PriceLine.matchesAt (l : PriceLine) (k : ItemKind) (tier : Nat) (level : Fin 4) : Bool :=
  let surface := if level = 0 ∨ level = 1 then l.surface = some k.surface else l.surface = none
  let tierOk := if level = 0 ∨ level = 2 then l.tier = some tier else l.tier = none
  decide (l.group = k.group) && decide surface && decide tierOk

/-- The price line used for a kind: the first in table order at the lowest level at which any matches (R153). -/
def lineFor (ls : List PriceLine) (k : ItemKind) (tier : Nat) : Option PriceLine :=
  (List.finRange 4).findSome? fun level => ls.find? fun l => l.matchesAt k tier level

/-- The unit price of a quantity: the break with the greatest minimum not above it, else the base price (R154). -/
def PriceLine.unitPrice (l : PriceLine) (q : Nat) : Nat :=
  ((l.breaks.filter fun b => decide (b.minimum ≤ q)).getLast?).elim l.base (·.price)

/-- A tally entry priced: its unit price, none when no line matches (R153, R154). -/
def priceEntry (t : PriceTable) (tier : Nat) (e : TallyEntry) : Option Nat :=
  (lineFor t.lines e.kind tier).map fun l => l.unitPrice e.qty

/-- The amount of a tally entry (R154). -/
def amountOf (t : PriceTable) (tier : Nat) (e : TallyEntry) : Nat := e.qty * (priceEntry t tier e).getD 0

/-- The entries whose group is in a promotion's mask (R155). -/
def masked (p : Promotion) (tally : List TallyEntry) : List TallyEntry :=
  tally.filter fun e => p.mask.getLsbD e.kind.group

/-- The masked amount A (R155). -/
def maskedAmount (t : PriceTable) (tier : Nat) (p : Promotion) (tally : List TallyEntry) : Nat :=
  ((masked p tally).map (amountOf t tier)).sum

/-- The discount of a promotion that is found and met (R156). -/
def discountOf (t : PriceTable) (tier : Nat) (p : Promotion) (tally : List TallyEntry) : Nat :=
  match p.kind with
  | .percent => (maskedAmount t tier p tally * p.value + 50) / 100
  | .freeNth => ((masked p tally).map fun e => e.qty / p.value * (priceEntry t tier e).getD 0).sum
  | .fixedOff => min p.value (maskedAmount t tier p tally)

/-- The close computation of an order that has a generation (R153 to R157). -/
def priceTally (t : PriceTable) (tier promo : Nat) (tally : List TallyEntry) : Price :=
  let s := (tally.map (amountOf t tier)).sum
  let found := t.promos.find? fun p => decide (p.code = promo)
  let met := found.filter fun p => decide (p.qualifying ≤ s)
  let d := if promo = 0 then 0 else met.elim 0 fun p => discountOf t tier p tally
  let raised := decide (s ≠ 0) && decide (s - d < t.minCharge)
  { subtotal := s
    discount := d
    total := if s = 0 then 0 else if raised then t.minCharge else s - d
    noPriceLine := tally.any fun e => (priceEntry t tier e).isNone
    promoUnknown := decide (promo ≠ 0) && found.isNone
    promoNotMet := decide (promo ≠ 0) && found.isSome && met.isNone
    minCharge := raised }

/-- The close computation of an order that took no generation (R158). -/
def priceWithout (promo : Nat) : Price := { noPriceLine := true, promoUnknown := decide (promo ≠ 0) }

/-! ## Generations -/

/-- The installed table of a generation number. -/
def tableOf (s : State) (g : Word) : Option PriceTable :=
  ((s.pu.gens.toList.filterMap id).find? fun x => decide (x.number = g)).map (·.table)

/-- The price of an order at its close (R158, R159, R24). -/
def priceOrder (s : State) (slot : Fin 8) (o : OpenOrder) : Price :=
  if o.phase = .withdrawing false then { withdrawnUncharged := true }
  else match o.gen.bind (tableOf s) with
    | none => priceWithout o.promo
    | some t => priceTally t o.tier o.promo s.pu.orders[slot].tally

/-- Changes one generation slot. -/
def setGen (i : Fin 2) (g : Option GenSlot) (s : State) : State :=
  { s with pu := { s.pu with gens := s.pu.gens.set i.1 g i.2 } }

/-- The number of the CURRENT generation, as an opening takes it (R150). -/
def genForOpening (s : State) : Option Word := ((s.pu.gens.toList.filterMap id).find? (·.current)).map (·.number)

/-- The index of the slot that satisfies a test. -/
def findGen (s : State) (f : GenSlot → Bool) : Option (Fin 2) :=
  (List.finRange 2).find? fun i => (s.pu.gens[i]).any f

/-- Raises or lowers the hold count of a generation slot. -/
def setHold (i : Fin 2) (f : Nat → Nat) (s : State) : State :=
  match s.pu.gens[i] with
  | some g => setGen i (some { g with hold := f g.hold }) s
  | none => s

/-- An opening takes the CURRENT generation: its hold count rises by one (R150). -/
def holdCurrent (s : State) : State :=
  match findGen s (·.current) with
  | some i => setHold i (· + 1) s
  | none => s

/-- Retires a RETIRING generation whose hold count is 0 (R150). -/
def retireIfUnheld (i : Fin 2) (s : State) : State :=
  match s.pu.gens[i] with
  | some g => if !g.current && decide (g.hold = 0) then post .pricesRetired g.number (setGen i none s) else s
  | none => s

/-- A close gives back the generation its order holds (R150). -/
def releaseGen (g : Option Word) (s : State) : State :=
  match g.bind fun n => findGen s fun x => decide (x.number = n) with
  | some i => retireIfUnheld i (setHold i (· - 1) s)
  | none => s

/-- The number after a generation number: 1 after 2^32 − 1 (R149). -/
def nextGen (n : Word) : Word := if n = 4294967295 then 1 else n + 1

/-- The slot that was CURRENT becomes RETIRING, or is released at once when unheld (R149). -/
def retireCurrent (s : State) : State :=
  match findGen s (·.current) with
  | some i =>
    match s.pu.gens[i] with
    | some g => retireIfUnheld i (setGen i (some { g with current := false }) s)
    | none => s
  | none => s

/-- Installs a table as the CURRENT generation (R149). -/
def installPrices (t : PriceTable) (s : State) : State :=
  match (List.finRange 2).find? fun i => (s.pu.gens[i]).isNone with
  | none => s
  | some i =>
    let s' := setGen i (some { current := true, number := s.pu.counter, table := t, hold := 0 }) (retireCurrent s)
    { s' with pu := { s'.pu with counter := nextGen s.pu.counter } }

/-! ## The tally -/

/-- Changes the Pricing Unit's part of an open-order slot. -/
def setPuOrder (slot : Fin 8) (p : PuOrder) (s : State) : State :=
  { s with pu := { s.pu with orders := s.pu.orders.set slot.1 p slot.2 } }

/-- The kinds of an order's items under the configuration in force (R151). -/
def kindsOf (c : Conf) (items : List ItemReq) : List ItemKind :=
  items.map fun i => { group := (sizeOf c i.size).elim 0 (·.group), surface := c.surface }

/-- Adds one print to a tally list, kept in the order of first delivery (R152). -/
def addToTally (k : ItemKind) : List TallyEntry → List TallyEntry
  | [] => [{ kind := k, qty := 1 }]
  | e :: es => if e.kind = k then { e with qty := e.qty + 1 } :: es else e :: addToTally k es

/-- A good delivery of an item of the order in a slot (R152). -/
def tallyDelivery (slot : Fin 8) (item : Nat) (s : State) : State :=
  let p := s.pu.orders[slot]
  match p.kinds[item]? with
  | some k => setPuOrder slot { p with tally := addToTally k p.tally } s
  | none => s

end Sys2Proof.Machine
end

