-- ==== Sys2Proof/Machine/Sorter.lean ====
section
/-! DEFINITION. The Sorter Unit's bins, late counts and conveyor queue: the shared operations (R126 to R144). -/

namespace Sys2Proof.Machine

/-- Changes one bin. -/
def setBin (i : Fin 32) (b : Bin) (s : State) : State :=
  { s with su := { s.su with bins := s.su.bins.set i.1 b i.2 } }

/-- A bin becomes FREE, with no owner, both counts 0 and the countdown idle; the door flag is kept and the Row Composer
is told (R128, R139, R141). -/
def freeBin (i : Fin 32) (s : State) : State :=
  askAttempt (setBin i { s.su.bins[i] with state := .free, owner := none, delivered := 0, routed := 0, countdown := none } s)

/-- The bins that may be reserved: below BIN_COUNT, FREE, with the door CLOSED (R128). -/
def freeBins (s : State) : List (Fin 32) :=
  (List.finRange 32).filter fun i =>
    decide (i.1 < s.cfg.binCount) && decide (s.su.bins[i].state = .free) && !s.su.bins[i].doorOpen

/-- Makes a bin RESERVED for an order (R128). -/
def reserveBin (o : Owner) (s : State) (i : Fin 32) : State :=
  setBin i { s.su.bins[i] with state := .reserved, owner := some o, delivered := 0, routed := 0, countdown := none } s

/-- Reserves the `k` lowest bins that may be reserved, or refuses the request whole (R128). -/
def reserveBins (k : Nat) (o : Owner) (s : State) : Option (List (Fin 32) × State) :=
  if k ≤ (freeBins s).length then
    some ((freeBins s).take k, ((freeBins s).take k).foldl (reserveBin o) s)
  else none

/-- The expiry a starting unload countdown is given (R140). -/
def countdownExpiry (s : State) : Word := s.cu.lineClock + lines (s.cfg.unloadLimit * 1000)

/-- Settles one place of a closing order's bin list (R130). -/
def settleBin (o : Owner) (s : State) (p : BinPlace) : State :=
  let b := s.su.bins[p.bin]
  if b.owner ≠ some o then s
  else match b.state with
    | .reserved => freeBin p.bin s
    | .filling | .full =>
      setBin p.bin { b with
        state := .complete, owner := none, routed := 0,
        countdown := if !b.doorOpen && decide (s.cfg.unloadLimit ≠ 0) then some (countdownExpiry s) else b.countdown } s
    | .free | .complete => s

/-- Settles the bins of a closing order (R130). -/
def settleBins (o : Owner) (places : List BinPlace) (s : State) : State := places.foldl (settleBin o) s

/-- The bin a destination number names; 32 and 33 are the trays (R126). -/
def binOfDest (d : Fin 34) : Option (Fin 32) := if h : d.1 < 32 then some ⟨d.1, h⟩ else none

/-- The destination number of a bin. -/
def destOfBin (i : Fin 32) : Fin 34 := ⟨i.1, by omega⟩

/-- The reject tray and the catch tray. -/
def rejectTray : Fin 34 := 32
def catchTray : Fin 34 := 33

/-- A destination number as a notice subject. -/
def destSubject (d : Fin 34) : Word := BitVec.ofNat 32 d.1

/-- A bin number as a notice subject. -/
def binSubject (i : Fin 32) : Word := BitVec.ofNat 32 i.1

/-- Lowers the routed-unconfirmed count of a destination that is a bin (R134, R136, R142). -/
def lowerRouted (d : Fin 34) (s : State) : State :=
  match binOfDest d with
  | some i => setBin i { s.su.bins[i] with routed := s.su.bins[i].routed - 1 } s
  | none => s

/-- Changes a destination's late count and expiry. -/
def setLate (d : Fin 34) (l : Late) (s : State) : State :=
  { s with su := { s.su with late := s.su.late.set d.1 l d.2 } }

/-- The late expiry a late mark made now is given (R137). -/
def lateExpiryNow (s : State) : Word := s.cu.lineClock + lines s.cfg.confirmLimit

/-- Raises a destination's late count by `n`, to at most 8, with the expiry from now (R137, R143). -/
def raiseLate (d : Fin 34) (n : Nat) (s : State) : State :=
  setLate d { count := min Config.lateCap (s.su.late[d].count + n), expiry := lateExpiryNow s } s

/-- How many entries of the conveyor queue travel to a destination. -/
def conveyedTo (s : State) (d : Fin 34) : Nat := (s.su.conveyor.filter fun c => decide (c.dest = d)).length

/-- Each destination's late count rises by the number of its conveyor entries, all being lost (R142, R143). While the
conveyor stands the expiry is set at its next start. DESIGN CHOICE (log 13): a destination that loses no entry keeps its
late expiry, late marks or not. -/
def raiseLateForConveyor (s : State) : State :=
  (List.finRange 34).foldl (fun t d => if conveyedTo s d = 0 then t else raiseLate d (conveyedTo s d) t) s

/-- The conveyor starts after it stood: every destination with late marks has its expiry set afresh (R142). -/
def restartLate (s : State) : State :=
  (List.finRange 34).foldl (fun t d => if t.su.late[d].count = 0 then t else raiseLate d 0 t) s

/-- Drops what the Sorter Unit holds of an entry that leaves the track table: its conveyor entry, with its bin's
routed-unconfirmed count, and its place among the pieces awaiting routing (R142, R143). -/
def dropPiece (k : EntryKey) (s : State) : State :=
  let s' := match s.su.conveyor.find? fun c => decide (c.piece = k) with
    | some c => lowerRouted c.dest s
    | none => s
  { s' with su := { s'.su with
      conveyor := s'.su.conveyor.filter fun c => !decide (c.piece = k)
      awaiting := s'.su.awaiting.filter fun p => !decide (p = k) } }

/-- An arrival counted in a bin (R134). -/
def binArrival (i : Fin 32) (s : State) : State :=
  let b := s.su.bins[i]
  let n := b.delivered + 1
  let st := if b.state = .reserved ∨ b.state = .filling then (if n = s.cfg.binCap then .full else .filling) else b.state
  setBin i { b with routed := b.routed - 1, delivered := n, state := st } s

end Sys2Proof.Machine
end

