-- ==== Sys2Proof/Machine/Orders.lean ====
section
/-! DEFINITION. The Order Manager: the progress part of a record, validation, the queues and the deferred list, opening,
counting and closing (R1 to R24). -/

namespace Sys2Proof.Machine

/-! ## The progress part of a record -/

/-- The order states a record shows (R2). -/
inductive RecState where
  | deferred
  | opened
  | composed
  | withdrawing
  | done
  | withdrawn
  | refused
  deriving DecidableEq, Repr

def RecState.code : RecState → Nat
  | .deferred => 1
  | .opened => 2
  | .composed => 3
  | .withdrawing => 4
  | .done => 5
  | .withdrawn => 6
  | .refused => 7

/-- The reason codes of a record (R1, R7). -/
inductive Reason where
  | noReason
  | noFit
  | zeroNumber
  | itemCount
  | duplicate
  | badSize
  | badQty
  | imageDimensions
  | imageAddress
  | tooManyKinds
  | tooLarge
  deriving DecidableEq, Repr

def Reason.code : Reason → Nat
  | .noReason => 0
  | .noFit => 1
  | .zeroNumber => 2
  | .itemCount => 3
  | .duplicate => 4
  | .badSize => 5
  | .badQty => 6
  | .imageDimensions => 7
  | .imageAddress => 8
  | .tooManyKinds => 9
  | .tooLarge => 10

/-- What one write of the progress part carries (R1). -/
structure Progress where
  composed : Nat := 0
  good : Nat := 0
  rejected : Nat := 0
  failed : Nat := 0
  catchCount : Nat := 0
  bins : List BinPlace := []
  price : Price := {}
  gen : Option Word := none
  /-- The close stamp, written only at a close (log 12). -/
  stamp : Option Word := none
  state : RecState
  reason : Reason
  items : List ItemProgress := []
  deriving DecidableEq, Repr

/-- A place of the bin list: bits 0 to 4 the bin, bit 6 early-unloaded, 0xFF for none (R129, R187). -/
def binByte : Option BinPlace → Nat
  | none => 0xFF
  | some p => p.bin.1 + (if p.early then 64 else 0)

/-- The item flags byte (R187). -/
def ItemProgress.flagByte (i : ItemProgress) : Nat :=
  (if i.underrun then 1 else 0) + (if i.markMissed then 2 else 0) + (if i.clipped then 4 else 0) +
    (if i.uncalibrated then 8 else 0) + (if i.split then 16 else 0)

/-- Writes the progress fields of the items from item `n` on. -/
def writeItems (a : Nat) : Nat → List ItemProgress → Memory → Memory
  | _, [], m => m
  | n, i :: is, m =>
    let m := Memory.write16 m (itemAddr a n + 0x10) i.good
    let m := Memory.write16 m (itemAddr a n + 0x12) i.failed
    let m := Memory.write8 m (itemAddr a n + 0x14) i.flagByte
    writeItems a (n + 1) is m

/-- Writes a record's progress fields, the order state after every other field (R1). -/
def writeProgress (a : Nat) (p : Progress) (m : Memory) : Memory :=
  let m := writeItems a 0 p.items m
  let m := Memory.write16 m (a + 0x10) p.composed
  let m := Memory.write16 m (a + 0x12) p.good
  let m := Memory.write16 m (a + 0x14) p.rejected
  let m := Memory.write16 m (a + 0x16) p.failed
  let m := Memory.write16 m (a + 0x18) p.catchCount
  let m := Memory.write8 m (a + 0x1A) p.price.flags
  let m := Memory.write8 m (a + 0x1C) (binByte p.bins[0]?)
  let m := Memory.write8 m (a + 0x1D) (binByte p.bins[1]?)
  let m := Memory.write8 m (a + 0x1E) (binByte p.bins[2]?)
  let m := Memory.write8 m (a + 0x1F) (binByte p.bins[3]?)
  let m := Memory.write32 m (a + 0x20) p.price.subtotal
  let m := Memory.write32 m (a + 0x24) p.price.discount
  let m := Memory.write32 m (a + 0x28) p.price.total
  let m := Memory.writeWord m (a + 0x2C) (p.gen.getD 0)
  let m := match p.stamp with
    | some t => Memory.writeWord m (a + 0x30) t
    | none => m
  let m := Memory.write8 m (a + 0x35) p.reason.code
  Memory.write8 m (a + 0x34) p.state.code

/-- Writes a record of an order that is not open. -/
def writeRecord (a : Word) (p : Progress) (s : State) : State := { s with store := writeProgress a.toNat p s.store }

/-- Whether a record's item list has a count and an extent that pass check 2 of R7. -/
def itemListOk (m : Memory) (a : Nat) : Bool :=
  within 1 (recItemCount m a) 64 && decide (a + 64 + 32 * recItemCount m a ≤ Config.storeBytes)

/-- The zero item fields of a record that is written without being open (log 12). -/
def zeroItems (m : Memory) (a : Nat) : List ItemProgress :=
  if itemListOk m a then List.replicate (recItemCount m a) {} else []

/-- The state a record shows for an order in the open-order table. -/
def OrderPhase.recState : OrderPhase → RecState
  | .opened => .opened
  | .composed => .composed
  | .withdrawing _ => .withdrawing

/-- What a write carries of an open order (R1, R160). -/
def OpenOrder.progress (o : OpenOrder) : Progress :=
  { composed := o.composed, good := o.good, rejected := o.rejected, failed := o.failed, catchCount := o.catchCount
    bins := o.bins, gen := o.gen, state := o.phase.recState, reason := .noReason, items := o.items }

/-! ## The open-order table -/

/-- Changes one slot of the open-order table. -/
def setSlot (i : Fin 8) (o : Option OpenOrder) (s : State) : State :=
  { s with om := { s.om with table := s.om.table.set i.1 o i.2 } }

/-- The order of this number in this slot, if the slot still holds it (R20). -/
def orderIn (s : State) (i : Fin 8) (number : Word) : Option OpenOrder :=
  (s.om.table[i]).filter fun o => decide (o.number = number)

/-- Changes an order and writes its record (R1). -/
def putOrder (i : Fin 8) (o : OpenOrder) (s : State) : State := writeRecord o.addr o.progress (setSlot i (some o) s)

/-- The index of the slot that holds an order number. -/
def slotOfNumber (s : State) (number : Word) : Option (Fin 8) :=
  (List.finRange 8).find? fun i => (s.om.table[i]).any fun o => decide (o.number = number)

/-- The lowest free slot (R16). -/
def freeOrderSlot (s : State) : Option (Fin 8) := (List.finRange 8).find? fun i => (s.om.table[i]).isNone

/-- Changes the progress of one item. -/
def OpenOrder.onItem (o : OpenOrder) (n : Nat) (f : ItemProgress → ItemProgress) : OpenOrder :=
  { o with items := o.items.modify n f }

/-- The first item from `n` on that the cursor does not pass over (R14, R17). -/
def itemFrom (items : List ItemProgress) (n : Nat) : Option Nat :=
  (List.range items.length).find? fun j => decide (n ≤ j) && (items[j]?).any fun i => !i.passed

/-- The cursor at copy 1 of the first item from `n` on, or the end. -/
def cursorFrom (items : List ItemProgress) (n : Nat) : Option Cursor :=
  (itemFrom items n).map fun j => { item := j, copy := 1 }

/-- The cursor past a copy: the next copy of the item, or copy 1 of the next item, or the end (R17). -/
def cursorPast (m : Memory) (o : OpenOrder) (c : Cursor) : Option Cursor :=
  if c.copy < (readItem m o.addr.toNat c.item).qty then some { c with copy := c.copy + 1 }
  else cursorFrom o.items (c.item + 1)

/-- Whether a copy stands before another in an order. -/
def Cursor.before (c d : Cursor) : Bool := decide (c.item < d.item) || (decide (c.item = d.item) && decide (c.copy < d.copy))

/-- The uncomposed copies of an item: those at and behind the cursor (R17). -/
def uncomposedOf (m : Memory) (o : OpenOrder) (n : Nat) : Nat :=
  let q := (readItem m o.addr.toNat n).qty
  match o.cursor with
  | none => 0
  | some c =>
    if (o.items[n]?).any (·.passed) then 0
    else if n < c.item then 0
    else if n = c.item then q + 1 - c.copy
    else q

/-- The uncomposed copies of an order. -/
def uncomposed (m : Memory) (o : OpenOrder) : Nat := ((List.range o.items.length).map (uncomposedOf m o)).sum

/-- An OPEN order whose cursor stands at the end is COMPOSED (R2, R17). -/
def OpenOrder.settlePhase (o : OpenOrder) : OpenOrder :=
  if o.cursor.isNone ∧ o.phase = .opened then { o with phase := .composed } else o

/-! ## Closing -/

/-- Whether an order meets the close condition (R21). -/
def closes (s : State) (i : Fin 8) (o : OpenOrder) : Bool :=
  let mine := s.wt.track.filter fun e => e.ofOrder i o.number
  let noRemake := !s.rc.remakes.any fun r => decide (r.slot = i) && decide (r.number = o.number)
  match o.phase with
  | .withdrawing _ => mine.isEmpty && noRemake
  | .opened | .composed =>
    decide (o.good + o.failed + o.dropped = o.nPrints) && !mine.any (·.live) && noRemake

/-- The terminal state of a closing order (R21, R24). -/
def OrderPhase.closedState : OrderPhase → RecState
  | .withdrawing _ => .withdrawn
  | .opened | .composed => .done

/-- The close of an order: its price, its bins, its record, its slot, its notice, its generation (R21). -/
def closeOrder (i : Fin 8) (o : OpenOrder) (s : State) : State :=
  let p : Progress := { o.progress with
    price := priceOrder s i o, stamp := some s.cu.lineClock, state := o.phase.closedState }
  let s := settleBins { slot := i, number := o.number } o.bins s
  let s := writeRecord o.addr p s
  let s := setPuOrder i {} (setSlot i none s)
  askAttempt (releaseGen o.gen (post .orderDone o.addr s))

/-- Judges whether an order closes (R21). -/
def judgeClose (i : Fin 8) (number : Word) (s : State) : State :=
  match orderIn s i number with
  | some o => if closes s i o then closeOrder i o s else s
  | none => s

/-! ## Counting -/

/-- A good delivery (R18). -/
def countDelivery (r : CopyRef) (toCatch : Bool) (f : TrackFlags) (s : State) : State :=
  match orderIn s r.slot r.number with
  | none => s
  | some o =>
    let o := { o with good := o.good + 1, catchCount := o.catchCount + (if toCatch then 1 else 0) }
    let o := o.onItem r.item fun i => { i with
      good := i.good + 1, split := i.split || toCatch, markMissed := i.markMissed || f.markMissed
      clipped := i.clipped || f.clipped, uncalibrated := i.uncalibrated || f.uncalibrated }
    judgeClose r.slot r.number (tallyDelivery r.slot r.item (putOrder r.slot o s))

/-- A copy counted failed (R19). -/
def countFailed (r : CopyRef) (s : State) : State :=
  match orderIn s r.slot r.number with
  | none => s
  | some o =>
    judgeClose r.slot r.number
      (putOrder r.slot ({ o with failed := o.failed + 1 }.onItem r.item fun i => { i with failed := i.failed + 1 }) s)

/-- A copy of attempt 1 returned to its order: the cursor goes back to the earliest returned copy (R17). -/
def returnCopy (r : CopyRef) (s : State) : State :=
  match orderIn s r.slot r.number with
  | none => s
  | some o =>
    let here : Cursor := { item := r.item, copy := r.copy }
    let back := match o.cursor with
      | some c => if c.before here then c else here
      | none => here
    let phase := if o.phase = .composed then .opened else o.phase
    askAttempt (putOrder r.slot { o with cursor := some back, composed := o.composed - 1, phase := phase } s)

/-- A copy taken from its order's cursor by the Row Composer (R17). -/
def commitCopy (i : Fin 8) (o : OpenOrder) (c : Cursor) (s : State) : State :=
  putOrder i ({ o with cursor := cursorPast s.store o c, composed := o.composed + 1 }).settlePhase s

/-- Marks a bin's place in its owner's list early-unloaded and writes the record (R139). -/
def markEarly (o : Owner) (bin : Fin 32) (s : State) : State :=
  match orderIn s o.slot o.number with
  | none => s
  | some x => putOrder o.slot { x with bins := x.bins.map fun p => if p.bin = bin then { p with early := true } else p } s

/-! ## Queues and the deferred list -/

/-- A BLOCKED queue re-examined becomes ACTIVE, its head unchanged (R13). -/
def reexamineQueue (s : State) (q : QueueId) : State :=
  let c := s.om.queues.get q
  if c.state = .blocked then askAttempt (setQueue q { c with state := .active, halt := .noHalt } s) else s

def allQueues : List QueueId := [.express, .standard, .bulk]

/-- Every BLOCKED queue is re-examined (R13). -/
def reexamineBlocked (s : State) : State := allQueues.foldl reexamineQueue s

/-- An entry leaves the deferred list, which re-examines BLOCKED queues (R13). -/
def dropDeferred (d : Deferred) (s : State) : State :=
  reexamineBlocked { s with om := { s.om with deferred := s.om.deferred.filter fun x => !decide (x = d) } }

/-- A link that fails the check halts its queue (R5). -/
def haltQueue (q : QueueId) (link carrier : Word) (c : QueueCtx) (s : State) : State :=
  post .queueHalted (BitVec.ofNat 32 q.index)
    (setQueue q { c with state := .halted, halt := .badLink, next := link, tail := carrier } s)

/-- After a take the queue's link is followed: ACTIVE on the next record, HALTED on a bad link, PARKED at the end (R9).
The control block is written once, with the count of the take. -/
def followLink (q : QueueId) (taken : Word) (s : State) : State :=
  let c := { s.om.queues.get q with taken := (s.om.queues.get q).taken + 1 }
  let link := recLink s.store taken.toNat
  if link = 0 then
    post .queueParked (BitVec.ofNat 32 q.index) (setQueue q { c with state := .parked, tail := taken, next := 0 } s)
  else if orderAddressOk link then setQueue q { c with state := .active, next := link } s
  else haltQueue q link taken c s

/-! ## Validation and fit -/

/-- Check 6 of R7: the image has the size's elements and lines. -/
def dimensionsOk (c : Conf) (i : ItemReq) : Bool :=
  (sizeOf c i.size).any fun d => decide (i.width = tenthsToLines d.width) && decide (i.height = tenthsToLines d.length)

/-- Check 7 of R7. -/
def imageOk (i : ItemReq) : Bool :=
  decide (i.image % 64 = 0) && decide (Config.anchorBytes ≤ i.image) &&
    decide (i.image + i.height * lineStride i.width ≤ Config.storeBytes)

/-- The first of an item's four checks that fails (R7, checks 4 to 7). -/
def itemReason (c : Conf) (i : ItemReq) : Option Reason :=
  if (sizeOf c i.size).isNone then some .badSize
  else if i.qty = 0 ∨ 999 < i.qty then some .badQty
  else if !dimensionsOk c i then some .imageDimensions
  else if !imageOk i then some .imageAddress
  else none

/-- The number of distinct values in a list. -/
def distinctCount (l : List Nat) : Nat := l.dedup.length

/-- Whether an order number is that of an open order or of an entry of a list of deferred orders (R7, check 3). -/
def numberKnown (s : State) (deferred : List Deferred) (n : Word) : Bool :=
  (slotOfNumber s n).isSome || deferred.any fun d => decide (d.number = n)

/-- The reason a record is refused for, none when it passes R7; `deferred` is the list the duplicate check counts. -/
def examine (s : State) (deferred : List Deferred) (a : Nat) : Option Reason :=
  let c := s.cfg
  let items := readItems s.store a
  if recNumber s.store a = 0 then some .zeroNumber
  else if !itemListOk s.store a then some .itemCount
  else if numberKnown s deferred (recNumber s.store a) then some .duplicate
  else match items.findSome? (itemReason c) with
    | some r => some r
    | none =>
      if 8 < distinctCount (items.map fun i => (sizeOf c i.size).elim 0 (·.group)) then some .tooManyKinds
      else if 4 < ceilDiv (printCount items) c.binCap then some .tooLarge
      else none

/-- A record fits when every item's size fits (R8). -/
def recordFits (s : State) (a : Nat) : Bool := (readItems s.store a).all fun i => sizeFits s.cfg i.size

/-- A refused record is written and posted (R7). The items are written when the count has passed check 2 (log 12). -/
def refuseRecord (a : Word) (r : Reason) (s : State) : State :=
  let items := if r = .zeroNumber ∨ r = .itemCount then [] else zeroItems s.store a.toNat
  post .orderRefused a (writeRecord a { state := .refused, reason := r, items := items } s)

/-- A record deferred for paper joins the end of the list (R8). -/
def deferRecord (q : QueueId) (a : Word) (s : State) : State :=
  let d : Deferred := { addr := a, number := recNumber s.store a.toNat, queue := q }
  let s := { s with om := { s.om with deferred := s.om.deferred ++ [d] } }
  post .paperWanted a
    (writeRecord a { state := .deferred, reason := .noFit, items := zeroItems s.store a.toNat } s)

/-! ## Opening -/

/-- What opening an order ends in (R16). -/
inductive Opening where
  | opened (slot : Fin 8) (s : State)
  | waitSlot
  | waitBins

/-- The order an opening fills its slot with (R16). -/
def newOrder (s : State) (q : QueueId) (a : Word) (bins : List (Fin 32)) : OpenOrder :=
  let items := readItems s.store a.toNat
  { addr := a, number := recNumber s.store a.toNat, queue := q, seq := s.om.seq
    cursor := some { item := 0, copy := 1 }, nPrints := printCount items
    bins := bins.map fun b => { bin := b }, gen := genForOpening s
    tier := recTier s.store a.toNat, promo := recPromo s.store a.toNat
    items := List.replicate items.length {} }

/-- Opens a fitting order when a slot is free and its bins are reserved (R16, R128, R150, R151). -/
def openOrder (q : QueueId) (a : Word) (s : State) : Opening :=
  match freeOrderSlot s with
  | none => .waitSlot
  | some i =>
    let items := readItems s.store a.toNat
    match reserveBins (ceilDiv (printCount items) s.cfg.binCap) { slot := i, number := recNumber s.store a.toNat } s with
    | none => .waitBins
    | some (bins, t) =>
      let t := holdCurrent (setPuOrder i { kinds := kindsOf s.cfg items } t)
      let t := putOrder i (newOrder s q a bins) t
      .opened i { t with om := { t.om with seq := t.om.seq + 1 } }

/-! ## Re-examination at a CONFIGURE (R14) -/

/-- First part: one entry of the deferred list. -/
def reexamineDeferred (s : State) (d : Deferred) : State :=
  let others := s.om.deferred.filter fun x => !decide (x = d)
  match examine s others d.addr.toNat with
  | some r => refuseRecord d.addr r (dropDeferred d s)
  | none =>
    let fits := recordFits s d.addr.toNat
    { s with om := { s.om with deferred := s.om.deferred.map fun x => if x = d then { x with fits := fits } else x } }

/-- The remake-list entries of an item of an order. -/
def remakesOf (s : State) (i : Fin 8) (number : Word) (item : Nat) : List CopyRef :=
  s.rc.remakes.filter fun r => decide (r.slot = i) && decide (r.number = number) && decide (r.item = item)

/-- Checks 4 and 6 of R7 and the fit of R8 on one item. -/
def itemStillOk (s : State) (o : OpenOrder) (n : Nat) : Bool :=
  let i := readItem s.store o.addr.toNat n
  (sizeOf s.cfg i.size).isSome && dimensionsOk s.cfg i && sizeFits s.cfg i.size

/-- Second part: one item of an open order. Its uncomposed copies and remake-list entries are failed when the item no
longer passes, and the cursor passes over it. -/
def reexamineItem (i : Fin 8) (number : Word) (s : State) (n : Nat) : State :=
  match orderIn s i number with
  | none => s
  | some o =>
    let k := uncomposedOf s.store o n + (remakesOf s i number n).length
    if k = 0 ∨ itemStillOk s o n then s
    else
      let o := { o with failed := o.failed + k }.onItem n fun x => { x with failed := x.failed + k, passed := true }
      let o := { o with cursor := o.cursor.bind fun c => if c.item = n then cursorFrom o.items (n + 1) else some c }
      let s := { s with rc := { s.rc with
        remakes := s.rc.remakes.filter fun r =>
          !(decide (r.slot = i) && decide (r.number = number) && decide (r.item = n)) } }
      judgeClose i number (putOrder i o.settlePhase s)

/-- Second part: one open order, its items in record order. -/
def reexamineOrder (s : State) (i : Fin 8) : State :=
  match s.om.table[i] with
  | none => s
  | some o => (List.range o.items.length).foldl (reexamineItem i o.number) s

/-- The re-examination of orders at a successful CONFIGURE, in its three parts (R14). DESIGN CHOICE (log 31): R14 says
"every order in the open-order table" and no order among them; the model takes slots 0 to 7 ascending. -/
def reexamineAll (s : State) : State :=
  let s := s.om.deferred.foldl reexamineDeferred s
  reexamineBlocked ((List.finRange 8).foldl reexamineOrder s)

end Sys2Proof.Machine
end

