-- ==== Sys2Proof/Machine/Track.lean ====
section
/-! DEFINITION. The track table with what hangs on a removal: the cut queue's pruning, reject reports and the remake
list, lost entries, the calibration state and its triggers (R41 to R44, R80 to R91, R98 to R109, R112 to R115). -/

namespace Sys2Proof.Machine

/-! ## Calibration state -/

/-- A calibration trigger (R82). -/
def trigger (s : State) : State :=
  match s.ca.state with
  | .valid => askAttempt { s with ca := { s.ca with state := .due } }
  | .stale => askAttempt { s with ca := { s.ca with state := .due, invalid := 0 } }
  | .due | .inFlight => s

/-- The patch of the row at `x0` is lost: back to DUE if it is the patch in flight (R90). -/
def patchLost (x0 : Option Word) (s : State) : State :=
  match s.ca.state, s.ca.patch with
  | .inFlight, some p =>
    if some p.x0 = x0 then askAttempt { s with ca := { s.ca with state := .due, patch := none } } else s
  | _, _ => s

/-! ## The cut queue -/

/-- Whether the row that starts at `x0` has an entry in the table. -/
def rowInTable (s : State) (x0 : Word) : Bool := s.wt.track.any fun e => decide (e.x0 = some x0)

/-- A boundary's reference to the row at `x0` becomes none (R114). -/
def Boundary.forget (x0 : Word) (b : Boundary) : Boundary :=
  { b with
    rowAfter := if b.rowAfter = some x0 then none else b.rowAfter
    rowBefore := if b.rowBefore = some x0 then none else b.rowBefore }

/-- A boundary has something to separate while either side names a row (R114). -/
def Boundary.kept (b : Boundary) : Bool := b.rowAfter.isSome || b.rowBefore.isSome

/-- The pruning of the cut queue on the removal of an entry of the row at `x0` (R114). -/
def pruneFor (x0 : Option Word) (s : State) : State :=
  match x0 with
  | none => s
  | some x =>
    if rowInTable s x then s
    else { s with ct := { s.ct with
      queue := s.ct.queue.filterMap fun b =>
        if b.rowAfter = some x ∨ b.rowBefore = some x then
          (if (b.forget x).kept then some (b.forget x) else none)
        else some b } }

/-- The end of a started entry's row. -/
def Entry.endPos (e : Entry) : Option Word := e.x0.map fun x => x + lines e.length

/-- Of two started rows before `b`, the one whose end is nearer `b`. -/
def nearerRow (b : Word) (best : Option (Word × Word)) (e : Entry) : Option (Word × Word) :=
  match e.x0, e.endPos with
  | some x, some r =>
    if reached b r then
      match best with
      | some (_, r') => if (b - r).toNat < (b - r').toNat then some (x, r) else best
      | none => some (x, r)
    else best
  | _, _ => best

/-- The row before of a boundary at `b`, against the boundaries held ahead of it: the started row whose end is the
greatest not beyond `b`, unless a held boundary lies at or after that end (R113). DESIGN CHOICE (log 36): a row still in CUT
or CONVEYOR is named like any other, also at the first boundary after a fault that lost the exposing row, where R123 has no
row before. -/
def rowBefore (track : List Entry) (held : List Boundary) (b : Word) : Option Word :=
  match track.foldl (nearerRow b) none with
  | some (x, r) => if held.any fun h => reached h.pos r then none else some x
  | none => none

/-! ## Removal -/

/-- Removes an entry: the cut queue is pruned, the Sorter Unit drops what it holds of it, the Order Manager judges the
close of its order, and the waits on room end (R103, R114, R142, R21, R30). -/
def removeEntry (k : EntryKey) (s : State) : State :=
  match findEntry s k with
  | none => s
  | some e =>
    let s := { s with wt := { s.wt with track := s.wt.track.filter fun x => !decide (x.key = k) } }
    let s := askAttempt (dropPiece k (pruneFor k.x0 s))
    match e.ref with
    | some r => judgeClose r.slot r.number s
    | none => s

/-! ## Reject reports and the remake list -/

/-- The causes of a reject report (R42). -/
inductive RejectCause where
  | underrun
  | lost
  | misrouted
  | conveyorFull
  deriving DecidableEq, Repr

/-- The remakes held in the next-row slot, whose list places stay counted (R41). -/
def slotRemakes (s : State) : Nat :=
  match s.rc.slot with
  | none => 0
  | some r => ([r.prints.a, r.prints.b].filter fun p => p.any fun q => decide (1 < q.ref.attempt)).length

/-- The remake list counts as full (R41). -/
def remakesFull (s : State) : Bool := decide (Config.remakeCap ≤ s.rc.remakes.length + slotRemakes s)

/-- The Row Composer's decision on a rejected copy: fail it, refuse its remake, or append the remake (R42). -/
def decideRemake (r : CopyRef) (recAddr : Word) (s : State) : State :=
  if 3 ≤ r.attempt then countFailed r s
  else if remakesFull s then post .remakeRefused recAddr (countFailed r s)
  else askAttempt { s with rc := { s.rc with remakes := s.rc.remakes ++ [{ r with attempt := r.attempt + 1 }] } }

/-- A reject report (R42, R19). A report for an order no longer in its slot is ignored (R20); of a WITHDRAWING order the
copy is counted dropped. -/
def rejectReport (cause : RejectCause) (r : CopyRef) (s : State) : State :=
  match orderIn s r.slot r.number with
  | none => s
  | some o =>
    match o.phase with
    | .withdrawing _ => judgeClose r.slot r.number (putOrder r.slot { o with dropped := o.dropped + 1 } s)
    | .opened | .composed =>
      let o := { o with rejected := o.rejected + 1 }
      let o := if cause = .underrun then o.onItem r.item fun i => { i with underrun := true } else o
      judgeClose r.slot r.number (decideRemake r o.addr (putOrder r.slot o s))

/-- An entry made LOST is flagged, reported by its kind and flags, and removed (R108). -/
def loseEntry (cause : RejectCause) (s : State) (k : EntryKey) : State :=
  match findEntry s k with
  | none => s
  | some e =>
    let t := updateEntry k (fun x => { x with flags := { x.flags with lost := true } }) s
    let t := match e.kind, e.ref with
      | .print, some r => if e.live then rejectReport cause r t else t
      | .calib, _ => patchLost e.x0 t
      | _, _ => t
    removeEntry k t

/-- Loses the entries that satisfy a test, in paper order (R107). -/
def loseWhere (cause : RejectCause) (f : Entry → Bool) (s : State) : State :=
  ((s.wt.track.filter f).map (·.key)).foldl (loseEntry cause) s

/-- Entries in stage CUT or CONVEYOR. -/
def Entry.cutFree (e : Entry) : Bool := decide (e.stage = .cut) || decide (e.stage = .conveyor)

/-- The conveyor stops: the stop is set, the late counts rise, and every entry in CUT and CONVEYOR is lost (R107, R109, R142). -/
def stopConveyor (s : State) : State :=
  loseWhere .lost (·.cutFree) (raiseLateForConveyor { s with mc := { s.mc with convStop := true } })

/-! ## The return of the slot row -/

/-- The key of a slot row's entry in a lane. -/
def slotKey (kind : RowKind) (l : Lane) : EntryKey := ⟨none, l, kind⟩

/-- Whether the entry of a slot row's lane is flagged WITHDRAWN. -/
def slotWithdrawn (s : State) (kind : RowKind) (l : Lane) : Bool :=
  (findEntry s (slotKey kind l)).any (·.flags.withdrawn)

/-- The prints a returned row gives back: those whose entries are not WITHDRAWN, lane A first (R44). -/
def returnedPrints (s : State) (r : SlotRow) : List CopyRef :=
  let one (l : Lane) : Option CopyRef :=
    (r.prints.get l).bind fun p => if slotWithdrawn s r.kind l then none else some p.ref
  [one .a, one .b].filterMap id

/-- The row in the next-row slot is returned (R44). -/
def returnSlot (s : State) : State :=
  match s.rc.slot with
  | none => s
  | some r =>
    let back := returnedPrints s r
    let s := { s with rc := { s.rc with slot := none } }
    let s := removeEntry (slotKey r.kind .b) (removeEntry (slotKey r.kind .a) s)
    let s := (back.filter fun c => decide (c.attempt ≤ 1)).foldl (fun t c => returnCopy c t) s
    { s with rc := { s.rc with remakes := back.filter (fun c => decide (1 < c.attempt)) ++ s.rc.remakes } }

end Sys2Proof.Machine
end

