-- ==== Sys2Proof/Machine/Rows.lean ====
section
/-! DEFINITION. The Row Composer: the walk for the first lane, the search for the partner lane, and the commit (R25 to R40). -/

namespace Sys2Proof.Machine

/-! ## Candidates -/

/-- A remake-list entry's or cursor copy's row length under the configuration in force (R25). -/
def itemLines (s : State) (a : Word) (item : Nat) : Nat := sizeLines s.cfg (readItem s.store a.toNat item).size

/-- Whether a length is the one required; the first lane requires none (R35). -/
def lengthOk (need : Option Nat) (len : Nat) : Bool := need.all fun n => decide (len = n)

/-- The row length of a copy on the remake list. -/
def remakeLines (s : State) (r : CopyRef) : Nat :=
  (orderIn s r.slot r.number).elim 0 fun o => itemLines s o.addr r.item

/-- Takes a remake off the list: the head for the first lane, the first of the required length for the partner (R32, R35). -/
def takeRemake (need : Option Nat) (s : State) : Option (CopyRef × State) :=
  match s.rc.remakes.findIdx? fun r => lengthOk need (remakeLines s r) with
  | none => none
  | some i =>
    match s.rc.remakes[i]? with
    | none => none
    | some r => some (r, { s with rc := { s.rc with remakes := s.rc.remakes.eraseIdx i } })

/-- Whether an order is older than another, by their numbers modulo 2^32 (R15). -/
def OpenOrder.older (o p : OpenOrder) : Bool := decide (o.seq ≠ p.seq) && reached p.seq o.seq

/-- Puts a slot among slots in order of age, oldest first. -/
def insertByAge (s : State) (i : Fin 8) : List (Fin 8) → List (Fin 8)
  | [] => [i]
  | j :: js =>
    match s.om.table[i], s.om.table[j] with
    | some o, some p => if o.older p then i :: j :: js else j :: insertByAge s i js
    | _, _ => j :: insertByAge s i js

/-- The open orders of a level, oldest first (R32). -/
def ordersOf (s : State) (q : QueueId) : List (Fin 8) :=
  ((List.finRange 8).filter fun i => (s.om.table[i]).any fun o => decide (o.queue = q)).foldl
    (fun l i => insertByAge s i l) []

/-- The next uncomposed copy of an order, when it has the required length (R32, R35). -/
def cursorCopy (s : State) (need : Option Nat) (i : Fin 8) : Option (OpenOrder × Cursor) :=
  (s.om.table[i]).bind fun o => o.cursor.bind fun c =>
    if lengthOk need (itemLines s o.addr c.item) then some (o, c) else none

/-- Takes an order's next copy: its cursor advances (R17). -/
def takeCopy (i : Fin 8) (o : OpenOrder) (c : Cursor) (s : State) : CopyRef × State :=
  ({ slot := i, number := o.number, item := c.item, copy := c.copy, attempt := 1 }, commitCopy i o c s)

/-- The next copy of the oldest open order of a level that has one (R32, R35). -/
def takeOpen (q : QueueId) (need : Option Nat) (s : State) : Option (CopyRef × State) :=
  (ordersOf s q).findSome? fun i => (cursorCopy s need i).map fun (o, c) => takeCopy i o c s

/-- What a search for a copy ends in: a copy, none, or a chain without end (log 9). -/
inductive Search where
  | found (r : CopyRef) (s : State)
  | nothing (s : State)
  | endless (s : State)

/-- The state a search leaves. -/
def Search.state : Search → State
  | .found _ s => s
  | .nothing s => s
  | .endless s => s

/-- Takes item 0, copy 1 of an order just opened. -/
def takeFirst (i : Fin 8) (s : State) : Search :=
  match s.om.table[i] with
  | none => .nothing s
  | some o =>
    match o.cursor with
    | none => .nothing s
    | some c => .found (takeCopy i o c s).1 (takeCopy i o c s).2

/-! ## New orders -/

/-- Sets or clears a queue's bin-wait mark (R34). -/
def setBinWait (q : QueueId) (v : Bool) (s : State) : State :=
  { s with rc := { s.rc with binWait := s.rc.binWait.set q v } }

/-- A request that ends "waiting for bins": the mark is set, and NO_FREE_BIN posted if it was clear (R34). -/
def waitForBins (q : QueueId) (s : State) : State :=
  if s.rc.binWait.get q then s else post .noFreeBin (BitVec.ofNat 32 q.index) (setBinWait q true s)

/-- The first item's row length of a record not yet taken, none when its count or its size code is out of range (R35).
DESIGN CHOICE (log 33): of a record whose header is the last 64 bytes of the store, item 0 lies beyond the store; its bytes
read as unwritten ones, and the take that may follow refuses the record by check 2 of R7. -/
def headLines (s : State) (a : Word) : Option Nat :=
  if within 1 (recItemCount s.store a.toNat) 64 then
    (sizeOf s.cfg (readItem s.store a.toNat 0).size).map fun d => tenthsToLines d.length
  else none

/-- A take from an ACTIVE queue: refused, deferred, blocked, opened, or waiting (R6). -/
inductive Take where
  | passed (s : State)
  | blocked (s : State)
  | opened (slot : Fin 8) (s : State)
  | waitSlot
  | waitBins

/-- The take of the record at an ACTIVE queue's head (R6, R7, R8, R16, R9). -/
def takeHead (q : QueueId) (s : State) : Take :=
  let c := s.om.queues.get q
  match examine s s.om.deferred c.next.toNat with
  | some r => .passed (followLink q c.next (refuseRecord c.next r s))
  | none =>
    if recordFits s c.next.toNat then
      match openOrder q c.next s with
      | .opened i t => .opened i (followLink q c.next t)
      | .waitSlot => .waitSlot
      | .waitBins => .waitBins
    else if s.om.deferred.length < Config.deferCap then .passed (followLink q c.next (deferRecord q c.next s))
    else .blocked (setQueue q { c with state := .blocked, halt := .deferFull } s)

/-- Asks a level's queue for a new order until the answer is not a refusal or a deferral (R33). For the partner lane
the head is looked at first, and no take is made of a record of another length (R35). -/
def askQueue (q : QueueId) (need : Option Nat) : Nat → State → Search
  | 0, s => .endless s
  | fuel + 1, s =>
    if (s.om.queues.get q).state ≠ .active then .nothing (setBinWait q false s)
    else if need.isSome ∧ headLines s (s.om.queues.get q).next ≠ need then .nothing s
    else match takeHead q s with
      | .passed t => askQueue q need fuel (setBinWait q false t)
      | .blocked t => .nothing (setBinWait q false t)
      | .opened i t => takeFirst i (setBinWait q false t)
      | .waitSlot => .nothing s
      | .waitBins => .nothing (waitForBins q s)

/-- The deferred entry a level offers: the earliest with its fits mark set, and for the partner lane with item 0 of the
required length (R33, R35, log 14). -/
def deferredCandidate (s : State) (q : QueueId) (need : Option Nat) : Option Deferred :=
  s.om.deferred.find? fun d => decide (d.queue = q) && d.fits && lengthOk need (itemLines s d.addr 0)

/-- A new order of a level: from the deferred list first, else from its queue (R33). DESIGN CHOICE (log 32): in the
partner search, when the level has fitting deferred entries but none whose item 0 has the required length, the level's
queue is asked as if it had none; asking a queue that is not ACTIVE clears the bin-wait mark (R34). -/
def takeNew (q : QueueId) (need : Option Nat) (s : State) : Search :=
  match deferredCandidate s q need with
  | some d =>
    match openOrder q d.addr s with
    | .opened i t => takeFirst i (dropDeferred d (setBinWait q false t))
    | .waitSlot => .nothing s
    | .waitBins => .nothing (waitForBins q s)
  | none => askQueue q need Config.chainBound s

/-! ## The walk -/

/-- The steps of the walk that yield prints (R32, R35). -/
inductive WalkStep where
  | remake
  | openOrders (q : QueueId)
  | newOrder (q : QueueId)

/-- Steps 2 to 6 of the walk, in order (R32); the partner search takes its candidates in the same order (R35). -/
def walkSteps : List WalkStep :=
  [.remake, .openOrders .express, .newOrder .express, .openOrders .standard, .openOrders .bulk,
   .newOrder .standard, .newOrder .bulk]

/-- One step of the walk. -/
def walkStep (need : Option Nat) (w : WalkStep) (s : State) : Search :=
  match w with
  | .remake =>
    match takeRemake need s with
    | some (r, t) => .found r t
    | none => .nothing s
  | .openOrders q =>
    match takeOpen q need s with
    | some (r, t) => .found r t
    | none => .nothing s
  | .newOrder q => takeNew q need s

/-- The walk: it stops at the first step that yields a copy (R32). -/
def walk (need : Option Nat) : List WalkStep → State → Search
  | [], s => .nothing s
  | w :: ws, s =>
    match walkStep need w s with
    | .found r t => .found r t
    | .nothing t => walk need ws t
    | .endless t => .endless t

/-! ## The commit -/

/-- The print of a committed row for a chosen copy, in a lane (R26, R29). -/
def printSpec (s : State) (lane : Lane) (r : CopyRef) : PrintSpec :=
  let a := (orderIn s r.slot r.number).elim 0 (·.addr)
  let i := readItem s.store a.toNat r.item
  { ref := r, image := i.image, width := i.width, height := i.height, stride := lineStride i.width
    first := printFirst s.cfg lane ((sizeOf s.cfg i.size).elim 0 (·.width)) }

/-- The track entry of a chosen copy (R36). -/
def printEntry (len : Nat) (lane : Lane) (r : CopyRef) : Entry :=
  { kind := .print, lane := lane, ref := some r, length := len }

/-- Places a row in the next-row slot and its entries, in stage COMMITTED, at the end of the track table (R36, R99). -/
def placeRow (row : SlotRow) (entries : List Entry) (s : State) : State :=
  { s with
    rc := { s.rc with slot := some row }
    wt := { s.wt with track := s.wt.track ++ entries } }

/-- Commits a CALIB row (R37). -/
def commitCalib (s : State) : State :=
  placeRow { kind := .calib, length := Config.calLen, mask := s.rc.mask }
    [{ kind := .calib, lane := .a, length := Config.calLen }] s

/-- Commits a PRINT row of the copies chosen for its lanes (R36). -/
def commitPrint (len : Nat) (a b : Option CopyRef) (s : State) : State :=
  placeRow
    { kind := .print, length := len, mask := s.rc.mask
      prints := ⟨a.map (printSpec s .a), b.map (printSpec s .b)⟩ }
    ((a.map (printEntry len .a)).toList ++ (b.map (printEntry len .b)).toList) s

/-- Whether rows have two lanes under the configuration and the staged mask (R28, R31). -/
def twoLanes (s : State) : Bool := decide (s.cfg.laneMode = .twoUp) && decide (s.rc.mask = .both)

/-- The lane the walk fills (R28). -/
def firstLane (s : State) : Lane := if s.cfg.laneMode = .twoUp ∧ s.rc.mask = .bOnly then .b else .a

/-- Composes a PRINT row: the walk, the partner search, the commit (R32, R35, R36). -/
def composePrint (s : State) : State :=
  match walk none walkSteps s with
  | .nothing t => t
  | .endless t => t
  | .found r t =>
    let len := remakeLines t r
    if twoLanes s then
      match walk (some len) walkSteps t with
      | .found p u => commitPrint len (some r) (some p) u
      | .nothing u => commitPrint len (some r) none u
      | .endless u => commitPrint len (some r) none u
    else match firstLane s with
      | .a => commitPrint len (some r) none t
      | .b => commitPrint len none (some r) t

/-- Whether the track table has room for `n` entries with one left free (R31). -/
def roomFor (s : State) (n : Nat) : Bool := decide (s.wt.track.length + n + 1 ≤ Config.trackCap)

/-- The most entries the row that would be composed could need (R31). -/
def entriesNeeded (s : State) : Nat := if s.ca.state = .due then 1 else if twoLanes s then 2 else 1

/-- The room that R31 requires of the track table for a composition. -/
def roomHolds (s : State) : Bool := roomFor s (entriesNeeded s)

/-- A composition attempt (R30 to R40). -/
def compose (s : State) : State :=
  if s.rc.slot.isSome ∨ s.mc.state ≠ .running ∨ s.rc.hot then s
  else if s.ca.state = .due then (if roomFor s 1 then commitCalib s else s)
  else if s.rc.firstCal then s
  else if roomFor s (if twoLanes s then 2 else 1) then composePrint s
  else s

end Sys2Proof.Machine
end

