-- ==== Sys2Proof/Machine/Engine.lean ====
section
/-! DEFINITION. The Exposure Engine and the start of rows: line buffers, lead-ins, row starts, blank paper, the lines of a
row, and the boundary the Cutter Unit adds at each start (R62 to R79, R113, R115). -/

namespace Sys2Proof.Machine

/-! ## Line buffers (R71, R72) -/

/-- Changes one lane's line buffer. -/
def setBuffer (l : Lane) (b : LineBuffer) (s : State) : State :=
  { s with ee := { s.ee with buffers := s.ee.buffers.set l b } }

/-- The places a buffer has in use: the held line, the lines ahead, and the read in progress (R71). -/
def LineBuffer.used (b : LineBuffer) : Nat :=
  (if b.held.isSome then 1 else 0) + b.lines.length + (if b.reading.isSome then 1 else 0)

/-- The print of the exposing row in a lane. -/
def exposingPrint (s : State) (l : Lane) : Option PrintSpec :=
  match s.ee.expo with
  | some (.row r) => (r.prints.get l).map (·.spec)
  | _ => none

/-- The print of the slot row in a lane. -/
def slotPrint (s : State) (l : Lane) : Option PrintSpec := s.rc.slot.bind fun r => r.prints.get l

/-- The read of line `n` of a print: 3 × width bytes from image address + n × stride (R71). -/
def lineRead (dest : ReadFor) (p : PrintSpec) (n : Nat) : LineRead :=
  { dest := dest, line := n, addr := p.image + n * p.stride, len := 3 * p.width }

/-- The next line a lane has yet to fetch: of the exposing print first, then of the slot row's print (R71). -/
def nextRead (s : State) (l : Lane) : Option LineRead :=
  let b := s.ee.buffers.get l
  let ofSlot := (slotPrint s l).bind fun p =>
    if b.nextSlot < p.height then some (lineRead .slot p b.nextSlot) else none
  match exposingPrint s l with
  | some p => if b.nextExp < p.height then some (lineRead .exposing p b.nextExp) else ofSlot
  | none => ofSlot

/-- A lane begins the read of its next line when none is in progress and a place is free (R71). -/
def startRead (l : Lane) (s : State) : State :=
  let b := s.ee.buffers.get l
  if b.reading.isSome ∨ Config.linePlaces ≤ b.used then s
  else match nextRead s l with
    | none => s
    | some r =>
      setBuffer l { b with
        reading := some r
        nextExp := if r.dest = .exposing then r.line + 1 else b.nextExp
        nextSlot := if r.dest = .slot then r.line + 1 else b.nextSlot } s

/-- Both lanes begin what reads they can. -/
def startReads (s : State) : State := startRead .b (startRead .a s)

/-- An emptied buffer: a read in progress goes on and will be discarded (R77, R78). -/
def LineBuffer.emptied (b : LineBuffer) : LineBuffer :=
  { reading := b.reading.map fun r => { r with dest := .discard } }

/-- Both line buffers are emptied (R77, R78). -/
def emptyBuffers (s : State) : State :=
  { s with ee := { s.ee with buffers := ⟨s.ee.buffers.a.emptied, s.ee.buffers.b.emptied⟩ } }

/-- At a row's end its lines leave the buffer, and a read for it will be discarded (R73, R72). -/
def LineBuffer.endRow (b : LineBuffer) : LineBuffer :=
  { b with
    held := none
    lines := b.lines.filter (·.forSlot)
    reading := b.reading.map fun r => if r.dest = .exposing then { r with dest := .discard } else r
    nextExp := 0 }

/-- At the slot row's start its lines become the exposing row's, and the held line is cleared (R71, R64). -/
def LineBuffer.beginRow (b : LineBuffer) : LineBuffer :=
  { b with
    held := none
    lines := b.lines.map fun x => { x with forSlot := false }
    reading := b.reading.map fun r => if r.dest = .slot then { r with dest := .exposing } else r
    nextExp := b.nextSlot
    nextSlot := 0 }

/-- A read completes: the line takes its place among those ahead, or is discarded when the head has passed it or its
row is gone (R71, R72, R77). -/
def LineBuffer.complete (b : LineBuffer) (r : LineRead) (headLine : Option Nat) (data : List Byte) : LineBuffer :=
  let b := { b with reading := none }
  match r.dest with
  | .discard => b
  | .slot => { b with lines := b.lines ++ [{ forSlot := true, line := r.line, data := data }] }
  | .exposing =>
    if headLine.any (fun k => decide (r.line < k)) then b
    else { b with lines := b.lines ++ [{ forSlot := false, line := r.line, data := data }] }

/-- The head reaches line `k` of a lane's print: the line is sent and becomes the held line, or the lane underruns and the
fetch moves on (R71, R72). The flag says an underrun. -/
def LineBuffer.feed (b : LineBuffer) (k : Nat) : LineBuffer × Bool :=
  match b.lines with
  | x :: rest =>
    if !x.forSlot && decide (x.line = k) then ({ b with held := some x.data, lines := rest }, false)
    else ({ b with nextExp := max b.nextExp (k + 1) }, true)
  | [] => ({ b with nextExp := max b.nextExp (k + 1) }, true)

/-- The line of the exposing row the head stands at (R68). -/
def headLine (s : State) : Option Nat :=
  match s.ee.expo with
  | some (.row r) => some (s.wt.x - r.x0).toNat
  | _ => none

/-! ## Boundaries (R113, R115) -/

/-- With 65 boundaries held, the row before of the oldest boundary that has no row after is made LOST (R115). -/
def makeCutRoom (s : State) : State :=
  if s.ct.queue.length < Config.cutCap then s
  else match (s.ct.queue.find? fun b => b.rowAfter.isNone).bind (·.rowBefore) with
    | none => s
    | some x => loseWhere .lost (fun e => decide (e.x0 = some x)) s

/-- Adds the boundary of the row just started at `b` (R113). A queue still full, which R115 rules out, takes none (log 23). -/
def addBoundary (b : Word) (s : State) : State :=
  let s := makeCutRoom s
  if s.ct.queue.length < Config.cutCap then
    { s with ct := { s.ct with
      queue := s.ct.queue ++ [{ pos := b, rowAfter := some b, rowBefore := rowBefore s.wt.track s.ct.queue b }] } }
  else s

/-! ## Row starts -/

/-- A committed entry of the row that starts: BLANK or not (R66, R64). -/
def Entry.starting (blank : Bool) (e : Entry) : Bool := e.x0.isNone && (decide (e.kind = .blank) == blank)

/-- The committed entries of a row take the row start, move to EXPOSING, and join the started entries at their end (R99, R100). -/
def startEntries (blank : Bool) (x0 : Word) (s : State) : State :=
  let started := s.wt.track.filter (·.x0.isSome)
  let mine := (s.wt.track.filter (·.starting blank)).map fun e => { e with x0 := some x0, stage := .exposing }
  let rest := s.wt.track.filter fun e => e.x0.isNone && !e.starting blank
  { s with wt := { s.wt with track := started ++ mine ++ rest } }

/-- The three temperature factors of a row (R51). -/
def factors (c : Conf) (theta : Nat) : PerChan Nat :=
  PerChan.ofFn fun k => tempFactor (c.tempCoef.get k) theta c.thetaRef

/-- Whether a latched temperature has drifted more than CAL_DRIFT from θ_cal (R65). -/
def drifted (s : State) (theta : Nat) : Bool :=
  decide (s.cfg.calDrift < (if theta ≤ s.ca.thetaCal then s.ca.thetaCal - theta else theta - s.ca.thetaCal))

/-- The drift report of a row start (R65). -/
def judgeDrift (theta : Nat) (s : State) : State := if drifted s theta then trigger s else s

/-- The Calibration Unit at a CALIB row's start (R84). -/
def startPatch (x0 : Word) (theta : Nat) (s : State) : State :=
  { s with ca := { s.ca with state := .inFlight, patch := some { x0 := x0, theta := theta, bal := s.ca.bal } } }

/-- The PRINT entries of a row that starts in STALE are flagged UNCALIBRATED (R64). -/
def flagUncalibrated (x0 : Word) (s : State) : State :=
  { s with wt := { s.wt with
    track := s.wt.track.map fun e =>
      if e.x0 = some x0 ∧ e.kind = .print then { e with flags := { e.flags with uncalibrated := true } } else e } }

/-- A print of the row that starts: clip count 0, no underrun (R64). -/
def PrintSpec.run (p : PrintSpec) : PrintRun := { spec := p }

/-- The start of the slot row (R64, R65). -/
def startSlotRow (r : SlotRow) (s : State) : State :=
  let x0 := s.wt.x
  let theta := s.ee.sample
  let stale := decide (s.ca.state = .stale)
  let ctx : RowContext :=
    { theta := theta, phi := factors s.cfg theta, bal := s.ca.bal, mask := some r.mask, stale := stale }
  let row : ExposingRow :=
    { kind := r.kind, x0 := x0, length := r.length, ctx := some ctx
      prints := ⟨r.prints.a.map (·.run), r.prints.b.map (·.run)⟩ }
  let s := { s with
    rc := { s.rc with slot := none }
    ee := { s.ee with
      expo := some (.row row)
      maskInForce := r.mask
      buffers := ⟨s.ee.buffers.a.beginRow, s.ee.buffers.b.beginRow⟩ } }
  let s := startEntries false x0 s
  let s := if stale then flagUncalibrated x0 s else s
  let s := addBoundary x0 s
  let s := if r.kind = .calib then startPatch x0 theta s else s
  askAttempt (askStatus (judgeDrift theta s))

/-- The start of a BLANK row (R66). -/
def startBlankRow (s : State) : State :=
  let x0 := s.wt.x
  let theta := s.ee.sample
  let ctx : RowContext := { theta := theta, phi := factors s.cfg theta, bal := none, mask := none, stale := false }
  let row : ExposingRow := { kind := .blank, x0 := x0, length := s.cfg.minPiece, ctx := some ctx }
  let s := { s with ee := { s.ee with expo := some (.row row) } }
  askStatus (judgeDrift theta (addBoundary x0 (startEntries true x0 s)))

/-- The conditions of R63 for the row in the slot, with `c` lines of lead-in still to come. -/
def slotCredit (s : State) (c : Nat) : Bool :=
  s.rc.slot.any fun r =>
    s.ee.expo.isNone && s.feedRuns && !s.ee.hot
      && decide (loopFill s + c + r.length ≤ s.cfg.loopMax)
      && decide (s.wt.track.length < Config.trackCap)

/-- Whether the slot row can start, or begin the lead-in that must come first (R63, R70). -/
def slotCanGo (s : State) : Bool := slotCredit s (if s.ee.continuity then 0 else Config.leadInLines)

/-! ## Blank paper (R66, R67) -/

/-- The BLANK row that last started, when the row that last started is one (R67). -/
def lastStarted (s : State) : Option Entry := (s.wt.track.filter (·.x0.isSome)).getLast?

/-- The extension of the BLANK row that last started by MIN_PIECE lines (R67, R100). -/
def extendBlank (s : State) : State :=
  match lastStarted s with
  | some e =>
    match e.kind, e.x0 with
    | .blank, some x0 =>
      let len := e.length + s.cfg.minPiece
      let s := updateEntry e.key (fun x => { x with length := len, stage := .exposing }) s
      { s with ee := { s.ee with expo := some (.row { kind := .blank, x0 := x0, length := len, ctx := none }) } }
    | _, _ => s
  | none => s

/-- A request for blank paper: a BLANK row started at once or behind its lead-in, or an extension when the track table
is full (R38, R66, R67, R70). -/
def requestBlank (s : State) : State :=
  if s.wt.track.length < Config.trackCap then
    let s := { s with wt := { s.wt with
      track := s.wt.track ++ [{ kind := .blank, lane := .a, length := s.cfg.minPiece }] } }
    if s.ee.continuity then startBlankRow s
    else { s with ee := { s.ee with expo := some (.leadIn 0 true) } }
  else extendBlank s

/-- Whether the loop has emptied with nothing to start (R66). -/
def blankDue (s : State) : Bool :=
  s.ee.expo.isNone && s.feedRuns && decide (loopFill s = 0) && !slotCanGo s

/-- Asks for blank paper when the loop has emptied (R66, R74). -/
def keepLoop (s : State) : State := if blankDue s then requestBlank s else s

/-! ## Exposing a line (R68) -/

/-- One step of the web under the head: X, paper used, and waste when the line counts as waste (R94, R105). -/
def advanceX (wasted : Bool) (s : State) : State :=
  { s with wt := { s.wt with
    x := s.wt.x + 1
    paperUsed := s.wt.paperUsed + 1
    waste := if wasted then s.wt.waste + 1 else s.wt.waste } }

/-- Whether line `k` of a row counts as waste (R105). -/
def wastes (c : Conf) (r : ExposingRow) (k : Nat) : Bool :=
  match r.kind with
  | .blank | .calib => true
  | .print =>
    decide (c.laneMode = .twoUp) && !(r.prints.a.isSome && r.prints.b.isSome) && decide (k % 2 = 1)

/-- The key of a started row's PRINT entry in a lane. -/
def printKey (x0 : Word) (l : Lane) : EntryKey := ⟨some x0, l, .print⟩

/-- A lane of the exposing row at line `k`: its buffer, its print with the clips and the underrun of the line, and what is
sent for it (R55, R71, R72). -/
def feedLane (c : Conf) (ctx : RowContext) (k : Nat) (b : LineBuffer) (p : Option PrintRun) :
    LineBuffer × Option PrintRun × Option (PrintSpec × List Byte) :=
  match p with
  | none => (b, none, none)
  | some run =>
    let fed := b.feed k
    let sent := fed.1.held
    let clips := sent.elim 0 fun px => clipsOfLine c ctx run.spec px
    (fed.1, some { run with clip := run.clip + clips, underrun := run.underrun || fed.2 }, sent.map fun px => (run.spec, px))

/-- The Web Transport flags the entry of a print that has underrun (R72). -/
def flagUnderrun (x0 : Word) (l : Lane) (p : Option PrintRun) (s : State) : State :=
  if p.any (·.underrun) then
    updateEntry (printKey x0 l) (fun e => { e with flags := { e.flags with underrun := true } }) s
  else s

/-- The row context drive values are computed with. -/
def ExposingRow.context (r : ExposingRow) : RowContext :=
  r.ctx.getD { theta := 0, phi := ⟨0, 0, 0⟩, bal := none, mask := none, stale := false }

/-- One step of the exposure feed while a row exposes: the drive line of line `k` is sent and X advances (R68). -/
def exposeLine (r : ExposingRow) (k : Nat) (s : State) : State :=
  let c := s.cfg
  let marked := markLine r.length k
  let fa := feedLane c r.context k s.ee.buffers.a r.prints.a
  let fb := feedLane c r.context k s.ee.buffers.b r.prints.b
  let row := { r with prints := ⟨fa.2.1, fb.2.1⟩ }
  let s := { s with ee := { s.ee with
    expo := some (.row row)
    buffers := ⟨fa.1, fb.1⟩
    drive := driveLine c marked { kind := r.kind, ctx := r.context, lanes := ⟨fa.2.2, fb.2.2⟩ } } }
  let s := flagUnderrun r.x0 .b fb.2.1 (flagUnderrun r.x0 .a fa.2.1 s)
  advanceX (wastes c r k) s

/-- One step of the exposure feed during a lead-in: the leading half of the mark and nothing else (R70). -/
def exposeLeadIn (done : Nat) (blank : Bool) (s : State) : State :=
  advanceX true { s with ee := { s.ee with expo := some (.leadIn (done + 1) blank), drive := leadInLine s.cfg } }

/-! ## Row ends (R73, R74, R101) -/

/-- An entry leaves EXPOSING at its row's end: to PROCESSING when Y has reached its row start, else to IN_LOOP (R101). -/
def Entry.leaveHead (y : Word) (e : Entry) : Entry :=
  { e with stage := if e.x0.any fun x => reached y x then .processing else .inLoop }

/-- A row's entries move out of EXPOSING (R101). -/
def endEntries (x0 : Word) (s : State) : State :=
  { s with wt := { s.wt with
    track := s.wt.track.map fun e =>
      if e.x0 = some x0 ∧ e.stage = .exposing then e.leaveHead s.wt.y else e } }

/-- A print whose clip count exceeds CLIP_LIMIT is flagged CLIPPED (R73). -/
def judgeClip (x0 : Word) (l : Lane) (p : Option PrintRun) (s : State) : State :=
  if p.any (fun r => decide (s.cfg.clipLimit < r.clip)) then
    updateEntry (printKey x0 l) (fun e => { e with flags := { e.flags with clipped := true } }) s
  else s

/-- A print whose entry carries UNDERRUN is flagged REJECT and reported, unless it is WITHDRAWN (R73). -/
def judgeUnderrun (x0 : Word) (l : Lane) (s : State) : State :=
  match findEntry s (printKey x0 l) with
  | none => s
  | some e =>
    if e.flags.underrun && !e.flags.withdrawn then
      let t := updateEntry e.key (fun x => { x with flags := { x.flags with reject := true } }) s
      e.ref.elim t fun r => rejectReport .underrun r t
    else s

/-- The row's last line is past: its context, clip counts and lines go, and the continuity mark is set (R73, R74). -/
def endRow (s : State) : State :=
  { s with ee := { s.ee with
    expo := none
    buffers := ⟨s.ee.buffers.a.endRow, s.ee.buffers.b.endRow⟩
    continuity := true
    drive := [] } }

/-- The judgements on the prints of a PRINT row at its end (R73). DESIGN CHOICE (log 35): when both prints have underrun,
lane A's report is taken first; R42 and R73 leave the order open. -/
def judgePrints (r : ExposingRow) (s : State) : State :=
  let s := judgeClip r.x0 .b r.prints.b (judgeClip r.x0 .a r.prints.a s)
  judgeUnderrun r.x0 .b (judgeUnderrun r.x0 .a s)

/-- Whether the exposing row has reached its end (R68). -/
def ExposingRow.ended (r : ExposingRow) (x : Word) : Bool := decide (r.length ≤ (x - r.x0).toNat)

/-- An exposing row or lead-in ended by a fault, with the BLANK row a lead-in stood before (R77, R70, R44). -/
def abandonRow (s : State) : State :=
  let s := emptyBuffers { s with ee := { s.ee with expo := none, continuity := false, drive := [] } }
  removeEntry ⟨none, .a, .blank⟩ s

end Sys2Proof.Machine
end

