-- ==== Sys2Proof/Machine/Control.lean ====
section
/-! DEFINITION. Machine Control: pausing and the drain, faults, and chip clear (R161 to R173); and how every event ends. -/

namespace Sys2Proof.Machine

/-! ## The pause and the drain -/

/-- The drain condition (R167). -/
def drained (s : State) : Bool :=
  s.ee.expo.isNone && !(s.wt.track.any fun e => decide (e.kind ≠ .blank)) && s.su.conveyor.isEmpty

/-- The fault causes in the order CLEAR_FAULT reads them (R171). -/
def faultCauses : List FaultCause := [.coverOpen, .jamWeb, .jamConveyor, .marksLost]

/-- Whether a fault condition is present (R168). -/
def present (s : State) : FaultCause → Bool
  | .noFault => false
  | .coverOpen => s.pins.lineStop
  | .jamWeb => s.pins.webJam
  | .jamConveyor => s.pins.convJam
  | .marksLost => s.ct.marksLost

/-- Whether a cause stops the conveyor (R169). -/
def FaultCause.stopsConveyor : FaultCause → Bool
  | .coverOpen | .jamConveyor => true
  | .noFault | .jamWeb | .marksLost => false

/-- An entry whose paper a fault spoils: EXPOSING or PROCESSING (R107). -/
def Entry.spoiled (e : Entry) : Bool := decide (e.stage = .exposing) || decide (e.stage = .processing)

/-- The fates of the track at a fault's entry: losses in paper order, the return of the slot row (R107, R108, R44). -/
def faultFates (conveyorStops : Bool) (s : State) : State :=
  let s := if conveyorStops then raiseLateForConveyor s else s
  returnSlot (loseWhere .lost (fun e => e.spoiled || (conveyorStops && e.cutFree)) s)

/-- The entry into FAULTED, as one event (R169). -/
def enterFault (c : FaultCause) (s : State) : State :=
  let s := { s with mc :=
    { state := .faulted, faultCause := c, pauseCause := .noPause, paperOutReq := false
      convStop := s.mc.convStop || c.stopsConveyor } }
  let s := faultFates c.stopsConveyor (abandonRow s)
  askStatus (post .fault (BitVec.ofNat 32 c.code) s)

/-- A further condition taken in FAULTED (R170). -/
def furtherFault (c : FaultCause) (s : State) : State :=
  match c with
  | .coverOpen =>
    let s := if s.mc.convStop then s else stopConveyor s
    post .fault (BitVec.ofNat 32 FaultCause.coverOpen.code) s
  | .jamConveyor => if s.mc.convStop then s else stopConveyor s
  | .jamWeb | .marksLost | .noFault => s

/-- A fault condition is taken, by the machine state (R168, R169, R170). -/
def takeCondition (c : FaultCause) (s : State) : State :=
  match s.mc.state with
  | .running | .pausing | .paused => enterFault c s
  | .faulted => furtherFault c s
  | .cleared | .ready => s

/-- The conditions are judged at an entry into RUNNING or PAUSED: those present are taken one after the other (R168, log 15). -/
def judgeConditions (s : State) : State :=
  faultCauses.foldl (fun t c => if present t c then takeCondition c t else t) s

/-- The cause the machine enters PAUSED with (R167). -/
def drainCause (s : State) : PauseCause := if s.wt.paperEnd then .paperOut else s.mc.pauseCause

/-- The keys of the BLANK entries (R110). -/
def blankKeys (s : State) : List EntryKey := (s.wt.track.filter fun e => decide (e.kind = .blank)).map (·.key)

/-- The entry into PAUSED from PAUSING, as one event (R167, R110, R70). -/
def enterPaused (s : State) : State :=
  let c := drainCause s
  let s := { s with mc := { s.mc with state := .paused, pauseCause := c } }
  let s := (blankKeys s).foldl (fun t k => removeEntry k t) s
  let s := { s with ee := { s.ee with continuity := s.ee.continuity && decide (c ≠ .paperOut), drive := [] } }
  judgeConditions (askStatus (post .paused (BitVec.ofNat 32 c.code) s))

/-- The entry into PAUSING, which passes on to PAUSED when the drain is already complete (R165, R166, R167). -/
def enterPausing (c : PauseCause) (s : State) : State :=
  let s := askStatus { s with mc := { s.mc with state := .pausing, pauseCause := c, paperOutReq := false } }
  if drained s then enterPaused s else s

/-- The Web Transport's request to pause for paper, taken in RUNNING (R166). -/
def requestPaperPause (s : State) : State :=
  if s.mc.state ≠ .running then s
  else if s.ee.expo.isNone then enterPausing .paperOut s
  else { s with mc := { s.mc with paperOutReq := true } }

/-- The pending request looked at at the end of the exposing row or of a lead-in (R166, R70). -/
def judgePaperRequest (s : State) : State :=
  if !s.mc.paperOutReq then s
  else if s.wt.paperEnd then enterPausing .paperOut s
  else { s with mc := { s.mc with paperOutReq := false } }

/-! ## Chip clear (R173) -/

/-- Every block at its chip-clear values; the store, the pins and the waiting commands are not the chip's. -/
def chipClear (s : State) : State :=
  { store := s.store
    pins := s.pins
    pending := s.pending
    wt := { paperEnd := s.pins.paperEnd }
    su := { bins := Vector.ofFn fun i => { doorOpen := s.pins.doors[i] } } }

/-! ## How every event ends -/

/-- What the event still owes: a composition attempt when one was asked for (R30, log 7), the line reads that can begin
(R71), and the machine status block when it is to be written (R185, log 8). -/
def settle (s : State) : State :=
  let s := if s.work.attempt then compose s else s
  let s := startReads s
  let s := if s.work.status then writeStatus s else s
  { s with work := {} }

/-- An event: its effect, and what it owes at its end. -/
def event (f : State → State) (s : State) : State := settle (f { s with work := {} })

/-- An event that is due in some states only; offered in another it does not happen (log 5). -/
def eventWhen (due : State → Bool) (f : State → State) (s : State) : State := if due s then event f s else s

end Sys2Proof.Machine
end

