-- ==== Sys2Proof/Machine/Bins.lean ====
section
/-! DEFINITION. The events of the Sorter Unit: pieces at the diverter, arrivals, misroutes, late expiries, unload
countdowns and doors (R131 to R140). -/

namespace Sys2Proof.Machine

/-! ## Routing -/

/-- Where a piece is to go: its destination, and the subject of SPLIT_TO_CATCH when it is split off to the catch tray (R131, R132). -/
structure Routing where
  dest : Fin 34
  split : Option Word := none
  deriving DecidableEq, Repr

/-- Whether a place of an order's bin list is a candidate (R132). -/
def isCandidate (s : State) (o : Owner) (p : BinPlace) : Bool :=
  let b := s.su.bins[p.bin]
  !p.early && decide (b.owner = some o) && (decide (b.state = .reserved) || decide (b.state = .filling))
    && decide (b.delivered + b.routed < s.cfg.binCap)

/-- The destination of a live print of an order (R132). -/
def routeLive (s : State) (o : Owner) (places : List BinPlace) : Routing :=
  match places.find? (isCandidate s o) with
  | some p =>
    if s.su.bins[p.bin].doorOpen then { dest := catchTray, split := some (binSubject p.bin) }
    else { dest := destOfBin p.bin }
  | none => { dest := catchTray, split := some (places.head?.elim 0 fun p => binSubject p.bin) }

/-- The bin list of the order that a print belongs to. -/
def placesOf (s : State) (r : CopyRef) : List BinPlace := (orderIn s r.slot r.number).elim [] (·.bins)

/-- The destination of a piece (R131). -/
def route (s : State) (e : Entry) : Routing :=
  match e.ref with
  | some r => if e.live then routeLive s { slot := r.slot, number := r.number } (placesOf s r) else { dest := rejectTray }
  | none => { dest := rejectTray }

/-- Raises the routed-unconfirmed count of a destination that is a bin (R132). -/
def raiseRouted (d : Fin 34) (s : State) : State :=
  match binOfDest d with
  | some i => setBin i { s.su.bins[i] with routed := s.su.bins[i].routed + 1 } s
  | none => s

/-- The SPLIT flag and its notice, for a print split off to the catch tray (R132). -/
def splitPiece (k : EntryKey) (r : Routing) (s : State) : State :=
  match r.split with
  | none => s
  | some subject =>
    post .splitToCatch subject (updateEntry k (fun e => { e with flags := { e.flags with split := true } }) s)

/-- A piece placed on the conveyor (R131, R132, R133). -/
def placePiece (e : Entry) (r : Routing) (s : State) : State :=
  let s := raiseRouted r.dest (splitPiece e.key r s)
  let s := updateEntry e.key (fun x => { x with stage := .conveyor }) s
  { s with su := { s.su with
      conveyor := s.su.conveyor ++ [{ piece := e.key, dest := r.dest, stamp := s.cu.lineClock }] } }

/-- A piece dropped through the overflow gate (R133). -/
def overflowPiece (e : Entry) (r : Routing) (s : State) : State :=
  loseEntry .conveyorFull (post .conveyorFull (destSubject r.dest) s) e.key

/-- The piece at the head of those awaiting routing reaches the diverter (R131, R133, log 19). -/
def divertPiece (k : EntryKey) (s : State) : State :=
  let s := { s with su := { s.su with awaiting := s.su.awaiting.tail } }
  match findEntry s k with
  | none => s
  | some e =>
    if s.su.conveyor.length < Config.conveyorCap then placePiece e (route s e) s else overflowPiece e (route s e) s

/-- PIECE_AT_DIVERTER (R131, R142). -/
def execPieceAtDiverter (s : State) : Outcome :=
  if s.conveyorRuns then
    match s.su.awaiting.head? with
    | some k => .next (event (divertPiece k) s)
    | none => .next s
  else .next s

/-! ## Arrivals -/

/-- A stray (R134, R137). -/
def stray (d : Fin 34) (s : State) : State := post .strayPrint (destSubject d) s

/-- The oldest conveyor entry for a destination (R134). -/
def oldestFor (s : State) (d : Fin 34) : Option ConvEntry := s.su.conveyor.find? fun c => decide (c.dest = d)

/-- A conveyor entry leaves the queue. -/
def leaveConveyor (c : ConvEntry) (s : State) : State :=
  { s with su := { s.su with conveyor := s.su.conveyor.filter fun x => !decide (x.piece = c.piece) } }

/-- A good delivery is reported (R135, R18). -/
def deliver (k : EntryKey) (toCatch : Bool) (s : State) : State :=
  match findEntry s k with
  | some e => e.ref.elim s fun r => countDelivery r toCatch e.flags s
  | none => s

/-- A matched arrival, by its destination (R134, R135). -/
def applyArrival (c : ConvEntry) (s : State) : State :=
  let s := leaveConveyor c s
  match binOfDest c.dest with
  | some i => removeEntry c.piece (deliver c.piece false (binArrival i s))
  | none => removeEntry c.piece (if c.dest = catchTray then deliver c.piece true s else s)

/-- An arrival at a destination: of a late piece, matched, or a stray (R134, R137). -/
def arrive (d : Fin 34) (s : State) : State :=
  let l := s.su.late[d]
  if 0 < l.count then stray d (setLate d { l with count := l.count - 1 } s)
  else match oldestFor s d with
    | some c => applyArrival c s
    | none => stray d s

/-- ARRIVAL (R134, R135, R137, R142). -/
def execArrival (d : Fin 34) (s : State) : Outcome := .next (eventWhen State.conveyorRuns (arrive d) s)

/-! ## Misroutes and late marks -/

/-- The oldest conveyor entry, once its confirmation limit is reached (R136). -/
def overdue (s : State) : Option ConvEntry :=
  s.su.conveyor.head?.filter fun c => elapsed s.cu.lineClock c.stamp s.cfg.confirmLimit

/-- A conveyor entry is misrouted (R136). -/
def misroute (c : ConvEntry) (s : State) : State :=
  let s := lowerRouted c.dest (leaveConveyor c s)
  loseEntry .misrouted (post .misrouted (destSubject c.dest) (raiseLate c.dest 1 s)) c.piece

/-- MISROUTED (R136, R137, R142). -/
def execMisrouted (s : State) : Outcome :=
  if s.conveyorRuns then
    match overdue s with
    | some c => .next (event (misroute c) s)
    | none => .next s
  else .next s

/-- Whether a destination's late expiry is reached while the conveyor runs (R137, R142). -/
def lateDue (d : Fin 34) (s : State) : Bool :=
  s.conveyorRuns && decide (0 < s.su.late[d].count) && reached s.cu.lineClock s.su.late[d].expiry

/-- The late count of a destination becomes 0 (R137). -/
def expireLate (d : Fin 34) (s : State) : State := setLate d { s.su.late[d] with count := 0 } s

/-- LATE_EXPIRY (R137). -/
def execLateExpiry (d : Fin 34) (s : State) : Outcome := .next (eventWhen (lateDue d) (expireLate d) s)

/-! ## Unload countdowns -/

/-- Whether a bin's unload countdown has expired (R140). -/
def countdownDue (i : Fin 32) (s : State) : Bool := (s.su.bins[i].countdown).any fun t => reached s.cu.lineClock t

/-- The countdown becomes idle and BIN_WAITING is posted (R140). -/
def expireCountdown (i : Fin 32) (s : State) : State :=
  post .binWaiting (binSubject i) (setBin i { s.su.bins[i] with countdown := none } s)

/-- BIN_WAITING (R140). -/
def execBinWaiting (i : Fin 32) (s : State) : Outcome := .next (eventWhen (countdownDue i) (expireCountdown i) s)

/-! ## Doors -/

/-- The door sensor of a bin now reads so. -/
def setDoorPin (i : Fin 32) (v : Bool) (s : State) : State :=
  { s with pins := { s.pins with doors := s.pins.doors.set i.1 v i.2 } }

/-- A door opens (R138). -/
def openDoor (i : Fin 32) (s : State) : State :=
  let s := setDoorPin i true s
  let b := { s.su.bins[i] with doorOpen := true }
  match b.state with
  | .free | .full => setBin i b s
  | .reserved | .filling => post .binDisturbed (binSubject i) (setBin i b s)
  | .complete => setBin i { b with countdown := none } s

/-- DOOR_OPEN (R138); a report that changes nothing at the sensor is no event (log 22). -/
def execDoorOpen (i : Fin 32) (s : State) : Outcome :=
  .next (eventWhen (fun t => !t.pins.doors[i]) (openDoor i) s)

/-- The early unload of a FULL bin (R139). -/
def unloadEarly (i : Fin 32) (s : State) : State :=
  let owner := s.su.bins[i].owner
  let s := freeBin i s
  owner.elim s fun o => markEarly o i s

/-- A door closes (R139). -/
def closeDoor (i : Fin 32) (s : State) : State :=
  let s := setDoorPin i false s
  let b := { s.su.bins[i] with doorOpen := false }
  let s := setBin i b s
  match b.state with
  | .free =>
    -- A FREE bin whose door closes may be reserved again; R30 names no attempt for it.
    s
  | .reserved | .filling => s
  | .full => unloadEarly i s
  | .complete => freeBin i s

/-- DOOR_CLOSE (R139); a report that changes nothing at the sensor is no event (log 22). -/
def execDoorClose (i : Fin 32) (s : State) : Outcome :=
  .next (eventWhen (fun t => t.pins.doors[i]) (closeDoor i) s)

end Sys2Proof.Machine
end

