-- ==== Sys2Proof/Machine/Commands.lean ====
section
/-! DEFINITION. The commands of the cell, each as its owner judges and carries it out, with the reply it gives. -/

namespace Sys2Proof.Machine

/-- What taking a command comes to: a reply with its data, or a record that has to be read first (R177 to R179). -/
inductive Taken where
  | reply (rc : ReplyCode) (data : Nat) (s : State)
  | reading (s : State)

/-- A command refused: the reply and nothing else. -/
def refuse (rc : ReplyCode) (s : State) : Taken := .reply rc 0 s

/-- A command carried out. -/
def done (s : State) : Taken := .reply .done 0 s

/-! ## Machine Control -/

/-- The states in which CONFIGURE is taken (R163). -/
def configureAdmitted (s : State) : Bool :=
  match s.mc.state with
  | .cleared | .ready => true
  | .paused => s.wt.track.isEmpty
  | .running | .pausing | .faulted => false

/-- CONFIGURE at its taking (R163, R179). -/
def takeConfigure (addr : Word) (s : State) : Taken :=
  if !configureAdmitted s then refuse .illegalState s
  else if !recordAddressOk addr.toNat Config.configBytes then refuse .badOperand s
  else .reading { s with cu := { s.cu with job := some (.configure addr) } }

/-- The calibration fields installed by a CONFIGURE (R81). -/
def installCal (c : Conf) : CaState :=
  { state := .valid, bal := some c.initBal, thetaCal := c.thetaRef, invalid := 0, patch := none }

/-- Writes the three control blocks (R3). -/
def writeControlBlocks (s : State) : State := allQueues.foldl (fun t q => writeControlBlock q t) s

/-- The installation of a configuration record that passed (R163, R14, R40, R79, R81, R180, R185). -/
def installConfigure (addr : Word) (s : State) : State :=
  let c := parseConf s.store addr.toNat
  let first := s.conf.isNone
  let left := decide (s.mc.state = .cleared)
  let s := judgeLine { s with
    conf := some c
    mc := { s.mc with state := .ready, pauseCause := .noPause }
    ca := installCal c
    rc := { s.rc with mask := c.initMask, firstCal := false }
    cu := { s.cu with enables := parseEnables s.store addr.toNat } }
  let s := if left then restartLate s else s
  let s := if first then writeControlBlocks s else s
  askStatus (reexamineAll s)

/-- CONFIGURE at the end of its reading (R179, R163). -/
def endConfigure (addr : Word) (s : State) : ReplyCode × Nat × State :=
  match lowestFailing (confChecks s.store addr.toNat s.cfg.binCap s.su.bins) with
  | some o => (.badRecord, o, s)
  | none => if configureAdmitted s then (.done, 0, installConfigure addr s) else (.illegalState, 0, s)

/-- What START from READY adds (R164): the trigger, the first-calibration hold, the cleared continuity mark. -/
def beginRun (s : State) : State :=
  trigger { s with rc := { s.rc with firstCal := true }, ee := { s.ee with continuity := false } }

/-- The composition attempt START makes, ahead of the paper and the conditions (R164, log 7, log 15). -/
def composeNow (s : State) : State :=
  let s := compose s
  { s with work := { s.work with attempt := false } }

/-- START (R164, R106, R168). -/
def takeStart (s : State) : Taken :=
  if s.mc.state = .ready ∨ s.mc.state = .paused then
    let fromReady := decide (s.mc.state = .ready)
    let s := askStatus { s with mc := { s.mc with state := .running, pauseCause := .noPause } }
    let s := composeNow (if fromReady then beginRun s else s)
    let s := if s.wt.paperEnd then requestPaperPause s else s
    done (if s.mc.state = .faulted then s else judgeConditions s)
  else refuse .illegalState s

/-- PAUSE (R165). -/
def takePause (s : State) : Taken :=
  if s.mc.state = .running then done (enterPausing .host s) else refuse .illegalState s

/-- The exit from FAULTED (R171): PAUSED, the conveyor stop cleared, the conveyor started if it stood. -/
def leaveFault (s : State) : State :=
  let stood := s.mc.convStop
  let s := { s with mc :=
    { s.mc with state := .paused, faultCause := .noFault, pauseCause := .faultCleared, convStop := false } }
  askStatus (if stood then restartLate s else s)

/-- CLEAR_FAULT (R171). -/
def takeClearFault (s : State) : Taken :=
  if s.mc.state ≠ .faulted then refuse .illegalState s
  else match faultCauses.find? (present s) with
    | some c => .reply .conditionPresent c.code s
    | none => done (leaveFault s)

/-! ## Order Manager -/

/-- INITIATE (R4). -/
def takeInitiate (queue addr : Word) (s : State) : Taken :=
  if s.mc.state = .cleared then refuse .illegalState s
  else match QueueId.ofWord queue with
    | none => refuse .badOperand s
    | some q =>
      let c := s.om.queues.get q
      match c.state with
      | .active | .parked | .blocked => refuse .queueBusy s
      | .idle | .halted =>
        if orderAddressOk addr then
          done (askAttempt (setQueue q { c with state := .active, next := addr, tail := 0, halt := .noHalt } s))
        else refuse .badOperand s

/-- RESUME (R10). -/
def takeResume (queue : Word) (s : State) : Taken :=
  match QueueId.ofWord queue with
  | none => refuse .badOperand s
  | some q =>
    let c := s.om.queues.get q
    match c.state with
    | .active => refuse .notParked s
    | .idle | .blocked | .halted => refuse .illegalState s
    | .parked =>
      let link := recLink s.store c.tail.toNat
      if link = 0 then refuse .stillEnd s
      else if orderAddressOk link then done (askAttempt (setQueue q { c with state := .active, next := link } s))
      else done (haltQueue q link c.tail c s)

/-- RELEASE_QUEUE (R12, R34). -/
def takeReleaseQueue (queue : Word) (s : State) : Taken :=
  match QueueId.ofWord queue with
  | none => refuse .badOperand s
  | some q =>
    let c := s.om.queues.get q
    match c.state with
    | .parked | .blocked | .halted =>
      done (setBinWait q false (setQueue q { c with state := .idle, halt := .noHalt } s))
    | .active | .idle => refuse .illegalState s

/-- WITHDRAW of a deferred order (R22). -/
def withdrawDeferred (d : Deferred) (s : State) : State :=
  let p : Progress :=
    { price := { withdrawnUncharged := true }, stamp := some s.cu.lineClock, state := .withdrawn, reason := .noFit
      items := zeroItems s.store d.addr.toNat }
  dropDeferred d (post .orderDone d.addr (writeRecord d.addr p s))

/-- The entries a WITHDRAW flags: live and not yet routed (R23). -/
def Entry.withdrawable (e : Entry) (slot : Fin 8) (number : Word) : Bool :=
  e.ofOrder slot number && e.live && !decide (e.stage = .conveyor)

/-- WITHDRAW of an OPEN or COMPOSED order (R23). -/
def withdrawOpen (i : Fin 8) (o : OpenOrder) (charge : Bool) (s : State) : State :=
  let mine (r : CopyRef) : Bool := decide (r.slot = i) && decide (r.number = o.number)
  let behind := uncomposed s.store o
  let remakes := (s.rc.remakes.filter mine).length
  let live := (s.wt.track.filter (·.withdrawable i o.number)).length
  let s := { s with
    rc := { s.rc with remakes := s.rc.remakes.filter fun r => !mine r }
    wt := { s.wt with
      track := s.wt.track.map fun e =>
        if e.withdrawable i o.number then { e with flags := { e.flags with withdrawn := true } } else e } }
  judgeClose i o.number (putOrder i
    { o with dropped := o.dropped + (behind + remakes + live), cursor := none, phase := .withdrawing charge } s)

/-- WITHDRAW (R22, R23). -/
def takeWithdraw (number charge : Word) (s : State) : Taken :=
  if s.mc.state = .cleared then refuse .illegalState s
  else if charge ≠ 0 ∧ charge ≠ 1 then refuse .badOperand s
  else match slotOfNumber s number with
    | some i =>
      match s.om.table[i] with
      | none => refuse .noSuchOrder s
      | some o =>
        match o.phase with
        | .withdrawing _ => refuse .illegalState s
        | .opened | .composed => done (withdrawOpen i o (decide (charge = 1)) s)
    | none =>
      match s.om.deferred.find? fun d => decide (d.number = number) with
      | some d => done (withdrawDeferred d s)
      | none => refuse .noSuchOrder s

/-! ## Row Composer and Calibration Unit -/

/-- Stages a mask. Where the room that R31 requires comes to hold by it, a composition attempt is asked for (R30). -/
def stageMask (m : LaneMask) (s : State) : State :=
  let t := { s with rc := { s.rc with mask := m } }
  if !roomHolds s && roomHolds t then askAttempt t else t

/-- SET_LANES (R27). -/
def takeSetLanes (mask : Word) (s : State) : Taken :=
  if s.mc.state = .cleared ∨ s.mc.state = .faulted then refuse .illegalState s
  else match laneMaskOf mask.toNat with
    | none => refuse .badOperand s
    | some m =>
      if s.cfg.laneMode = .oneUp ∧ m = .bOnly then refuse .badOperand s
      else done (stageMask m s)

/-- RECALIBRATE (R83). -/
def takeRecalibrate (s : State) : Taken :=
  match s.mc.state with
  | .ready | .running | .paused => done (trigger s)
  | .cleared | .pausing | .faulted => refuse .illegalState s

/-! ## Pricing Unit -/

/-- LOAD_PRICES at its taking (R147). -/
def takeLoadPrices (addr : Word) (s : State) : Taken :=
  if s.mc.state = .cleared then refuse .illegalState s
  else if !recordAddressOk addr.toNat 16 then refuse .badOperand s
  else if s.pu.gens.toList.all (·.isSome) then refuse .pricesBusy s
  else .reading { s with cu := { s.cu with job := some (.loadPrices addr) } }

/-- LOAD_PRICES at the end of its reading (R148, R149). -/
def endLoadPrices (addr : Word) (s : State) : ReplyCode × Nat × State :=
  match lowestFailing (priceChecks s.store addr.toNat) with
  | some o => (.badRecord, o, s)
  | none => (.done, 0, installPrices (parsePrices s.store addr.toNat) s)

/-! ## Sorter Unit -/

/-- RELEASE_BIN (R141). -/
def takeReleaseBin (bin : Word) (s : State) : Taken :=
  if s.mc.state = .cleared then refuse .illegalState s
  else if h : bin.toNat < 32 then
    if bin.toNat < s.cfg.binCount then
      if s.su.bins[(⟨bin.toNat, h⟩ : Fin 32)].state = .complete then done (freeBin ⟨bin.toNat, h⟩ s)
      else refuse .illegalState s
    else refuse .badOperand s
  else refuse .badOperand s

/-! ## Section resets -/

/-- The EXPOSURE section reset (R78). -/
def resetExposure (s : State) : State :=
  let s := emptyBuffers s
  { s with
    rc := { s.rc with mask := s.cfg.initMask, hot := false }
    ee := { s.ee with hot := false } }

/-- A boundary found afresh in the track table, against those kept ahead of it (R124). -/
def rebuildBoundary (s : State) (kept : List Boundary) (b : Boundary) : List Boundary :=
  let n : Boundary :=
    { pos := b.pos, rowAfter := if rowInTable s b.pos then some b.pos else none, rowBefore := rowBefore s.wt.track kept b.pos }
  if n.kept then kept ++ [n] else kept

/-- The CUTTER section reset (R124). -/
def resetCutter (s : State) : State :=
  { s with ct := { queue := s.ct.queue.foldl (rebuildBoundary s) [], misses := 0 } }

/-- A bin at a SORTER section reset: no routed count, the door as its sensor reads, the countdown restarted while it is
COMPLETE and closed. With UNLOAD_LIMIT 0 a running countdown is left as it is (R143, log 24). -/
def resetBin (s : State) (i : Fin 32) (b : Bin) : Bin :=
  let isOpen := s.pins.doors[i]
  { b with
    routed := 0
    doorOpen := isOpen
    countdown :=
      if b.state ≠ .complete then b.countdown
      else if isOpen then none
      else if s.cfg.unloadLimit = 0 then b.countdown
      else some (countdownExpiry s) }

/-- The SORTER section reset (R143). -/
def resetSorter (s : State) : State :=
  let s := loseWhere .lost (·.cutFree) (raiseLateForConveyor s)
  { s with su := { s.su with
    bins := Vector.ofFn fun i => resetBin s i s.su.bins[i]
    awaiting := []
    conveyor := [] } }

/-- The sections of SECTION_RESET (R187, Command cell). -/
inductive Section where
  | exposure
  | cutter
  | sorter
  deriving DecidableEq, Repr

def Section.code : Section → Nat
  | .exposure => 1
  | .cutter => 2
  | .sorter => 3

def sectionOf (w : Word) : Option Section :=
  if w = 1 then some .exposure else if w = 2 then some .cutter else if w = 3 then some .sorter else none

/-- SECTION_RESET (R172). -/
def takeSectionReset (w : Word) (s : State) : Taken :=
  match s.mc.state with
  | .cleared | .running | .pausing => refuse .illegalState s
  | .ready | .paused | .faulted =>
    match sectionOf w with
    | none => refuse .badOperand s
    | some .exposure => done (resetExposure s)
    | some .cutter => done (resetCutter s)
    | some .sorter => done (resetSorter s)

end Sys2Proof.Machine
end

