-- ==== Sys2Proof/WellFormed.lean ====
section
/-! DEFINITION. Which commands and events the outside can bring: the ranges the spec gives the host's window and the sensors. -/

namespace Sys2Proof

/-- A byte store of the host lies in its memory window, the 256 MiB of the work store (spec/00_scope.md, The way in). -/
abbrev HostWrite.inStore (w : HostWrite) : Bool := decide (w.addr < Config.storeBytes)

/-- The head temperature sensor reads 0 to 400 quarter degrees (R75). -/
abbrev temperatureInRange (quarters : Nat) : Bool := decide (quarters ≤ 400)

/-- The densitometer reads 0 to 4095 thousandths in each channel (R85). -/
abbrev densityInRange (m : Nat) : Bool := decide (m ≤ 4095)

/-- The commands the outside can bring. Every other operand is held to its range by its type. -/
def Instr.wellFormed : Instr → Bool
  | .attn _ writes => writes.all (·.inStore)
  | .headTemperatureSample q => temperatureInRange q
  | .densitometerReading r g b => densityInRange r && densityInRange g && densityInRange b
  | .clear _ | .powerUp | .registerWriteIgnored _ _ | .configure _ | .configureComplete | .start | .pause
  | .clearFault | .initiate _ _ | .resume _ | .releaseQueue _ | .withdraw _ _ | .setLanes _ | .recalibrate
  | .loadPrices _ | .loadPricesComplete | .releaseBin _ | .sectionResetExposure | .sectionResetCutter
  | .sectionResetSorter | .imageLineReadComplete _ | .leadInStart | .leadInEnd | .rowStart | .exposureFeedStep
  | .rowEnd | .calibOrBlankRowEnd | .processFeedStep | .markWindowOpen | .markReport _ | .markMissed | .knifeFire
  | .pieceAtDiverter | .arrival _ | .misrouted | .lateExpiry _ | .binWaiting _ | .doorOpen _ | .doorClose _
  | .paperEnd _ | .drainComplete | .lineStopInput _ | .webJamSensor _ | .conveyorJamSensor _
  | .lineClockTick => true

end Sys2Proof
end

