-- ==== Sys2Proof/Machine/Cell.lean ====
section
/-! DEFINITION. The register window and the command cell: attentions, the taking and the completion of commands, and
the meaning of every row that the host brings about (R163 to R179). -/

namespace Sys2Proof.Machine

/-! ## The protocol of the cell -/

/-- The commands of the cell and their codes (spec/12, Command cell). -/
inductive Command where
  | configure
  | start
  | pause
  | clearFault
  | initiate
  | resume
  | releaseQueue
  | withdraw
  | setLanes
  | recalibrate
  | loadPrices
  | releaseBin
  | sectionReset
  deriving DecidableEq, Repr

def Command.code : Command → Nat
  | .configure => 1
  | .start => 2
  | .pause => 3
  | .clearFault => 4
  | .initiate => 5
  | .resume => 6
  | .releaseQueue => 7
  | .withdraw => 8
  | .setLanes => 9
  | .recalibrate => 10
  | .loadPrices => 11
  | .releaseBin => 12
  | .sectionReset => 13

def allCommands : List Command :=
  [.configure, .start, .pause, .clearFault, .initiate, .resume, .releaseQueue, .withdraw, .setLanes, .recalibrate,
   .loadPrices, .releaseBin, .sectionReset]

/-- The command a code names; other codes name none (R177). -/
def commandOf (code : Nat) : Option Command := allCommands.find? fun c => decide (c.code = code)

/-- A command handed to its owner with the operand words (R177). -/
def runCommand (c : Command) (w1 w2 : Word) (s : State) : Taken :=
  match c with
  | .configure => takeConfigure w1 s
  | .start => takeStart s
  | .pause => takePause s
  | .clearFault => takeClearFault s
  | .initiate => takeInitiate w1 w2 s
  | .resume => takeResume w1 s
  | .releaseQueue => takeReleaseQueue w1 s
  | .withdraw => takeWithdraw w1 w2 s
  | .setLanes => takeSetLanes w1 s
  | .recalibrate => takeRecalibrate s
  | .loadPrices => takeLoadPrices w1 s
  | .releaseBin => takeReleaseBin w1 s
  | .sectionReset => takeSectionReset w1 s

/-- The completion: word 3, then word 0 with TAKEN and the code; the cell is idle (R178, R187). -/
def complete (code : Nat) (rc : ReplyCode) (data : Nat) (s : State) : State :=
  { s with
    cu := { s.cu with job := none }
    store := Memory.write32 (Memory.write32 s.store 12 (rc.code + 65536 * data)) 0 (2 + 256 * code) }

/-- The taking of a POSTED command (R177). -/
def takeCommand (s : State) : State :=
  match commandOf (cellCode s.store) with
  | none => complete (cellCode s.store) .unknownCommand 0 s
  | some c =>
    match runCommand c (cellWord1 s.store) (cellWord2 s.store) s with
    | .reply rc data t => complete c.code rc data t
    | .reading t => t

/-- The reading of the cell while it is idle and an attention is pending (R176). -/
def serve (s : State) : State :=
  let s := { s with cu := { s.cu with attnPending := false } }
  if cellPosted s.store then takeCommand s else s

/-- An attention (R176, R183). -/
def attention (s : State) : State :=
  let s := readSlots { s with cu := { s.cu with attnPending := true } }
  if s.cu.job.isNone then serve s else s

/-- The completion of a command that read a record, and the reading of the cell that follows when an attention
arrived meanwhile (R178). -/
def completeReading (c : Command) (r : ReplyCode × Nat × State) : State :=
  let s := complete c.code r.1 r.2.1 r.2.2
  if s.cu.attnPending then serve s else s

/-! ## The host posts a command

A row of the table that is a command stands for the host's posting of it and the attention that has it taken: the
operand words the command uses, word 0 with POSTED and the code, ATTN (log 3). -/

/-- The host writes word 0: POSTED with the command's code. -/
def postWord0 (c : Command) (s : State) : State := { s with store := Memory.write32 s.store 0 (1 + 256 * c.code) }

/-- The host writes operand word 1. -/
def postWord1 (w : Word) (s : State) : State := { s with store := Memory.writeWord s.store 4 w }

/-- The host writes operand word 2. -/
def postWord2 (w : Word) (s : State) : State := { s with store := Memory.writeWord s.store 8 w }

/-- A command with no operand is posted. -/
def posted0 (c : Command) (s : State) : State := attention (postWord0 c s)

/-- A command with one operand is posted. -/
def posted1 (c : Command) (w : Word) (s : State) : State := attention (postWord0 c (postWord1 w s))

/-- A command with two operands is posted. -/
def posted2 (c : Command) (w v : Word) (s : State) : State := attention (postWord0 c (postWord2 v (postWord1 w s)))

/-! ## The register window -/

/-- ATTN (R176), after the host's stores in its window (log 3). The value written is of no account (R174). -/
def execAttn (_value : Word) (writes : List HostWrite) (s : State) : Outcome :=
  if writes.all (·.inStore) then
    .next (event (fun t => attention { t with store := Memory.hostWrites t.store writes }) s)
  else .refused .hostWriteOutsideStore

/-- CLEAR (R173, R174). -/
def execClear (_value : Word) (s : State) : Outcome := .next (chipClear s)

/-- POWER_UP (R173). What the store holds at power-up is left as it stands (log 16). -/
def execPowerUp (s : State) : Outcome := .next (chipClear s)

/-- REGISTER_WRITE_IGNORED (R174). -/
def execRegisterWriteIgnored (_offset _value : Word) (s : State) : Outcome := .next s

/-! ## Commands -/

/-- CONFIGURE (R163, R179). -/
def execConfigure (addr : Word) (s : State) : Outcome := .next (event (posted1 .configure addr) s)

/-- CONFIGURE_COMPLETE (R179, R163). -/
def execConfigureComplete (s : State) : Outcome :=
  match s.cu.job with
  | some (.configure addr) => .next (event (fun t => completeReading .configure (endConfigure addr t)) s)
  | _ => .next s

/-- START (R164). -/
def execStart (s : State) : Outcome := .next (event (posted0 .start) s)

/-- PAUSE (R165). -/
def execPause (s : State) : Outcome := .next (event (posted0 .pause) s)

/-- CLEAR_FAULT (R171). -/
def execClearFault (s : State) : Outcome := .next (event (posted0 .clearFault) s)

/-- INITIATE (R4). -/
def execInitiate (queue addr : Word) (s : State) : Outcome := .next (event (posted2 .initiate queue addr) s)

/-- RESUME (R10). -/
def execResume (queue : Word) (s : State) : Outcome := .next (event (posted1 .resume queue) s)

/-- RELEASE_QUEUE (R12). -/
def execReleaseQueue (queue : Word) (s : State) : Outcome := .next (event (posted1 .releaseQueue queue) s)

/-- WITHDRAW (R22). -/
def execWithdraw (number charge : Word) (s : State) : Outcome := .next (event (posted2 .withdraw number charge) s)

/-- SET_LANES (R27). -/
def execSetLanes (mask : Word) (s : State) : Outcome := .next (event (posted1 .setLanes mask) s)

/-- RECALIBRATE (R83). -/
def execRecalibrate (s : State) : Outcome := .next (event (posted0 .recalibrate) s)

/-- LOAD_PRICES (R147). -/
def execLoadPrices (addr : Word) (s : State) : Outcome := .next (event (posted1 .loadPrices addr) s)

/-- LOAD_PRICES_COMPLETE (R148, R149). -/
def execLoadPricesComplete (s : State) : Outcome :=
  match s.cu.job with
  | some (.loadPrices addr) => .next (event (fun t => completeReading .loadPrices (endLoadPrices addr t)) s)
  | _ => .next s

/-- RELEASE_BIN (R141). -/
def execReleaseBin (bin : Word) (s : State) : Outcome := .next (event (posted1 .releaseBin bin) s)

/-- SECTION_RESET with section EXPOSURE (R172, R78). -/
def execSectionResetExposure (s : State) : Outcome := .next (event (posted1 .sectionReset 1) s)

/-- SECTION_RESET with section CUTTER (R172, R124). -/
def execSectionResetCutter (s : State) : Outcome := .next (event (posted1 .sectionReset 2) s)

/-- SECTION_RESET with section SORTER (R172, R143). -/
def execSectionResetSorter (s : State) : Outcome := .next (event (posted1 .sectionReset 3) s)

end Sys2Proof.Machine
end

