-- ==== Sys2Proof/Machine/Head.lean ====
section
/-! DEFINITION. The events at the head: line reads, lead-ins, row starts, lines, row ends, temperature samples (R63 to R76).
Each meaning first says when its event is due; offered at another time the event does not happen (log 5). -/

namespace Sys2Proof.Machine

/-! ## Line reads -/

/-- The state once a lane's read has completed with the bytes the store then holds (R71, R72, log 11). -/
def lineArrives (lane : Lane) (r : LineRead) (s : State) : State :=
  setBuffer lane
    ((s.ee.buffers.get lane).complete r (headLine s) (Memory.readBytes s.store r.addr r.len)) s

/-- IMAGE_LINE_READ_COMPLETE (R71). -/
def execImageLineReadComplete (lane : Lane) (s : State) : Outcome :=
  match (s.ee.buffers.get lane).reading with
  | none => .next s
  | some r =>
    if r.addr + r.len ≤ Config.storeBytes then .next (event (lineArrives lane r) s)
    else .fault .lineOutsideStore

/-! ## Lead-ins and row starts -/

/-- Whether a lead-in can begin: of the slot row, or of a BLANK row the empty loop asks for (R70). -/
def leadInDue (s : State) : Bool :=
  !s.ee.continuity && (slotCredit s Config.leadInLines || (blankDue s && decide (s.wt.track.length < Config.trackCap)))

/-- A lead-in begins, for the slot row when it has credit, else for a BLANK row (R70, R66). -/
def beginLeadIn (s : State) : State :=
  if slotCredit s Config.leadInLines then { s with ee := { s.ee with expo := some (.leadIn 0 false) } }
  else requestBlank s

/-- LEAD_IN_START (R70). -/
def execLeadInStart (s : State) : Outcome := .next (eventWhen leadInDue beginLeadIn s)

/-- Whether a lead-in has exposed its last line (R70). -/
def leadInEnded (s : State) : Bool :=
  match s.ee.expo with
  | some (.leadIn done _) => decide (Config.leadInLines ≤ done)
  | _ => false

/-- The lead-in's last line: the continuity mark is set, and a BLANK row starts at once (R70). A pending paper-out
request is looked at (R166, log 15). -/
def endLeadIn (s : State) : State :=
  let forBlank := match s.ee.expo with
    | some (.leadIn _ blank) => blank
    | _ => false
  let s := { s with ee := { s.ee with expo := none, continuity := true, drive := [] } }
  if forBlank then judgePaperRequest (startBlankRow s) else keepLoop (judgePaperRequest s)

/-- LEAD_IN_END (R70). -/
def execLeadInEnd (s : State) : Outcome := .next (eventWhen leadInEnded endLeadIn s)

/-- Whether the slot row can start without a lead-in (R63). -/
def rowStartDue (s : State) : Bool := s.ee.continuity && slotCredit s 0

/-- The slot row's start. -/
def startRow (s : State) : State :=
  match s.rc.slot with
  | some r => startSlotRow r s
  | none => s

/-- ROW_START (R63, R64, R65). -/
def execRowStart (s : State) : Outcome := .next (eventWhen rowStartDue startRow s)

/-! ## Lines and row ends -/

/-- Whether the exposure feed has a line to expose (R68, R70, R95). -/
def feedStepDue (s : State) : Bool :=
  s.feedRuns &&
    match s.ee.expo with
    | some (.leadIn done _) => decide (done < Config.leadInLines)
    | some (.row r) => !r.ended s.wt.x
    | none => false

/-- One step of the exposure feed. -/
def feedStep (s : State) : State :=
  match s.ee.expo with
  | some (.leadIn done blank) => exposeLeadIn done blank s
  | some (.row r) => exposeLine r (s.wt.x - r.x0).toNat s
  | none => s

/-- EXPOSURE_FEED_STEP (R68, R70, R94, R105). -/
def execExposureFeedStep (s : State) : Outcome := .next (eventWhen feedStepDue feedStep s)

/-- The exposing row, when it has reached its end (R68). -/
def endedRow (s : State) : Option ExposingRow :=
  match s.ee.expo with
  | some (.row r) => if r.ended s.wt.x then some r else none
  | _ => none

/-- The end of a row of any kind, after the judgements on its prints (R73, R74, R166, R66). DESIGN CHOICE (log 34): of a
pending paper-out request and a slot row that could start, the request is taken first, within the event of the row's end. -/
def passRow (r : ExposingRow) (s : State) : State := keepLoop (judgePaperRequest (endRow (endEntries r.x0 s)))

/-- ROW_END (R73). -/
def execRowEnd (s : State) : Outcome :=
  match endedRow s with
  | some r => if r.kind = .print then .next (event (fun t => passRow r (judgePrints r t)) s) else .next s
  | none => .next s

/-- CALIB_OR_BLANK_ROW_END (R74). -/
def execCalibOrBlankRowEnd (s : State) : Outcome :=
  match endedRow s with
  | some r => if r.kind = .print then .next s else .next (event (passRow r) s)
  | none => .next s

/-! ## Head temperature -/

/-- The interval between samples in milliseconds (R75). -/
def sampleEvery : Nat := 250

/-- The cool threshold: θ_max − 8, or 0 below 8 (R76). -/
def coolThreshold (c : Conf) : Nat := c.thetaMax - 8

/-- Sets or clears the head-hot hold, and the Row Composer's with it (R76, R39). -/
def setHot (v : Bool) (s : State) : State := { s with ee := { s.ee with hot := v }, rc := { s.rc with hot := v } }

/-- A sample judged against θ_max, from the first CONFIGURE on (R75, R76). -/
def judgeSample (q : Nat) (s : State) : State :=
  if s.conf.isNone then s
  else if s.cfg.thetaMax < q then (if s.ee.hot then s else post .headHot 0 (setHot true s))
  else if s.ee.hot && decide (q ≤ coolThreshold s.cfg) then askAttempt (post .headCool 0 (setHot false s))
  else s

/-- The sample replaces the previous one and is judged (R75). -/
def takeSample (q : Nat) (s : State) : State :=
  judgeSample q { s with ee := { s.ee with sample := q, sampleAt := s.ee.sampleAt + lines sampleEvery } }

/-- HEAD_TEMPERATURE_SAMPLE (R75, R76). -/
def execHeadTemperatureSample (q : Nat) (s : State) : Outcome :=
  if temperatureInRange q then
    .next (eventWhen (fun t => elapsed t.cu.lineClock t.ee.sampleAt sampleEvery) (takeSample q) s)
  else .refused .sensorRange

end Sys2Proof.Machine
end

