-- ==== Sys2Proof/Machine/Knife.lean ====
section
/-! DEFINITION. The events of the Cutter Unit: mark windows, mark reports, misses and firings (R116 to R122). -/

namespace Sys2Proof.Machine

/-- Where a boundary's mark is due at the sensor: b + L_mk (R116). -/
def markDue (c : Conf) (b : Boundary) : Word := b.pos + lines c.lMk

/-- The first position of a boundary's mark window (R116). -/
def windowFirst (c : Conf) (b : Boundary) : Word := markDue c b - lines c.markWin

/-- The position one past a boundary's mark window (R116, R118). -/
def windowPast (c : Conf) (b : Boundary) : Word := markDue c b + lines c.markWin + 1

/-- Where the knife fires for a boundary: b + L_cut + δ (R120). -/
def knifeAt (c : Conf) (b : Boundary) : Word := b.pos + lines c.lCut + BitVec.ofInt 32 b.delta

/-- Changes the boundary at one place of the cut queue. -/
def setBoundary (i : Nat) (b : Boundary) (s : State) : State := { s with ct := { s.ct with queue := s.ct.queue.set i b } }

/-- The earliest boundary that satisfies a test, with its place. -/
def findBoundary (s : State) (f : Boundary → Bool) : Option (Nat × Boundary) :=
  (s.ct.queue.findIdx? f).bind fun i => (s.ct.queue[i]?).map fun b => (i, b)

/-! ## Mark windows -/

/-- The earliest boundary whose window Y has reached and that is still AHEAD (R116). -/
def windowToOpen (s : State) : Option (Nat × Boundary) :=
  findBoundary s fun b => decide (b.window = .ahead) && reached s.wt.y (windowFirst s.cfg b)

/-- MARK_WINDOW_OPEN (R116). -/
def execMarkWindowOpen (s : State) : Outcome :=
  if s.feedRuns then
    match windowToOpen s with
    | some (i, b) => .next (event (setBoundary i { b with window := .opened }) s)
    | none => .next s
  else .next s

/-- Whether a mark report falls within a boundary's window (R116, R117). -/
def inWindow (c : Conf) (yObs : Word) (b : Boundary) : Bool :=
  decide ((yObs - windowFirst c b).toNat ≤ 2 * c.markWin)

/-- Whether a boundary is watched: its window OPEN and its mark PENDING (R117). -/
def Boundary.watched (b : Boundary) : Bool := decide (b.window = .opened) && decide (b.mark = .pending)

/-- The boundary a report is given to (R117). -/
def boundaryFor (yObs : Word) (s : State) : Option (Nat × Boundary) :=
  findBoundary s fun b => b.watched && inWindow s.cfg yObs b

/-- A boundary takes a report: SEEN, with its offset; the miss count goes to 0 (R117). -/
def seeMark (i : Nat) (b : Boundary) (yObs : Word) (s : State) : State :=
  let s := setBoundary i { b with mark := .seen, delta := (yObs - markDue s.cfg b).toInt, window := .closed } s
  { s with ct := { s.ct with misses := 0 } }

/-- MARK_REPORT (R117). -/
def execMarkReport (yObs : Word) (s : State) : Outcome :=
  if s.feedRuns then
    match boundaryFor yObs s with
    | some (i, b) => .next (event (seeMark i b yObs) s)
    | none => .next s
  else .next s

/-! ## Misses -/

/-- The earliest watched boundary whose window Y has passed (R118). -/
def boundaryMissed (s : State) : Option (Nat × Boundary) :=
  findBoundary s fun b => b.watched && reached s.wt.y (windowPast s.cfg b)

/-- The PRINT entries of the row after are flagged MARK_MISSED (R118). -/
def flagMarkMissed (rowAfter : Option Word) (s : State) : State :=
  { s with wt := { s.wt with
    track := s.wt.track.map fun e =>
      if e.kind = .print ∧ e.x0.isSome ∧ e.x0 = rowAfter then { e with flags := { e.flags with markMissed := true } } else e } }

/-- A boundary is missed (R118), and the second miss in a row faults the machine (R119). -/
def missMark (i : Nat) (b : Boundary) (s : State) : State :=
  let s := flagMarkMissed b.rowAfter (setBoundary i { b with mark := .missed, delta := 0, window := .closed } s)
  let s := { s with ct := { s.ct with misses := min 2 (s.ct.misses + 1) } }
  if s.ct.marksLost then takeCondition .marksLost s else s

/-- MARK_MISSED (R118, R119). -/
def execMarkMissed (s : State) : Outcome :=
  if s.feedRuns then
    match boundaryMissed s with
    | some (i, b) => .next (event (missMark i b) s)
    | none => .next s
  else .next s

/-! ## The knife -/

/-- The boundary the knife fires for: the head of the queue, no longer PENDING, once Y has reached its knife position (R120). -/
def boundaryAtKnife (s : State) : Option Boundary :=
  s.ct.queue.head?.filter fun b => !decide (b.mark = .pending) && reached s.wt.y (knifeAt s.cfg b)

/-- The PROCESSING entries of a row. -/
def processingOf (s : State) (row : Option Word) : List Entry :=
  s.wt.track.filter fun e => e.x0.isSome && decide (e.x0 = row) && decide (e.stage = .processing)

/-- An entry of the row before at its trailing cut: a BLANK entry is removed, another moves to CUT and is handed to the
Sorter Unit (R102, R121, R122). -/
def cutEntry (s : State) (e : Entry) : State :=
  match e.kind with
  | .blank => removeEntry e.key s
  | .print | .calib =>
    let s := updateEntry e.key (fun x => { x with stage := .cut }) s
    { s with su := { s.su with awaiting := s.su.awaiting ++ [e.key] } }

/-- The firing: the boundary leaves the queue and the piece freed is disposed of, lane A first (R120 to R122). -/
def fireKnife (b : Boundary) (s : State) : State :=
  let s := { s with ct := { s.ct with queue := s.ct.queue.tail } }
  (processingOf s b.rowBefore).foldl cutEntry s

/-- KNIFE_FIRE (R120). -/
def execKnifeFire (s : State) : Outcome :=
  if s.feedRuns then
    match boundaryAtKnife s with
    | some b => .next (event (fireKnife b) s)
    | none => .next s
  else .next s

end Sys2Proof.Machine
end

