-- ==== Sys2Proof/Machine/Line.lean ====
section
/-! DEFINITION. The events of the line as a whole: the paper-end sensor, the completed drain, the interlock and the jam
sensors, and the line clock (R106, R167, R168, R175). -/

namespace Sys2Proof.Machine

/-! ## Paper end -/

/-- The paper-end sensor changes (R106). -/
def changePaper (isEnd : Bool) (s : State) : State :=
  let s := { s with pins := { s.pins with paperEnd := isEnd }, wt := { s.wt with paperEnd := isEnd } }
  if isEnd then requestPaperPause s else s

/-- PAPER_END (R106, R166); a report that changes nothing at the sensor is no event (log 22). -/
def execPaperEnd (isEnd : Bool) (s : State) : Outcome :=
  .next (eventWhen (fun t => t.pins.paperEnd != isEnd) (changePaper isEnd) s)

/-! ## The drain -/

/-- Whether the drain of a pause has completed (R167). -/
def drainDue (s : State) : Bool := decide (s.mc.state = .pausing) && drained s

/-- DRAIN_COMPLETE (R167). -/
def execDrainComplete (s : State) : Outcome := .next (eventWhen drainDue enterPaused s)

/-! ## Fault conditions -/

/-- The line-stop input changes (R168). -/
def changeLineStop (v : Bool) (s : State) : State :=
  let s := { s with pins := { s.pins with lineStop := v } }
  if v then takeCondition .coverOpen s else s

/-- LINE_STOP_INPUT (R168, R169, R170). -/
def execLineStopInput (v : Bool) (s : State) : Outcome :=
  .next (eventWhen (fun t => t.pins.lineStop != v) (changeLineStop v) s)

/-- The web jam sensor changes (R168). -/
def changeWebJam (v : Bool) (s : State) : State :=
  let s := { s with pins := { s.pins with webJam := v } }
  if v then takeCondition .jamWeb s else s

/-- WEB_JAM_SENSOR (R168, R169, R170). -/
def execWebJamSensor (v : Bool) (s : State) : Outcome :=
  .next (eventWhen (fun t => t.pins.webJam != v) (changeWebJam v) s)

/-- The conveyor jam sensor changes (R168). -/
def changeConvJam (v : Bool) (s : State) : State :=
  let s := { s with pins := { s.pins with convJam := v } }
  if v then takeCondition .jamConveyor s else s

/-- CONVEYOR_JAM_SENSOR (R168, R169, R170). -/
def execConveyorJamSensor (v : Bool) (s : State) : Outcome :=
  .next (eventWhen (fun t => t.pins.convJam != v) (changeConvJam v) s)

/-! ## The line clock -/

/-- One millisecond (R175). -/
def tick (s : State) : State := { s with cu := { s.cu with lineClock := s.cu.lineClock + 1 } }

/-- LINE_CLOCK_TICK (R175). -/
def execLineClockTick (s : State) : Outcome := .next (event tick s)

end Sys2Proof.Machine
end

