-- ==== Sys2Proof/Machine/Web.lean ====
section
/-! DEFINITION. The events of the process feed and of the densitometer (R85 to R96, R101). -/

namespace Sys2Proof.Machine

/-! ## The process feed -/

/-- The entries in IN_LOOP whose row start Y has reached move to PROCESSING (R96, R101). -/
def enterDrum (s : State) : State :=
  { s with wt := { s.wt with
    track := s.wt.track.map fun e =>
      if e.stage = .inLoop ∧ e.x0 = some s.wt.y then { e with stage := .processing } else e } }

/-- One step of Y. With the loop empty Y does not move, for F does not fall below 0 (R95, log 21). -/
def advanceY (s : State) : State :=
  if loopFill s = 0 then s else enterDrum { s with wt := { s.wt with y := s.wt.y + 1 } }

/-- PROCESS_FEED_STEP (R94, R95, R96, R66). -/
def execProcessFeedStep (s : State) : Outcome := .next (eventWhen State.feedRuns (fun t => keepLoop (advanceY t)) s)

/-! ## The densitometer -/

/-- The patch in flight, once Y has reached its reading point (R85). -/
def patchDue (s : State) : Option Patch :=
  match s.ca.state, s.ca.patch with
  | .inFlight, some p => if reached s.wt.y (p.x0 + lines s.cfg.lDens) then some p else none
  | _, _ => none

/-- The exposure a channel's table gives a density (R86). -/
def exposureAt (c : Conf) (k : Chan) (d : Nat) : Nat := exposure (c.table.get k) d

/-- Whether a reading is valid (R86). -/
def readingValid (c : Conf) (m : PerChan Nat) : Bool :=
  allChans.all fun k => within 50 (m.get k) 3999 && !decide (exposureAt c k (m.get k) = 0)

/-- The new balance of a channel: quotient, step limit, clamp (R87). -/
def newBalance (old eTarget eRead : Nat) : Nat :=
  let q := (old * eTarget + eRead / 2) / eRead
  let s := old / 8
  let limited := if q < old - s then old - s else if old + s < q then old + s else q
  if limited < 2048 then 2048 else if 6143 < limited then 6143 else limited

/-- The three new balances (R87). -/
def newBalances (c : Conf) (old m : PerChan Nat) : PerChan Nat :=
  PerChan.ofFn fun k => newBalance (old.get k) (exposureAt c k (c.target.get k)) (exposureAt c k (m.get k))

/-- The Row Composer clears its first-calibration hold if it is set (R40), and then makes an attempt (R30). -/
def endFirstCal (s : State) : State :=
  if s.rc.firstCal then askAttempt { s with rc := { s.rc with firstCal := false } } else s

/-- A valid reading (R88). -/
def applyReading (p : Patch) (m : PerChan Nat) (s : State) : State :=
  endFirstCal { s with ca :=
    { state := .valid, bal := s.ca.bal.map fun old => newBalances s.cfg old m, thetaCal := p.theta, invalid := 0
      patch := none } }

/-- An invalid reading (R89). -/
def failReading (p : Patch) (s : State) : State :=
  if s.ca.invalid + 1 < 3 then
    askAttempt { s with ca := { s.ca with state := .due, invalid := s.ca.invalid + 1, patch := none } }
  else
    endFirstCal (post .calFailed 0
      { s with ca := { s.ca with state := .stale, invalid := 3, thetaCal := p.theta, patch := none } })

/-- The reading is judged (R86). -/
def judgeReading (p : Patch) (m : PerChan Nat) (s : State) : State :=
  if readingValid s.cfg m then applyReading p m s else failReading p s

/-- DENSITOMETER_READING (R85 to R89). With no patch due at the densitometer the reading is discarded (R90, log 20). -/
def execDensitometerReading (red green blue : Nat) (s : State) : Outcome :=
  if densityInRange red && densityInRange green && densityInRange blue then
    match patchDue s with
    | some p => .next (event (judgeReading p ⟨red, green, blue⟩) s)
    | none => .next s
  else .refused .sensorRange

end Sys2Proof.Machine
end

