-- ==== Sys2Proof/Machine/Dispatch.lean ====
section
/-! DEFINITION. The meaning of every row of spec/opcode_table.json, one arm each. -/

namespace Sys2Proof.Machine

def exec (i : Instr) (s : State) : Host.Outcome State Fault Refusal :=
  match i with
  | .attn value writes => Sys2Proof.Machine.execAttn value writes s
  | .clear value => Sys2Proof.Machine.execClear value s
  | .powerUp => Sys2Proof.Machine.execPowerUp s
  | .registerWriteIgnored offset value => Sys2Proof.Machine.execRegisterWriteIgnored offset value s
  | .configure addr => Sys2Proof.Machine.execConfigure addr s
  | .configureComplete => Sys2Proof.Machine.execConfigureComplete s
  | .start => Sys2Proof.Machine.execStart s
  | .pause => Sys2Proof.Machine.execPause s
  | .clearFault => Sys2Proof.Machine.execClearFault s
  | .initiate queue addr => Sys2Proof.Machine.execInitiate queue addr s
  | .resume queue => Sys2Proof.Machine.execResume queue s
  | .releaseQueue queue => Sys2Proof.Machine.execReleaseQueue queue s
  | .withdraw number charge => Sys2Proof.Machine.execWithdraw number charge s
  | .setLanes mask => Sys2Proof.Machine.execSetLanes mask s
  | .recalibrate => Sys2Proof.Machine.execRecalibrate s
  | .loadPrices addr => Sys2Proof.Machine.execLoadPrices addr s
  | .loadPricesComplete => Sys2Proof.Machine.execLoadPricesComplete s
  | .releaseBin bin => Sys2Proof.Machine.execReleaseBin bin s
  | .sectionResetExposure => Sys2Proof.Machine.execSectionResetExposure s
  | .sectionResetCutter => Sys2Proof.Machine.execSectionResetCutter s
  | .sectionResetSorter => Sys2Proof.Machine.execSectionResetSorter s
  | .imageLineReadComplete lane => Sys2Proof.Machine.execImageLineReadComplete lane s
  | .leadInStart => Sys2Proof.Machine.execLeadInStart s
  | .leadInEnd => Sys2Proof.Machine.execLeadInEnd s
  | .rowStart => Sys2Proof.Machine.execRowStart s
  | .exposureFeedStep => Sys2Proof.Machine.execExposureFeedStep s
  | .rowEnd => Sys2Proof.Machine.execRowEnd s
  | .calibOrBlankRowEnd => Sys2Proof.Machine.execCalibOrBlankRowEnd s
  | .headTemperatureSample quarters => Sys2Proof.Machine.execHeadTemperatureSample quarters s
  | .processFeedStep => Sys2Proof.Machine.execProcessFeedStep s
  | .densitometerReading red green blue => Sys2Proof.Machine.execDensitometerReading red green blue s
  | .markWindowOpen => Sys2Proof.Machine.execMarkWindowOpen s
  | .markReport yObs => Sys2Proof.Machine.execMarkReport yObs s
  | .markMissed => Sys2Proof.Machine.execMarkMissed s
  | .knifeFire => Sys2Proof.Machine.execKnifeFire s
  | .pieceAtDiverter => Sys2Proof.Machine.execPieceAtDiverter s
  | .arrival dest => Sys2Proof.Machine.execArrival dest s
  | .misrouted => Sys2Proof.Machine.execMisrouted s
  | .lateExpiry dest => Sys2Proof.Machine.execLateExpiry dest s
  | .binWaiting bin => Sys2Proof.Machine.execBinWaiting bin s
  | .doorOpen bin => Sys2Proof.Machine.execDoorOpen bin s
  | .doorClose bin => Sys2Proof.Machine.execDoorClose bin s
  | .paperEnd isEnd => Sys2Proof.Machine.execPaperEnd isEnd s
  | .drainComplete => Sys2Proof.Machine.execDrainComplete s
  | .lineStopInput asserted => Sys2Proof.Machine.execLineStopInput asserted s
  | .webJamSensor jam => Sys2Proof.Machine.execWebJamSensor jam s
  | .conveyorJamSensor jam => Sys2Proof.Machine.execConveyorJamSensor jam s
  | .lineClockTick => Sys2Proof.Machine.execLineClockTick s

end Sys2Proof.Machine
end

