-- ==== Sys2Proof/Safety.lean ====
section
/-! DEFINITION. What claims about the part are stated with: the places of the store it writes, the state in which a
posted command is taken, the start of a BLANK row, and the invariants of its blocks. -/

namespace Sys2Proof.Machine

/-! ## Places of the store -/

/-- The command cell (R187, The anchor area). -/
abbrev inCell (a : Nat) : Prop := a < 16

/-- The three notice slots. -/
abbrev inSlots (a : Nat) : Prop := 0x40 ≤ a ∧ a < 0x70

/-- The fields of a queue's control block. -/
abbrev inControlBlock (q : QueueId) (a : Nat) : Prop := q.blockAddr ≤ a ∧ a < q.blockAddr + 16

/-- The three control blocks. -/
abbrev inControlBlocks (a : Nat) : Prop := 0x100 ≤ a ∧ a < 0x160

/-- The fields of the machine status block. -/
abbrev inStatusBlock (a : Nat) : Prop := 0x200 ≤ a ∧ a < 0x230

/-- Every byte outside the named places reads in `t` as it reads in `s`. -/
def storeKept (places : Nat → Prop) (s t : State) : Prop :=
  ∀ a, ¬ places a → Memory.read t.store a = Memory.read s.store a

/-- The reply word of the cell and its marker, after a command with this code was answered (R178). -/
def answeredWith (code : Nat) (rc : ReplyCode) (data : Nat) (t : State) : Prop :=
  Memory.read32 t.store 12 = rc.code + 65536 * data ∧ Memory.read32 t.store 0 = 2 + 256 * code ∧
    t.cu.job = none ∧ t.cu.attnPending = false

/-- The store keeps its canonical form. -/
def StoreCanonical (s : State) : Prop := Memory.wf s.store

/-! ## A command posted to the cell -/

/-- What an attention at an idle cell does before the cell is read: the slots are read, the pending flag is clear (R176). -/
def attended (s : State) : State :=
  let t := readSlots s
  { t with cu := { t.cu with attnPending := false } }

/-- The state in which a command with no operand is taken from an idle cell. -/
def offered0 (c : Command) (s : State) : State := attended (postWord0 c { s with work := {} })

/-- The state in which a command with one operand is taken from an idle cell. -/
def offered1 (c : Command) (w : Word) (s : State) : State := attended (postWord0 c (postWord1 w { s with work := {} }))

/-- The state in which a command with two operands is taken from an idle cell. -/
def offered2 (c : Command) (w v : Word) (s : State) : State :=
  attended (postWord0 c (postWord2 v (postWord1 w { s with work := {} })))

/-- What the cell shows of a taken command: the reply at once, or none yet while a record is read (R178, R179). -/
def answered (c : Command) : Taken → State
  | .reply rc data t => complete c.code rc data t
  | .reading t => t

/-- The end of the event in which a command is answered at once: `u` is the part with the command's effect. -/
def replied (c : Command) (rc : ReplyCode) (data : Nat) (u : State) : State := settle (complete c.code rc data u)

/-- The end of the event in which the reading of a record is completed: the reply, and no attention left pending,
for the marker the cell then shows is TAKEN (R178). -/
def ended (c : Command) (rc : ReplyCode) (data : Nat) (u : State) : State :=
  let t := complete c.code rc data u
  settle { t with cu := { t.cu with attnPending := false } }

/-- The command a row posts in the cell, none for the other rows. -/
def postedBy : Instr → Option Command
  | .configure _ => some .configure
  | .start => some .start
  | .pause => some .pause
  | .clearFault => some .clearFault
  | .initiate _ _ => some .initiate
  | .resume _ => some .resume
  | .releaseQueue _ => some .releaseQueue
  | .withdraw _ _ => some .withdraw
  | .setLanes _ => some .setLanes
  | .recalibrate => some .recalibrate
  | .loadPrices _ => some .loadPrices
  | .releaseBin _ => some .releaseBin
  | .sectionResetExposure | .sectionResetCutter | .sectionResetSorter => some .sectionReset
  | .attn _ _ | .clear _ | .powerUp | .registerWriteIgnored _ _ | .configureComplete | .loadPricesComplete
  | .imageLineReadComplete _ | .leadInStart | .leadInEnd | .rowStart | .exposureFeedStep | .rowEnd
  | .calibOrBlankRowEnd | .headTemperatureSample _ | .processFeedStep | .densitometerReading _ _ _ | .markWindowOpen
  | .markReport _ | .markMissed | .knifeFire | .pieceAtDiverter | .arrival _ | .misrouted | .lateExpiry _
  | .binWaiting _ | .doorOpen _ | .doorClose _ | .paperEnd _ | .drainComplete | .lineStopInput _ | .webJamSensor _
  | .conveyorJamSensor _ | .lineClockTick => none

/-- From `s` to `u` nothing happened but host stores in the cell and an attention: only notice slots, the classes with
their interrupt line and the pending flag can differ. -/
def onlyAttended (s u : State) : Prop :=
  u.cu.job = s.cu.job ∧ u.cu.lineClock = s.cu.lineClock ∧ u.cu.enables = s.cu.enables ∧ u.om = s.om ∧ u.rc = s.rc ∧
    u.ee = s.ee ∧ u.ca = s.ca ∧ u.wt = s.wt ∧ u.ct = s.ct ∧ u.su = s.su ∧ u.pu = s.pu ∧ u.mc = s.mc ∧ u.conf = s.conf ∧
    u.pins = s.pins ∧ u.pending = s.pending ∧ u.work = {} ∧ StoreCanonical u ∧
    storeKept (fun a => inCell a ∨ inSlots a) s u

/-! ## Conditions -/

/-- No fault condition is present (R168). -/
def noCondition (s : State) : Prop := ∀ c : FaultCause, present s c = false

/-- The news of a cause and subject is posted or held, or its class's newest held notice carries the "more" mark (R181). -/
def told (c : Cause) (subject : Word) (t : State) : Prop :=
  (∃ n ∈ (t.cu.classes.get c.cls).posted.toList ++ (t.cu.classes.get c.cls).held, n.cause = c ∧ n.subject = subject) ∨
    ((t.cu.classes.get c.cls).held.getLast?.any (·.more) = true ∧
      Config.heldCap ≤ (t.cu.classes.get c.cls).held.length)

/-- The positions, the paper counts, the configuration, the pins and the line clock are as before. -/
def lineKept (s t : State) : Prop :=
  t.wt.x = s.wt.x ∧ t.wt.y = s.wt.y ∧ t.wt.paperUsed = s.wt.paperUsed ∧ t.wt.waste = s.wt.waste ∧ t.conf = s.conf ∧
    t.pins = s.pins ∧ t.cu.lineClock = s.cu.lineClock ∧ t.cu.enables = s.cu.enables ∧ t.pending = s.pending

/-- A record address that passes the check of R5. -/
def validAddress (a : Word) : Prop := a.toNat % 64 = 0 ∧ 4096 ≤ a.toNat ∧ a.toNat ≤ 268435456 - 64

/-- A record at `a` shows an order that was never opened: its state and its reason, zero counts, no bins, zero prices and no
generation (R7, R8). -/
def recordUnopened (m : Memory) (a state reason : Nat) : Prop :=
  Memory.read8 m (a + 0x34) = state ∧ Memory.read8 m (a + 0x35) = reason ∧
    (∀ j < 5, Memory.read16 m (a + 0x10 + 2 * j) = 0) ∧ Memory.read8 m (a + 0x1A) = 0 ∧
    (∀ j < 4, Memory.read8 m (a + 0x1C + j) = 255) ∧ ∀ j < 4, Memory.read32 m (a + 0x20 + 4 * j) = 0

/-- The boundary at place `i` of the cut queue is the earliest that satisfies a test. -/
def firstBoundary (s : State) (f : Boundary → Bool) (i : Nat) (b : Boundary) : Prop :=
  s.ct.queue[i]? = some b ∧ f b = true ∧ ∀ j < i, ∀ x, s.ct.queue[j]? = some x → f x = false

/-- From `s` to `t` a BLANK row of MIN_PIECE lines has started at X: θ and its factors are latched, with no balances and no
mask of its own, the drift is judged against θ_cal, and the status block shows the part as it then stands (R64, R65, R66,
R185). -/
def blankRowStarted (s t : State) : Prop :=
  let phi (k : Chan) : Nat :=
    (max 3072 (min 5120 (4096 + s.cfg.tempCoef.get k * ((s.ee.sample : Int) - s.cfg.thetaRef)))).toNat
  let drift : Prop := (s.cfg.calDrift : Int) < ((s.ee.sample : Int) - s.ca.thetaCal).natAbs
  t.ee.expo = some (.row
    { kind := .blank, x0 := s.wt.x, length := s.cfg.minPiece
      ctx := some { theta := s.ee.sample, phi := PerChan.ofFn phi, bal := none, mask := none, stale := false } }) ∧
  t.ee.maskInForce = s.ee.maskInForce ∧
  (¬drift ∨ s.ca.state = .due ∨ s.ca.state = .inFlight → t.ca = s.ca) ∧
  (drift → s.ca.state = .valid → t.ca = { s.ca with state := .due }) ∧
  (drift → s.ca.state = .stale → t.ca = { s.ca with state := .due, invalid := 0 }) ∧
  (StoreCanonical s →
    Memory.read8 t.store 0x200 = t.mc.state.code ∧ Memory.read8 t.store 0x203 = t.ca.state.code ∧
      Memory.readWord t.store 0x204 = s.wt.x ∧ Memory.readWord t.store 0x208 = t.wt.y ∧
      Memory.read16 t.store 0x210 = s.ee.sample % 65536 ∧ Memory.read8 t.store 0x212 = s.ee.maskInForce.code ∧
      Memory.readWord t.store 0x22C = s.cu.lineClock)

/-! ## Invariants -/

/-- The causes, the paper-out request and the conveyor stop stand only in the machine states R161 gives them. -/
def ControlConsistent (s : State) : Prop :=
  (s.mc.state ≠ .faulted → s.mc.faultCause = .noFault ∧ s.mc.convStop = false) ∧
  (s.mc.state = .faulted → s.mc.faultCause ≠ .noFault) ∧
  (s.mc.state ≠ .pausing → s.mc.state ≠ .paused → s.mc.pauseCause = .noPause) ∧
  (s.mc.paperOutReq = true → s.mc.state = .running ∧ s.ee.expo.isSome)

/-- A class holds at most four notices behind a posted one, all of its own causes, no two alike (R181). -/
def ClassOk (k : NoticeClass) (c : ClassState) : Prop :=
  c.held.length ≤ Config.heldCap ∧ (c.posted = none → c.held = []) ∧
  (∀ n ∈ c.posted.toList ++ c.held, n.cause.cls = k) ∧
  (c.posted.toList ++ c.held).Pairwise fun m n => m.alike n = false

/-- The notices of every class are as R181 says, and the interrupt line is at the level R184 gives. -/
def NoticesOk (s : State) : Prop :=
  ClassOk .a s.cu.classes.a ∧ ClassOk .b s.cu.classes.b ∧ ClassOk .c s.cu.classes.c ∧ s.cu.irq = s.cu.lineLevel

/-- The tables and queues hold no more than the spec gives them places. -/
def WithinCapacity (s : State) : Prop :=
  s.wt.track.length ≤ Config.trackCap ∧ s.ct.queue.length ≤ Config.cutCap ∧ s.ct.misses ≤ 2 ∧
  s.su.conveyor.length ≤ Config.conveyorCap ∧ (∀ d : Fin 34, s.su.late[d].count ≤ Config.lateCap) ∧
  s.om.deferred.length ≤ Config.deferCap ∧ s.rc.remakes.length + slotRemakes s ≤ Config.remakeCap ∧
  (∀ l : Lane, (s.ee.buffers.get l).used ≤ Config.linePlaces)

/-- A set of balances within 2048 to 6143 in every channel (R80). -/
def balancesInRange (b : PerChan Nat) : Prop := ∀ k : Chan, 2048 ≤ b.get k ∧ b.get k ≤ 6143

/-- The balances installed, and those the patch in flight was exposed with, are in range (R80, R87). -/
def CalibrationOk (s : State) : Prop :=
  (∀ b ∈ s.ca.bal, balancesInRange b) ∧ ∀ p ∈ s.ca.patch, ∀ b ∈ p.bal, balancesInRange b

/-- The door flags and the paper-end state follow their sensors (R126, R106). -/
def SensorsFollowed (s : State) : Prop :=
  (∀ i : Fin 32, s.su.bins[i].doorOpen = s.pins.doors[i]) ∧ s.wt.paperEnd = s.pins.paperEnd

/-- No event leaves work owed (log 7, log 8). -/
def NothingOwed (s : State) : Prop := s.work = {}

/-- The machine states a step can lead to from each (R162, The transitions). -/
def reachableStates : MachineState → List MachineState
  | .cleared => [.cleared, .ready]
  | .ready => [.ready, .running, .pausing, .paused, .faulted, .cleared]
  | .running => [.running, .pausing, .paused, .faulted, .cleared]
  | .pausing => [.pausing, .paused, .faulted, .cleared]
  | .paused => [.paused, .ready, .running, .pausing, .faulted, .cleared]
  | .faulted => [.faulted, .paused, .cleared]

end Sys2Proof.Machine
end

