-- ==== Sys2Proof/Certificates/Slice0/Obligations.lean ====
section
/-! DEFINITION. What is claimed of the part: one proposition for each obligation. -/

open Sys2Proof Sys2Proof.Machine

/-! ## The whole part -/

/-- A step carries out the command at the front of the queue with the queue's rest. That the part idles when none waits
is the model's choice (log 1). -/
def Obligations.StepTakesFrontCommand : Prop :=
  ∀ (s : State) (c : Instr) (rest : List Instr),
    step { s with pending := c :: rest } = exec c { s with pending := rest } ∧
      step { s with pending := [] } = .next { s with pending := [] }

/-- Only LINE_CLOCK_TICK and chip clear move the line clock (R175), and no command touches the commands that wait.
The positions and the paper-used count move by the feed steps and chip clear alone (R94, R105), the configuration,
the enables and the balances by the commands that install them alone (R58, R80, R180), and the pins by their sensors
alone. -/
def Obligations.WhatMovesWhat : Prop :=
  (∀ (c : Instr) (s t : State), exec c s = .next t →
    t.pending = s.pending ∧
      t.cu.lineClock =
        (match c with
          | .clear _ | .powerUp => 0
          | .lineClockTick => s.cu.lineClock + 1
          | _ => s.cu.lineClock)) ∧
  (∀ (c : Instr) (s t : State), exec c s = .next t → (∀ v, c ≠ .clear v) → c ≠ .powerUp →
    (t.wt.x = s.wt.x ∧ t.wt.paperUsed = s.wt.paperUsed ∧ t.wt.waste = s.wt.waste ∨
      c = .exposureFeedStep ∧ t.wt.x = s.wt.x + 1 ∧ t.wt.paperUsed = s.wt.paperUsed + 1) ∧
    (t.wt.y = s.wt.y ∨ c = .processFeedStep ∧ t.wt.y = s.wt.y + 1) ∧
    (t.conf = s.conf ∧ t.cu.enables = s.cu.enables ∨ c = .configureComplete) ∧
    (t.ca.bal = s.ca.bal ∧ t.ca.thetaCal = s.ca.thetaCal ∨ c = .configureComplete ∨
      ∃ r g b, c = .densitometerReading r g b) ∧
    (t.pins = s.pins ∨ (∃ i, c = .doorOpen i ∨ c = .doorClose i) ∨
      ∃ v, c = .paperEnd v ∨ c = .lineStopInput v ∨ c = .webJamSensor v ∨ c = .conveyorJamSensor v))

/-- A command or event leads from each machine state only to the states that the transitions of R162 lead to. The premise
keeps the paper-out request to RUNNING, where R161 has it; ControlStaysConsistent states that every step keeps it. -/
def Obligations.MachineStateTransitions : Prop :=
  ∀ (c : Instr) (s t : State), ControlConsistent s → exec c s = .next t → t.mc.state ∈ reachableStates s.mc.state

/-! ## The command cell -/

/-- A command posted to an idle cell is taken with the operands it was posted with, handed to its owner, and answered in
the event that takes it unless a record is to be read (R176, R177, R178).
The state a posted command is taken in: the cell shows the command and its operands, the pending flag is clear, a
class whose slot does not read 0 is as it was, and nothing else has changed but freed notice slots (R176, R183). -/
def Obligations.PostedCommandTaken : Prop :=
  (∀ s : State, StoreCanonical s → s.cu.job = none →
    (∀ a, exec (.configure a) s = .next (settle (answered .configure (takeConfigure a (offered1 .configure a s))))) ∧
    exec .start s = .next (settle (answered .start (takeStart (offered0 .start s)))) ∧
    exec .pause s = .next (settle (answered .pause (takePause (offered0 .pause s)))) ∧
    exec .clearFault s = .next (settle (answered .clearFault (takeClearFault (offered0 .clearFault s)))) ∧
    (∀ q a, exec (.initiate q a) s =
      .next (settle (answered .initiate (takeInitiate q a (offered2 .initiate q a s))))) ∧
    (∀ q, exec (.resume q) s = .next (settle (answered .resume (takeResume q (offered1 .resume q s))))) ∧
    (∀ q, exec (.releaseQueue q) s =
      .next (settle (answered .releaseQueue (takeReleaseQueue q (offered1 .releaseQueue q s))))) ∧
    (∀ n f, exec (.withdraw n f) s =
      .next (settle (answered .withdraw (takeWithdraw n f (offered2 .withdraw n f s))))) ∧
    (∀ m, exec (.setLanes m) s = .next (settle (answered .setLanes (takeSetLanes m (offered1 .setLanes m s))))) ∧
    exec .recalibrate s = .next (settle (answered .recalibrate (takeRecalibrate (offered0 .recalibrate s)))) ∧
    (∀ a, exec (.loadPrices a) s =
      .next (settle (answered .loadPrices (takeLoadPrices a (offered1 .loadPrices a s))))) ∧
    (∀ b, exec (.releaseBin b) s =
      .next (settle (answered .releaseBin (takeReleaseBin b (offered1 .releaseBin b s))))) ∧
    exec .sectionResetExposure s =
      .next (settle (answered .sectionReset (takeSectionReset 1 (offered1 .sectionReset 1 s)))) ∧
    exec .sectionResetCutter s =
      .next (settle (answered .sectionReset (takeSectionReset 2 (offered1 .sectionReset 2 s)))) ∧
    exec .sectionResetSorter s =
      .next (settle (answered .sectionReset (takeSectionReset 3 (offered1 .sectionReset 3 s))))) ∧
  (∀ (c : Command) (w v : Word) (s : State), StoreCanonical s →
    (let u := offered2 c w v s;
      onlyAttended s u ∧ u.cu.attnPending = false ∧ cellPosted u.store = true ∧ cellCode u.store = c.code ∧
        cellWord1 u.store = w ∧ cellWord2 u.store = v ∧
        ∀ k : NoticeClass, Memory.read32 s.store k.slotAddr ≠ 0 → u.cu.classes.get k = s.cu.classes.get k) ∧
    (let u := offered1 c w s;
      onlyAttended s u ∧ u.cu.attnPending = false ∧ cellPosted u.store = true ∧ cellCode u.store = c.code ∧
        cellWord1 u.store = w ∧
        ∀ k : NoticeClass, Memory.read32 s.store k.slotAddr ≠ 0 → u.cu.classes.get k = s.cu.classes.get k) ∧
    (let u := offered0 c s;
      onlyAttended s u ∧ u.cu.attnPending = false ∧ cellPosted u.store = true ∧ cellCode u.store = c.code ∧
        ∀ k : NoticeClass, Memory.read32 s.store k.slotAddr ≠ 0 → u.cu.classes.get k = s.cu.classes.get k))

/-- While a record is being read, a command posted to the cell is not taken: its attention merges into the pending flag
and has the notice slots read, and nothing else happens (R176, R178).
The completion of a command writes the reply word and then TAKEN with the code, frees the cell, and changes nothing
else but what the event owes at its end (R178). -/
def Obligations.CellAnswersOrWaits : Prop :=
  (∀ (i : Instr) (c : Command) (j : Job) (s : State), StoreCanonical s → s.cu.job = some j → postedBy i = some c →
    ∃ t, exec i s = .next t ∧ t.cu.attnPending = true ∧ onlyAttended s { t with ee := s.ee } ∧ t.ee = (startReads s).ee) ∧
  (∀ (c : Command) (rc : ReplyCode) (data : Nat) (u : State), StoreCanonical u → data < 65536 →
    u.cu.attnPending = false → u.work = {} →
    let t := replied c rc data u
    answeredWith c.code rc data t ∧ storeKept inCell u t ∧
      t = { u with
        cu := { u.cu with job := none }, store := t.store, ee := (startReads u).ee })

/-- ATTN, with the host's stores that ride on it: that they do, and that the row is refused for a store outside the memory
window, is the model's choice (log 3, and NOTES.md under Stops). At an idle cell not marked POSTED the cell is left
as the host wrote it and no reply is written (R176); a POSTED code that names no command is answered UNKNOWN_COMMAND with
data 0 (R177); at a busy cell the attention waits (R178). -/
def Obligations.AttentionAtTheCell : Prop :=
  ∀ (v : Word) (ws : List HostWrite) (s : State), StoreCanonical s →
    ((∃ w ∈ ws, Config.storeBytes ≤ w.addr) → exec (.attn v ws) s = .refused .hostWriteOutsideStore) ∧
    ((∀ w ∈ ws, w.addr < Config.storeBytes) →
      let u : State := attended { s with store := Memory.hostWrites s.store ws, work := {} }
      (∀ j, s.cu.job = some j →
        exec (.attn v ws) s = .next (settle { u with cu := { u.cu with attnPending := true } })) ∧
      (s.cu.job = none → Memory.read8 u.store 0 % 4 ≠ 1 → exec (.attn v ws) s = .next (settle u)) ∧
      (s.cu.job = none → Memory.read8 u.store 0 % 4 = 1 →
        (Memory.read8 u.store 1 = 0 ∨ 13 < Memory.read8 u.store 1) →
        exec (.attn v ws) s = .next (settle (complete (Memory.read8 u.store 1) .unknownCommand 0 u))) ∧
      ∀ c : Command, s.cu.job = none → Memory.read8 u.store 0 % 4 = 1 → Memory.read8 u.store 1 = c.code →
        exec (.attn v ws) s =
          .next (settle (answered c (runCommand c (Memory.readWord u.store 4) (Memory.readWord u.store 8) u))))

/-! ## Notices -/

/-- A notice raised: merged with one alike, else posted in a free slot, else held, else marked on the newest held
notice; a notice posted is written into its slot, and the line is judged (R181, R182, R184).
The reading of one class's slot at an attention: a slot that reads 0 takes the oldest held notice, or is taken to be
free; a slot that reads anything else, or a class taken to be free, is left as it is (R183). -/
def Obligations.NoticesRaisedAndFreed : Prop :=
  (∀ (c : Cause) (w : Word) (s : State), StoreCanonical s →
    let k := s.cu.classes.get c.cls
    let n : Notice := { cause := c, subject := w, stamp := s.cu.lineClock }
    let t := post c w s
    ((∃ m ∈ k.posted.toList ++ k.held, m.cause = c ∧ m.subject = w) → t = s) ∧
    ((∀ m ∈ k.posted.toList ++ k.held, ¬(m.cause = c ∧ m.subject = w)) →
      (k.posted = none →
        t = { s with
          cu := { s.cu with classes := s.cu.classes.set c.cls { posted := some n, held := k.held }, irq := t.cu.lineLevel }
          store := t.store } ∧
        Memory.read32 t.store c.cls.slotAddr = c.cls.code + 256 * c.code ∧
        Memory.readWord t.store (c.cls.slotAddr + 4) = w ∧ Memory.readWord t.store (c.cls.slotAddr + 8) = s.cu.lineClock ∧
        storeKept (fun a => c.cls.slotAddr ≤ a ∧ a < c.cls.slotAddr + 16) s t) ∧
      (k.posted.isSome → k.held.length < 4 →
        t = { s with cu := { s.cu with classes := s.cu.classes.set c.cls { k with held := k.held ++ [n] } } }) ∧
      (k.posted.isSome → 4 ≤ k.held.length → ∀ hs m, k.held = hs ++ [m] →
        t = { s with
          cu := { s.cu with classes := s.cu.classes.set c.cls { k with held := hs ++ [{ m with more := true }] } } }))) ∧
  (∀ (k : NoticeClass) (s : State), StoreCanonical s →
    let c := s.cu.classes.get k
    let t := freeSlot k s
    (c.posted = none → t = s) ∧ (Memory.read32 s.store k.slotAddr ≠ 0 → t = s) ∧
    (c.posted.isSome → Memory.read32 s.store k.slotAddr = 0 →
      (c.held = [] →
        t = { s with cu := { s.cu with classes := s.cu.classes.set k { posted := none, held := [] }, irq := t.cu.lineLevel } }) ∧
      ∀ n rest, c.held = n :: rest →
        t = { s with
          cu := { s.cu with classes := s.cu.classes.set k { posted := some n, held := rest }, irq := t.cu.lineLevel }
          store := t.store } ∧
        Memory.readWord t.store (k.slotAddr + 4) = n.subject ∧ Memory.readWord t.store (k.slotAddr + 8) = n.stamp ∧
        Memory.read32 t.store k.slotAddr = n.word0 ∧
        storeKept (fun a => k.slotAddr ≤ a ∧ a < k.slotAddr + 16) s t))

/-! ## The end of an event, and the blocks in the anchor area -/

/-- What an event owes at its end: a composition attempt, then the line reads that can begin, then the machine status block;
with nothing owed only line reads begin. A status block that is written carries its fields as they stand, the line clock
last (R185); a composition attempt leaves the positions, the machine state, the knife, the conveyor and the configuration as
they were (R30). That the block is written once, at the event's end and with the fields as they then stand, is the model's
reading (log 8), and that an event owes at most one attempt, made at its end, is too (log 7).
The line reads: a lane with no read in progress and one of its 16 places free begins the read of the exposing print's next
line, and with none of that left of the slot row's print, from line 0: 3 × width bytes at image address + line × stride. A
lane without such a print, with a read in progress or with a full buffer begins none, and nothing else changes (R71). -/
def Obligations.EventEnd : Prop :=
  ∀ s : State,
    (settle s).work = {} ∧
    (s.work = {} → settle s = startReads s) ∧
    (let u := if s.work.attempt then compose s else s;
      settle s = { startReads u with store := (settle s).store, work := {} } ∧
        (s.work.status = false → (settle s).store = u.store)) ∧
    (startReads s = { s with ee := { s.ee with buffers := (startReads s).ee.buffers } } ∧
      ∀ l : Lane,
        let b := s.ee.buffers.get l
        let b' := (startReads s).ee.buffers.get l
        let used := (if b.held.isSome then 1 else 0) + b.lines.length
        let exposes (p : PrintSpec) : Prop :=
          ∃ r q, s.ee.expo = some (.row r) ∧ r.prints.get l = some q ∧ q.spec = p
        let waits (p : PrintSpec) : Prop := ∃ r, s.rc.slot = some r ∧ r.prints.get l = some p
        let read (dest : ReadFor) (p : PrintSpec) (k : Nat) : LineRead :=
          { dest := dest, line := k, addr := p.image + k * p.stride, len := 3 * p.width }
        (b.reading.isSome ∨ 16 ≤ used → b' = b) ∧
        (b.reading = none → used < 16 →
          (∀ p, exposes p → b.nextExp < p.height →
            b' = { b with reading := some (read .exposing p b.nextExp), nextExp := b.nextExp + 1 }) ∧
          ((∀ p, exposes p → p.height ≤ b.nextExp) →
            (∀ p, waits p → b.nextSlot < p.height →
              b' = { b with reading := some (read .slot p b.nextSlot), nextSlot := b.nextSlot + 1 }) ∧
            ((∀ p, waits p → p.height ≤ b.nextSlot) → b' = b)))) ∧
    (let t := settle s;
      lineKept s t ∧ t.mc = s.mc ∧ t.ca = s.ca ∧ t.ct = s.ct ∧ t.su.conveyor = s.su.conveyor ∧
        t.su.awaiting = s.su.awaiting ∧ t.su.late = s.su.late ∧ t.rc.mask = s.rc.mask ∧ t.rc.hot = s.rc.hot ∧
        t.rc.firstCal = s.rc.firstCal ∧ t.ee.expo = s.ee.expo ∧ t.ee.continuity = s.ee.continuity) ∧
    (StoreCanonical s → s.work.status = true →
      let t := settle s
      let m := t.store
      Memory.read8 m 0x200 = t.mc.state.code ∧ Memory.read8 m 0x201 = t.mc.faultCause.code ∧
        Memory.read8 m 0x202 = t.mc.pauseCause.code ∧ Memory.read8 m 0x203 = t.ca.state.code ∧
        Memory.readWord m 0x204 = t.wt.x ∧ Memory.readWord m 0x208 = t.wt.y ∧ Memory.readWord m 0x20C = t.wt.x - t.wt.y ∧
        Memory.read16 m 0x210 = t.ee.sample % 65536 ∧ Memory.read8 m 0x212 = t.ee.maskInForce.code ∧
        Memory.read8 m 0x213 = t.rc.mask.code ∧
        (∀ b, t.ca.bal = some b → Memory.read16 m 0x214 = b.red % 65536 ∧ Memory.read16 m 0x216 = b.green % 65536 ∧
          Memory.read16 m 0x218 = b.blue % 65536) ∧
        Memory.read8 m 0x21A = openCount t ∧ Memory.read8 m 0x21B = t.wt.track.length % 256 ∧
        Memory.readWord m 0x21C = t.wt.paperUsed ∧ Memory.readWord m 0x220 = t.wt.waste ∧
        Memory.readWord m 0x224 = currentGen t ∧ Memory.readWord m 0x228 = heldGen t ∧
        Memory.readWord m 0x22C = t.cu.lineClock)

/-- A queue context changed: the control block carries its five fields, and nothing else changes (R3).
After a take the link word of the record taken decides the queue's state: PARKED at a zero link with QUEUE_PARKED
posted, ACTIVE at a valid link, HALTED at another with QUEUE_HALTED posted; the count of the take goes with it (R9, R5). -/
def Obligations.QueuesMoveOn : Prop :=
  (∀ (q : QueueId) (c : QueueCtx) (s : State), StoreCanonical s →
    let t := setQueue q c s
    t = { s with om := { s.om with queues := s.om.queues.set q c }, store := t.store } ∧
      storeKept (inControlBlock q) s t ∧
      Memory.read8 t.store q.blockAddr = c.state.code ∧ Memory.read8 t.store (q.blockAddr + 1) = c.halt.code ∧
      Memory.readWord t.store (q.blockAddr + 4) = c.next ∧ Memory.readWord t.store (q.blockAddr + 8) = c.tail ∧
      Memory.readWord t.store (q.blockAddr + 12) = c.taken) ∧
  (∀ (Q : QueueId) (a : Word) (s : State),
    let c := s.om.queues.get Q
    let link := Memory.readWord s.store a.toNat
    let number := BitVec.ofNat 32 Q.index
    (link = 0 → followLink Q a s = post .queueParked number
      (setQueue Q { c with state := .parked, tail := a, next := 0, taken := c.taken + 1 } s)) ∧
    (link ≠ 0 → validAddress link → followLink Q a s =
      setQueue Q { c with state := .active, next := link, taken := c.taken + 1 } s) ∧
    (link ≠ 0 → ¬validAddress link → followLink Q a s = post .queueHalted number
      (setQueue Q { c with state := .halted, halt := .badLink, next := link, tail := a, taken := c.taken + 1 } s)))

/-! ## The register window and Machine Control -/

/-- Any write to CLEAR, and power-up, return every block to its chip-clear values and write nothing into the store; the
paper-end state and the door flags are read from their sensors (R173). A write to SUMMARY or to an offset without a
register is ignored, and a read of the register window returns the fields of SUMMARY, or 0 at ATTN, at CLEAR and at an
offset without a register, and changes nothing, being no command but a function of the state (R174). That
power-up leaves the store as it stands, and that the late expiries are then 0, are the model's choices (logs 16 and 38).
The line clock rises by one each millisecond, wraps, and nothing else changes but line reads that begin (R175). -/
def Obligations.ChipClearAndLineClock : Prop :=
  (∀ (v o : Word) (s : State),
    (let t : State := { State.reset with
        store := s.store, pins := s.pins, pending := s.pending
        wt := { paperEnd := s.pins.paperEnd }
        su := { bins := Vector.ofFn fun i => { doorOpen := s.pins.doors[i] } } };
      exec (.clear v) s = .next t ∧ exec .powerUp s = .next t ∧ t.summary = 0 ∧ t.mc.state = .cleared ∧
        t.cu.lineClock = 0 ∧ t.wt.x = 0 ∧ t.wt.y = 0 ∧ t.conf = none ∧ t.ca.state = .valid ∧ t.ca.bal = none ∧
        t.pu.counter = 1) ∧
    exec (.registerWriteIgnored o v) s = .next s ∧
    s.readRegister .attn = 0 ∧ s.readRegister .clear = 0 ∧ s.readRegister .none = 0 ∧
    let r := s.readRegister .summary
    r.toNat % 16 = s.mc.state.code ∧ (r.getLsbD 4 = s.cu.classes.a.posted.isSome) ∧
      (r.getLsbD 5 = s.cu.classes.b.posted.isSome) ∧ (r.getLsbD 6 = s.cu.classes.c.posted.isSome) ∧
      r.getLsbD 8 = s.cu.irq ∧ r.getLsbD 9 = s.cu.attnPending ∧ r.getLsbD 10 = s.cu.job.isSome) ∧
  (∀ s : State,
    exec .lineClockTick s =
      .next (settle { s with cu := { s.cu with lineClock := s.cu.lineClock + 1 }, work := {} }) ∧
    (s.cu.lineClock = 4294967295 → ∃ t, exec .lineClockTick s = .next t ∧ t.cu.lineClock = 0))

/-- START is refused outside READY and PAUSED. Taken with no fault condition present and paper in hand, the machine is
RUNNING; from READY the first-calibration hold is set, the continuity mark cleared and calibration triggered, from PAUSED
all three stay (R164, R82). With the paper ended it passes on to PAUSING or PAUSED with cause PAPER_OUT (R106, R166); with
a condition present it is FAULTED (R168). That the condition judged first gives the cause is the model's order (log 15). -/
def Obligations.StartBeginsOrResumesRun : Prop :=
  ∀ s : State, StoreCanonical s → s.cu.job = none →
    (s.mc.state ≠ .ready → s.mc.state ≠ .paused →
      exec .start s = .next (replied .start .illegalState 0 (offered0 .start s))) ∧
    (s.mc.state = .ready ∨ s.mc.state = .paused →
      ∃ t, exec .start s = .next t ∧ answeredWith 2 .done 0 t ∧ lineKept s t ∧
        t.ct.misses = s.ct.misses ∧ t.rc.mask = s.rc.mask ∧ t.rc.hot = s.rc.hot ∧ t.ca.bal = s.ca.bal ∧
        Memory.read8 t.store 0x200 = t.mc.state.code ∧
        (s.mc.state = .ready → t.rc.firstCal = true) ∧ (s.mc.state = .paused → t.rc.firstCal = s.rc.firstCal) ∧
        (noCondition s → s.wt.paperEnd = false →
          t.mc = { s.mc with state := .running, pauseCause := .noPause } ∧ t.ct = s.ct ∧
            t.su.conveyor = s.su.conveyor ∧
            (s.mc.state = .paused → t.ca = s.ca ∧ t.ee.continuity = s.ee.continuity) ∧
            (s.mc.state = .ready → t.ee.continuity = false ∧
              (s.ca.state = .valid → t.ca = { s.ca with state := .due }) ∧
              (s.ca.state = .stale → t.ca = { s.ca with state := .due, invalid := 0 }) ∧
              (s.ca.state = .due ∨ s.ca.state = .inFlight → t.ca = s.ca))) ∧
        (noCondition s → s.wt.paperEnd = true → s.ee.expo = none →
          (t.mc.state = .pausing ∨ t.mc.state = .paused) ∧ t.mc.pauseCause = .paperOut) ∧
        (¬noCondition s → t.mc.state = .faulted ∧ present s t.mc.faultCause = true ∧ t.mc.pauseCause = .noPause))

/-- PAUSE is refused outside RUNNING. In RUNNING the machine becomes PAUSING with cause HOST and a pending paper-out request
is cleared (R165); with the drain already complete and no fault condition present it passes on to PAUSED (R167).
In PAUSING with no row exposing, no PRINT or CALIB entry and an empty conveyor queue, the machine becomes PAUSED: the
cause is PAPER_OUT when the paper has ended, else as it was; the BLANK entries go, the continuity mark is cleared for
PAPER_OUT alone, PAUSED is posted and the status block written (R167, R110, R70). Otherwise the drain is not complete. -/
def Obligations.PauseDrainsToPaused : Prop :=
  (∀ s : State, StoreCanonical s → s.cu.job = none →
    let u := offered0 .pause s
    (s.mc.state ≠ .running → exec .pause s = .next (replied .pause .illegalState 0 u)) ∧
    (s.mc.state = .running → drained s = false →
      exec .pause s = .next (replied .pause .done 0
        { u with mc := { s.mc with state := .pausing, pauseCause := .host, paperOutReq := false }
                 work := { status := true } })) ∧
    (s.mc.state = .running → drained s = true → noCondition s →
      ∃ t, exec .pause s = .next t ∧ answeredWith 3 .done 0 t ∧
        t.mc = { s.mc with
          state := .paused, pauseCause := if s.wt.paperEnd then .paperOut else .host, paperOutReq := false } ∧
        t.wt.track = [] ∧ lineKept s t ∧ Memory.read8 t.store 0x200 = 4)) ∧
  (∀ s : State,
    (s.mc.state = .pausing → s.ee.expo = none → (∀ e ∈ s.wt.track, e.kind = .blank) → s.su.conveyor = [] →
      noCondition s → StoreCanonical s →
      let cause : PauseCause := if s.wt.paperEnd then .paperOut else s.mc.pauseCause
      ∃ t, exec .drainComplete s = .next t ∧ t.mc = { s.mc with state := .paused, pauseCause := cause } ∧
        t.wt.track = [] ∧ t.ee.continuity = (s.ee.continuity && decide (cause ≠ .paperOut)) ∧ t.ee.drive = [] ∧
        told .paused (BitVec.ofNat 32 cause.code) t ∧ Memory.read8 t.store 0x200 = 4 ∧
        Memory.read8 t.store 0x202 = cause.code ∧ lineKept s t ∧ t.ca = s.ca ∧ t.ee.hot = s.ee.hot) ∧
    (s.mc.state = .pausing → drained s = true → ¬noCondition s →
      ∃ t, exec .drainComplete s = .next t ∧ t.mc.state = .faulted ∧ present s t.mc.faultCause = true) ∧
    (s.mc.state ≠ .pausing ∨ s.ee.expo.isSome ∨ (∃ e ∈ s.wt.track, e.kind ≠ .blank) ∨ s.su.conveyor ≠ [] →
      exec .drainComplete s = .next s))

/-- CLEAR_FAULT is refused outside FAULTED. In FAULTED it is answered CONDITION_PRESENT with the first present cause and
changes nothing; with none present the machine becomes PAUSED with cause FAULT_CLEARED, the conveyor stop is cleared, and a
conveyor that stood starts, its late expiries counted afresh (R171, R142). -/
def Obligations.ClearFaultLeavesFaulted : Prop :=
  ∀ s : State, StoreCanonical s → s.cu.job = none →
    let u := offered0 .clearFault s
    (s.mc.state ≠ .faulted → exec .clearFault s = .next (replied .clearFault .illegalState 0 u)) ∧
    (s.mc.state = .faulted → s.pins.lineStop = true →
      exec .clearFault s = .next (replied .clearFault .conditionPresent 1 u)) ∧
    (s.mc.state = .faulted → s.pins.lineStop = false → s.pins.webJam = true →
      exec .clearFault s = .next (replied .clearFault .conditionPresent 2 u)) ∧
    (s.mc.state = .faulted → s.pins.lineStop = false → s.pins.webJam = false → s.pins.convJam = true →
      exec .clearFault s = .next (replied .clearFault .conditionPresent 3 u)) ∧
    (s.mc.state = .faulted → s.pins.lineStop = false → s.pins.webJam = false → s.pins.convJam = false →
      s.ct.misses = 2 → exec .clearFault s = .next (replied .clearFault .conditionPresent 4 u)) ∧
    (s.mc.state = .faulted → s.pins.lineStop = false → s.pins.webJam = false → s.pins.convJam = false →
      s.ct.misses ≠ 2 →
      let mc : McState :=
        { s.mc with state := .paused, faultCause := .noFault, pauseCause := .faultCleared, convStop := false }
      (s.mc.convStop = false →
        exec .clearFault s = .next (replied .clearFault .done 0 { u with mc := mc, work := { status := true } })) ∧
      ∃ t, exec .clearFault s = .next t ∧ answeredWith 4 .done 0 t ∧ t.mc = mc ∧ t.wt = s.wt ∧ t.ct = s.ct ∧
        t.su.bins = s.su.bins ∧ t.om = s.om ∧ t.rc = s.rc ∧ t.ca = s.ca ∧ lineKept s t ∧
        ∀ d : Fin 34, t.su.late[d] =
          if s.mc.convStop ∧ s.su.late[d].count ≠ 0 then
            { count := min 8 s.su.late[d].count, expiry := s.cu.lineClock + lines s.cfg.confirmLimit }
          else s.su.late[d])

/-- PAPER_END: the paper-end state follows the sensor. A change to END asks for a pause in RUNNING alone: with a row
exposing the request becomes pending, else the machine becomes PAUSING with cause PAPER_OUT, or PAUSED when the drain is
already complete (R106, R166, R167). -/
def Obligations.PaperEndAsksForPause : Prop :=
  ∀ s : State,
    let s' : State := { s with pins := { s.pins with paperEnd := true }, wt := { s.wt with paperEnd := true }, work := {} }
    (s.pins.paperEnd = true → exec (.paperEnd false) s =
      .next (settle { s with
        pins := { s.pins with paperEnd := false }, wt := { s.wt with paperEnd := false }, work := {} })) ∧
    (s.pins.paperEnd = false →
      (s.mc.state ≠ .running → exec (.paperEnd true) s = .next (settle s')) ∧
      (s.mc.state = .running → s.ee.expo.isSome →
        exec (.paperEnd true) s = .next (settle { s' with mc := { s.mc with paperOutReq := true } })) ∧
      (s.mc.state = .running → s.ee.expo = none → drained s = false →
        exec (.paperEnd true) s = .next (settle { s' with
          mc := { s.mc with state := .pausing, pauseCause := .paperOut, paperOutReq := false }
          work := { status := true } })) ∧
      (s.mc.state = .running → s.ee.expo = none → drained s = true → noCondition s →
        ∃ t, exec (.paperEnd true) s = .next t ∧ t.wt.track = [] ∧ t.ee.continuity = false ∧ t.wt.paperEnd = true ∧
          t.mc = { s.mc with state := .paused, pauseCause := .paperOut, paperOutReq := false }))

/-- A fault condition that a sensor reports in RUNNING, PAUSING or PAUSED brings the machine to FAULTED with its cause: the
head stops and its buffers empty, what exposes or is in the drum is lost and reported, with a stopped conveyor what is cut
too, each destination's late count rising by the pieces it loses, and then the slot row is returned; the rest of the track
stays as it was, FAULT is posted and the status block written (R168, R169, R107, R108, R142, R77). EntriesRemoved says what
the loss of an entry reports. That the losses are taken before the return is the model's order (log 30), and that a
destination which loses nothing keeps its late expiry is its choice (log 13).
The return of a slot row: its entries leave the track and the slot is empty; of the prints not WITHDRAWN those of attempt 1
go back to their orders, each order's cursor to the earliest copy returned and its composed count down by their number, a
COMPOSED order OPEN again; remakes go to the front of the remake list, lane A's first (R44, R17). -/
def Obligations.FaultEntered : Prop :=
  (∀ (s : State) (c : FaultCause) (i : Instr), StoreCanonical s →
    (c = .coverOpen ∧ i = .lineStopInput true ∧ s.pins.lineStop = false ∨
      c = .jamWeb ∧ i = .webJamSensor true ∧ s.pins.webJam = false ∨
      c = .jamConveyor ∧ i = .conveyorJamSensor true ∧ s.pins.convJam = false) →
    (s.mc.state = .running ∨ s.mc.state = .pausing ∨ s.mc.state = .paused) →
    let stops : Bool := decide (c = .coverOpen ∨ c = .jamConveyor)
    let lost (e : Entry) : Bool :=
      decide (e.stage = .exposing ∨ e.stage = .processing) || (stops && decide (e.stage = .cut ∨ e.stage = .conveyor))
    let conveyed (d : Fin 34) : Nat := (s.su.conveyor.filter fun x => decide (x.dest = d)).length
    let halted : State := { s with
      pins :=
        { s.pins with
          lineStop := s.pins.lineStop || decide (c = .coverOpen), webJam := s.pins.webJam || decide (c = .jamWeb)
          convJam := s.pins.convJam || decide (c = .jamConveyor) }
      mc :=
        { state := .faulted, faultCause := c, pauseCause := .noPause, paperOutReq := false
          convStop := s.mc.convStop || stops }
      ee :=
        { s.ee with
          expo := none, continuity := false, drive := []
          buffers := ⟨s.ee.buffers.a.emptied, s.ee.buffers.b.emptied⟩ }
      work := {} }
    ∃ t, exec i s = .next t ∧
      t.mc = halted.mc ∧ t.ee.expo = none ∧ t.ee.continuity = false ∧ t.ee.drive = [] ∧ t.rc.slot = none ∧
      t.ee.buffers = halted.ee.buffers ∧
      (∀ e ∈ t.wt.track, e ∈ s.wt.track ∧ lost e = false) ∧
      (∀ e ∈ s.wt.track, e.x0.isSome → (∀ f ∈ s.wt.track, f.key = e.key → lost f = false) → e ∈ t.wt.track) ∧
      (∀ e ∈ t.wt.track, e.key ≠ ⟨none, .a, .blank⟩ ∧ ∀ r l, s.rc.slot = some r → e.key ≠ ⟨none, l, r.kind⟩) ∧
      ((∀ x ∈ s.su.conveyor, x.piece ≠ ⟨none, .a, .blank⟩) → ∀ d : Fin 34, t.su.late[d].count =
        if stops = true ∧ conveyed d ≠ 0 then min 8 (s.su.late[d].count + conveyed d) else s.su.late[d].count) ∧
      told .fault (BitVec.ofNat 32 c.code) t ∧ Memory.read8 t.store 0x200 = 5 ∧ Memory.read8 t.store 0x201 = c.code ∧
      t.wt.x = s.wt.x ∧ t.wt.y = s.wt.y ∧ t.wt.paperUsed = s.wt.paperUsed ∧ t.wt.waste = s.wt.waste ∧ t.conf = s.conf ∧
      t.ca.bal = s.ca.bal ∧ t.ca.invalid = s.ca.invalid ∧ t.rc.mask = s.rc.mask ∧ t.rc.hot = s.rc.hot ∧
      t.om.queues = s.om.queues ∧ t.om.deferred = s.om.deferred ∧ t.ct.misses = s.ct.misses ∧
      ((∀ e ∈ s.wt.track, e.key ≠ ⟨none, .a, .blank⟩) →
        let late (d : Fin 34) : Late :=
          if stops = true ∧ conveyed d ≠ 0 then
            { count := min 8 (s.su.late[d].count + conveyed d), expiry := s.cu.lineClock + lines s.cfg.confirmLimit }
          else s.su.late[d]
        t = settle (askStatus (post .fault (BitVec.ofNat 32 c.code) (returnSlot
          (loseWhere .lost lost { halted with su := { s.su with late := Vector.ofFn late } })))))) ∧
  (∀ (s : State) (r : SlotRow), s.rc.slot = some r →
    let gone (l : Lane) : Prop := ∃ e, findEntry s ⟨none, l, r.kind⟩ = some e ∧ e.flags.withdrawn = true
    let t := returnSlot s
    t.rc.slot = none ∧
    t.wt = { s.wt with
      track := s.wt.track.filter fun e =>
        !decide (e.key = ⟨none, .a, r.kind⟩ ∨ e.key = ⟨none, .b, r.kind⟩) } ∧
    ∀ backA backB : List CopyRef,
      (∀ p, r.prints.a = some p → ¬gone .a → backA = [p.ref]) → (r.prints.a = none ∨ gone .a → backA = []) →
      (∀ p, r.prints.b = some p → ¬gone .b → backB = [p.ref]) → (r.prints.b = none ∨ gone .b → backB = []) →
      t.rc.remakes = (backA ++ backB).filter (fun x => decide (2 ≤ x.attempt)) ++ s.rc.remakes ∧
      (∀ (i : Fin 8) (o : OpenOrder), s.om.table[i] = some o → (o.phase = .opened ∨ o.phase = .composed) →
        o.good + o.failed + o.dropped ≠ o.nPrints →
        let mine := (backA ++ backB).filter fun x =>
          decide (x.attempt < 2) && decide (x.slot = i) && decide (x.number = o.number)
        let earlier (c : Option Cursor) (x : CopyRef) : Option Cursor :=
          match c with
          | some c => if c.item < x.item ∨ c.item = x.item ∧ c.copy < x.copy then some c else some ⟨x.item, x.copy⟩
          | none => some ⟨x.item, x.copy⟩
        t.om.table[i] = some { o with
          cursor := mine.foldl earlier o.cursor
          composed := o.composed - mine.length
          phase := if mine = [] then o.phase else .opened }) ∧
      t.ee = s.ee ∧ t.ca = s.ca ∧ t.mc = s.mc ∧ lineKept s t ∧ t.om.queues = s.om.queues ∧ t.su.late = s.su.late) ∧
  (∀ (x : CopyRef) (s : State),
    (orderIn s x.slot x.number = none → returnCopy x s = s) ∧
    ∀ o, orderIn s x.slot x.number = some o →
      ∃ c, returnCopy x s = askAttempt (putOrder x.slot
          { o with
            cursor := some c, composed := o.composed - 1
            phase := if o.phase = .composed then .opened else o.phase } s) ∧
        (o.cursor = none → c = ⟨x.item, x.copy⟩) ∧
        ∀ d, o.cursor = some d →
          (d.item < x.item ∨ d.item = x.item ∧ d.copy < x.copy → c = d) ∧
          (¬(d.item < x.item ∨ d.item = x.item ∧ d.copy < x.copy) → c = ⟨x.item, x.copy⟩))

/-- The sensors of the fault conditions elsewhere: in CLEARED and READY, and when a condition goes away, only the pin
changes (R168); in FAULTED a web jam changes nothing more, a conveyor jam nothing with the conveyor stopped, and an opened
cover posts FAULT with subject COVER_OPEN. The stop of a conveyor that ran, the cause staying, sets the stop, raises each
destination's late count by the pieces it loses, and loses what is in CUT and CONVEYOR with its reports, as EntriesRemoved
says; entries in other stages stay (R170, R109, R142). That a destination which loses nothing keeps its late expiry is the
model's choice (log 13). -/
def Obligations.SensorsOutsideRun : Prop :=
  ∀ s : State,
    let pin (p : Pins) : State := { s with pins := p, work := {} }
    let lost (e : Entry) : Bool := decide (e.stage = .cut ∨ e.stage = .conveyor)
    let conveyed (d : Fin 34) : Nat := (s.su.conveyor.filter fun x => decide (x.dest = d)).length
    let late (d : Fin 34) : Late :=
      if conveyed d = 0 then s.su.late[d]
      else { count := min 8 (s.su.late[d].count + conveyed d), expiry := s.cu.lineClock + lines s.cfg.confirmLimit }
    let stopped (p : Pins) : State := loseWhere .lost lost { pin p with
      mc := { s.mc with convStop := true }, su := { s.su with late := Vector.ofFn late } }
    let onlyLost (t : State) : Prop :=
      t.mc = { s.mc with convStop := true } ∧ (∀ d : Fin 34, t.su.late[d] = late d) ∧ t.ct.misses = s.ct.misses ∧
        (∀ e ∈ t.wt.track, e ∈ s.wt.track ∧ lost e = false) ∧
        ∀ e ∈ s.wt.track, (∀ f ∈ s.wt.track, f.key = e.key → lost f = false) → e ∈ t.wt.track
    (s.pins.lineStop = true → exec (.lineStopInput false) s = .next (settle (pin { s.pins with lineStop := false }))) ∧
    (s.pins.webJam = true → exec (.webJamSensor false) s = .next (settle (pin { s.pins with webJam := false }))) ∧
    (s.pins.convJam = true → exec (.conveyorJamSensor false) s = .next (settle (pin { s.pins with convJam := false }))) ∧
    (s.mc.state = .cleared ∨ s.mc.state = .ready →
      (s.pins.lineStop = false → exec (.lineStopInput true) s = .next (settle (pin { s.pins with lineStop := true }))) ∧
      (s.pins.webJam = false → exec (.webJamSensor true) s = .next (settle (pin { s.pins with webJam := true }))) ∧
      (s.pins.convJam = false →
        exec (.conveyorJamSensor true) s = .next (settle (pin { s.pins with convJam := true })))) ∧
    (s.mc.state = .faulted →
      (s.pins.webJam = false → exec (.webJamSensor true) s = .next (settle (pin { s.pins with webJam := true }))) ∧
      (s.pins.convJam = false → s.mc.convStop = true →
        exec (.conveyorJamSensor true) s = .next (settle (pin { s.pins with convJam := true }))) ∧
      (s.pins.lineStop = false → s.mc.convStop = true →
        exec (.lineStopInput true) s = .next (settle (post .fault 1 (pin { s.pins with lineStop := true })))) ∧
      (s.pins.convJam = false → s.mc.convStop = false →
        ∃ t, exec (.conveyorJamSensor true) s = .next t ∧ onlyLost t ∧
          t = settle (stopped { s.pins with convJam := true })) ∧
      (s.pins.lineStop = false → s.mc.convStop = false →
        ∃ t, exec (.lineStopInput true) s = .next t ∧ onlyLost t ∧ told .fault 1 t ∧
          t = settle (post .fault 1 (stopped { s.pins with lineStop := true }))))

/-! ## Orders and queues -/

/-- INITIATE is judged in the order of R4, and carried out it makes the queue ACTIVE at the operand address. -/
def Obligations.InitiateStartsQueue : Prop :=
  ∀ (q a : Word) (s : State), StoreCanonical s → s.cu.job = none →
    let u := offered2 .initiate q a s
    (s.mc.state = .cleared → exec (.initiate q a) s = .next (replied .initiate .illegalState 0 u)) ∧
    (s.mc.state ≠ .cleared →
      (3 ≤ q.toNat → exec (.initiate q a) s = .next (replied .initiate .badOperand 0 u)) ∧
      ∀ Q : QueueId, q.toNat = Q.index →
        let c := s.om.queues.get Q
        (c.state = .active ∨ c.state = .parked ∨ c.state = .blocked →
          exec (.initiate q a) s = .next (replied .initiate .queueBusy 0 u)) ∧
        (c.state = .idle ∨ c.state = .halted →
          (¬validAddress a → exec (.initiate q a) s = .next (replied .initiate .badOperand 0 u)) ∧
          (validAddress a → exec (.initiate q a) s = .next (replied .initiate .done 0 (askAttempt
            (setQueue Q { c with state := .active, next := a, tail := 0, halt := .noHalt } u))))))

/-- RESUME is answered by the queue's state; of a PARKED queue the link of its tail record decides (R10), and a link that
fails the check halts the queue (R5). -/
def Obligations.ResumeLooksAtTail : Prop :=
  ∀ (q : Word) (s : State), StoreCanonical s → s.cu.job = none →
    let u := offered1 .resume q s
    (3 ≤ q.toNat → exec (.resume q) s = .next (replied .resume .badOperand 0 u)) ∧
    ∀ Q : QueueId, q.toNat = Q.index →
      let c := s.om.queues.get Q
      let link := Memory.readWord u.store c.tail.toNat
      (c.state = .active → exec (.resume q) s = .next (replied .resume .notParked 0 u)) ∧
      (c.state = .idle ∨ c.state = .blocked ∨ c.state = .halted →
        exec (.resume q) s = .next (replied .resume .illegalState 0 u)) ∧
      (c.state = .parked →
        (link = 0 → exec (.resume q) s = .next (replied .resume .stillEnd 0 u)) ∧
        (link ≠ 0 → validAddress link → exec (.resume q) s =
          .next (replied .resume .done 0 (askAttempt (setQueue Q { c with state := .active, next := link } u)))) ∧
        (link ≠ 0 → ¬validAddress link → exec (.resume q) s =
          .next (replied .resume .done 0 (post .queueHalted q
            (setQueue Q { c with state := .halted, halt := .badLink, next := link, tail := c.tail } u)))))

/-- RELEASE_QUEUE returns a PARKED, BLOCKED or HALTED queue to IDLE, keeping its addresses and count, and clears its level's
bin-wait mark (R12, R34). -/
def Obligations.ReleaseQueueIdles : Prop :=
  ∀ (q : Word) (s : State), StoreCanonical s → s.cu.job = none →
    let u := offered1 .releaseQueue q s
    (3 ≤ q.toNat → exec (.releaseQueue q) s = .next (replied .releaseQueue .badOperand 0 u)) ∧
    ∀ Q : QueueId, q.toNat = Q.index →
      let c := s.om.queues.get Q
      (c.state = .active ∨ c.state = .idle →
        exec (.releaseQueue q) s = .next (replied .releaseQueue .illegalState 0 u)) ∧
      (c.state = .parked ∨ c.state = .blocked ∨ c.state = .halted → exec (.releaseQueue q) s =
        .next (replied .releaseQueue .done 0
          { setQueue Q { c with state := .idle, halt := .noHalt } u with
            rc := { s.rc with binWait := s.rc.binWait.set Q false } }))

/-- WITHDRAW is judged in the order of R22. A deferred order leaves the deferred list with its record written WITHDRAWN,
unpriced, ORDER_DONE is posted, and BLOCKED queues are re-examined (R22, R13); what OrdersReexamined says of
`reexamineBlocked` is what that does. That the progress fields of its items are written as zeros, and the rest of what such a
record carries, is the model's reading (log 12).
WITHDRAW of an OPEN or COMPOSED order: the copies behind the cursor, the remakes and the live prints not yet routed are
counted dropped, those prints are flagged WITHDRAWN, the remakes leave the list, and the order is WITHDRAWING with its
charge flag; it closes at once when nothing of it is on the track (R23, R21). -/
def Obligations.WithdrawEndsOrder : Prop :=
  (∀ (n f : Word) (s : State), StoreCanonical s → s.cu.job = none →
    let u := offered2 .withdraw n f s
    (s.mc.state = .cleared → exec (.withdraw n f) s = .next (replied .withdraw .illegalState 0 u)) ∧
    (s.mc.state ≠ .cleared → f ≠ 0 → f ≠ 1 → exec (.withdraw n f) s = .next (replied .withdraw .badOperand 0 u)) ∧
    (s.mc.state ≠ .cleared → (f = 0 ∨ f = 1) →
      ((∀ (i : Fin 8) (o : OpenOrder), s.om.table[i] = some o → o.number ≠ n) →
        ((∀ d ∈ s.om.deferred, d.number ≠ n) →
          exec (.withdraw n f) s = .next (replied .withdraw .noSuchOrder 0 u)) ∧
        ∀ d, s.om.deferred.find? (fun d => decide (d.number = n)) = some d →
          exec (.withdraw n f) s = .next (replied .withdraw .done 0 (reexamineBlocked
            (let p := post .orderDone d.addr (writeRecord d.addr
                { price := { withdrawnUncharged := true }, stamp := some s.cu.lineClock, state := .withdrawn
                  reason := .noFit, items := zeroItems u.store d.addr.toNat } u);
              { p with om := { p.om with deferred := s.om.deferred.filter fun x => !decide (x = d) } })))) ∧
      ∀ (i : Fin 8) (o : OpenOrder) (ch : Bool), slotOfNumber s n = some i → s.om.table[i] = some o →
        o.phase = .withdrawing ch → exec (.withdraw n f) s = .next (replied .withdraw .illegalState 0 u))) ∧
  (∀ (n f : Word) (s : State) (i : Fin 8) (o : OpenOrder), StoreCanonical s → s.cu.job = none →
    s.mc.state ≠ .cleared → (f = 0 ∨ f = 1) → slotOfNumber s n = some i → s.om.table[i] = some o →
    (o.phase = .opened ∨ o.phase = .composed) →
    let u := offered2 .withdraw n f s
    let flagged (e : Entry) : Bool :=
      decide (e.kind = .print) && !e.flags.reject && !e.flags.lost && !e.flags.withdrawn && !decide (e.stage = .conveyor)
        && e.ref.any fun r => decide (r.slot = i) && decide (r.number = n)
    let mine (r : CopyRef) : Bool := decide (r.slot = i) && decide (r.number = n)
    let o' : OpenOrder :=
      { o with
        dropped := o.dropped + uncomposed u.store o + (s.rc.remakes.filter mine).length
          + (s.wt.track.filter flagged).length
        cursor := none, phase := .withdrawing (decide (f = 1)) }
    exec (.withdraw n f) s = .next (replied .withdraw .done 0 (judgeClose i n (putOrder i o'
      { u with
        rc := { s.rc with remakes := s.rc.remakes.filter fun r => !mine r }
        wt := { s.wt with
          track := s.wt.track.map fun e =>
            if flagged e then { e with flags := { e.flags with withdrawn := true } } else e } }))))

/-- A record is examined in the order of R7, the items in record order and the four checks of one item before the next, and
refused for the first check that fails; it passes when none does. It fits when every item's size lies within the lane width
and no more than 10 tenths below it (R8). -/
def Obligations.RecordExamined : Prop :=
  ∀ (s : State) (d : List Deferred) (a : Nat),
    let number := recNumber s.store a
    let count := recItemCount s.store a
    let listOk := 1 ≤ count ∧ count ≤ 64 ∧ a + 64 + 32 * count ≤ 268435456
    let known := (∃ (i : Fin 8) (o : OpenOrder), s.om.table[i] = some o ∧ o.number = number) ∨ ∃ x ∈ d, x.number = number
    let item (n : Nat) : ItemReq := readItem s.store a n
    let size (n : Nat) : Option SizeDef := sizeOf s.cfg (item n).size
    let qtyOk (n : Nat) : Prop := 1 ≤ (item n).qty ∧ (item n).qty ≤ 999
    let shapeOk (n : Nat) : Prop := ∀ z, size n = some z →
      (item n).width = z.width * 12 / 10 ∧ (item n).height = z.length * 12 / 10
    let imageIn (n : Nat) : Prop := (item n).image % 64 = 0 ∧ 4096 ≤ (item n).image ∧
      (item n).image + (item n).height * ((3 * (item n).width + 63) / 64 * 64) ≤ 268435456
    let itemOk (n : Nat) : Prop := (size n).isSome ∧ qtyOk n ∧ shapeOk n ∧ imageIn n
    let groups := (List.range count).map fun n => (size n).elim 0 (·.group)
    let bins := (((List.range count).map fun n => (item n).qty).sum + s.cfg.binCap - 1) / s.cfg.binCap
    let lane := match s.cfg.laneMode with
      | .oneUp => s.cfg.paperWidth
      | .twoUp => (s.cfg.paperWidth - 40) / 2
    (number = 0 → examine s d a = some .zeroNumber) ∧
    (number ≠ 0 → ¬listOk → examine s d a = some .itemCount) ∧
    (number ≠ 0 → listOk → known → examine s d a = some .duplicate) ∧
    (number ≠ 0 → listOk → ¬known →
      (∀ n < count, (∀ m < n, itemOk m) →
        (size n = none → examine s d a = some .badSize) ∧
        ((size n).isSome → ¬qtyOk n → examine s d a = some .badQty) ∧
        ((size n).isSome → qtyOk n → ¬shapeOk n → examine s d a = some .imageDimensions) ∧
        ((size n).isSome → qtyOk n → shapeOk n → ¬imageIn n → examine s d a = some .imageAddress)) ∧
      ((∀ n < count, itemOk n) →
        (8 < groups.dedup.length → examine s d a = some .tooManyKinds) ∧
        (groups.dedup.length ≤ 8 → 4 < bins → examine s d a = some .tooLarge) ∧
        (groups.dedup.length ≤ 8 → bins ≤ 4 → examine s d a = none))) ∧
    (examine s d a = none → number ≠ 0 ∧ listOk ∧ ¬known ∧ (∀ n < count, itemOk n) ∧ groups.dedup.length ≤ 8 ∧ bins ≤ 4) ∧
    (recordFits s a = true ↔ ∀ n < count, ∃ z, size n = some z ∧ z.width ≤ lane ∧ lane ≤ z.width + 10)

/-- The opening of an order takes the lowest free slot and the lowest bins that are FREE, in use and closed, all of them or
none; it raises the hold count of the current generation, the order begins at item 0, copy 1, its tally is empty with the
kinds of its items, and its record shows it OPEN (R16, R128, R150, R151). -/
def Obligations.OrderOpened : Prop :=
  ∀ (Q : QueueId) (a : Word) (s : State),
    let items := readItems s.store a.toNat
    let need := ceilDiv (items.map (·.qty)).sum s.cfg.binCap
    let free : List (Fin 32) := (List.finRange 32).filter fun b =>
      decide (b.1 < s.cfg.binCount) && decide (s.su.bins[b].state = .free) && !s.su.bins[b].doorOpen
    ((∀ i : Fin 8, s.om.table[i].isSome) → openOrder Q a s = .waitSlot) ∧
    ∀ i : Fin 8, s.om.table[i] = none → (∀ j < i, s.om.table[j].isSome) →
      (free.length < need → openOrder Q a s = .waitBins) ∧
      (need ≤ free.length → ∃ t o, openOrder Q a s = .opened i t ∧ t.om.table[i] = some o ∧
        (∀ j, j ≠ i → t.om.table[j] = s.om.table[j]) ∧ o.addr = a ∧ o.number = recNumber s.store a.toNat ∧
        o.queue = Q ∧ o.seq = s.om.seq ∧ t.om.seq = s.om.seq + 1 ∧ o.cursor = some { item := 0, copy := 1 } ∧
        o.nPrints = (items.map (·.qty)).sum ∧ o.composed = 0 ∧ o.good = 0 ∧ o.rejected = 0 ∧ o.failed = 0 ∧
        o.catchCount = 0 ∧ o.dropped = 0 ∧ o.phase = .opened ∧ o.bins = (free.take need).map (fun b => { bin := b }) ∧
        o.tier = Memory.read8 s.store (a.toNat + 10) % 4 ∧ o.promo = Memory.read16 s.store (a.toNat + 12) ∧
        o.gen = (s.pu.gens.toList.findSome? fun g => (g.filter (·.current)).map (·.number)) ∧
        (∀ (j : Fin 2) (g : GenSlot), s.pu.gens[j] = some g →
          (g.current = false → t.pu.gens[j] = some g) ∧
          (g.current = true → (∀ k < j, ∀ x, s.pu.gens[k] = some x → x.current = false) →
            t.pu.gens[j] = some { g with hold := g.hold + 1 })) ∧
        (∀ j : Fin 2, s.pu.gens[j] = none → t.pu.gens[j] = none) ∧ t.pu.counter = s.pu.counter ∧
        t.pu.orders[i] =
          { tally := []
            kinds := items.map fun x => { group := (sizeOf s.cfg x.size).elim 0 (·.group), surface := s.cfg.surface } } ∧
        (∀ j, j ≠ i → t.pu.orders[j] = s.pu.orders[j]) ∧
        t.om.queues = s.om.queues ∧ t.om.deferred = s.om.deferred ∧ t.rc = s.rc ∧ t.wt = s.wt ∧ t.cu = s.cu ∧
        (StoreCanonical s →
          let m := t.store
          let b := a.toNat
          Memory.read8 m (b + 0x34) = 2 ∧ Memory.read8 m (b + 0x35) = 0 ∧ Memory.read16 m (b + 0x10) = 0 ∧
            Memory.read16 m (b + 0x12) = 0 ∧ Memory.read16 m (b + 0x14) = 0 ∧ Memory.read16 m (b + 0x16) = 0 ∧
            Memory.read16 m (b + 0x18) = 0 ∧ Memory.read8 m (b + 0x1A) = 0 ∧ Memory.read32 m (b + 0x20) = 0 ∧
            Memory.read32 m (b + 0x24) = 0 ∧ Memory.read32 m (b + 0x28) = 0 ∧
            Memory.readWord m (b + 0x2C) = o.gen.getD 0 ∧
            (∀ j < 4, Memory.read8 m (b + 0x1C + j) = ((free.take need)[j]?).elim 255 (·.1)) ∧
            ∀ n < items.length, Memory.read16 m (b + 64 + 32 * n + 0x10) = 0 ∧
              Memory.read16 m (b + 64 + 32 * n + 0x12) = 0 ∧ Memory.read8 m (b + 64 + 32 * n + 0x14) = 0) ∧
        ∀ b : Fin 32, t.su.bins[b] =
          if b ∈ free.take need then
            { s.su.bins[b] with
              state := .reserved, owner := some { slot := i, number := recNumber s.store a.toNat }
              delivered := 0, routed := 0, countdown := none }
          else s.su.bins[b])

/-- The take of an ACTIVE queue's head: a record that fails its examination is written REFUSED and posted ORDER_REFUSED; one
that does not fit is written DEFERRED, joins the deferred list with its fits mark clear and is posted PAPER_WANTED, or, the
list full, its queue becomes BLOCKED with DEFER_FULL and nothing is taken; one that fits is opened or waits. After a refusal,
a deferral or an opening the link is followed (R6, R7, R8). What a refused or deferred record carries besides its state and
reason is log 12.
The search for a new order of a level: a fitting deferred entry comes first, else the queue is asked; a refusal or deferral
leads to the new head, a wait ends the search with the record in its place. A wait for bins sets the level's bin-wait mark
and posts NO_FREE_BIN if it was clear; every answer but a wait clears it (R33, R34). For the partner lane a deferred entry or
a head is a candidate only with item 0 of the required length, and a head that is not is left as it is (R35). The model's
choices: logs 14 and 32 for the deferred list and the queue behind it, log 33 for an item beyond the store, log 9 for the
bound on the questions. -/
def Obligations.NewOrdersSought : Prop :=
  (∀ (q : QueueId) (s : State),
    let c := s.om.queues.get q
    let a := c.next
    let written (v : State) (state reason : Nat) : Prop := StoreCanonical s →
      recordUnopened v.store a.toNat state reason ∧
        storeKept (fun x => a.toNat + 16 ≤ x ∧ x < a.toNat + 64 + 32 * 64) s v
    (∀ r, examine s s.om.deferred a.toNat = some r →
      ∃ v, takeHead q s = .passed (followLink q a (post .orderRefused a v)) ∧ v = { s with store := v.store } ∧
        written v 7 r.code) ∧
    (examine s s.om.deferred a.toNat = none → recordFits s a.toNat = false →
      (s.om.deferred.length < 8 →
        ∃ v, takeHead q s = .passed (followLink q a (post .paperWanted a v)) ∧
          v = { s with
            store := v.store
            om := { s.om with
              deferred := s.om.deferred ++
                [{ addr := a, number := Memory.readWord s.store (a.toNat + 4), queue := q, fits := false }] } } ∧
          written v 1 1) ∧
      (8 ≤ s.om.deferred.length →
        takeHead q s = .blocked (setQueue q { c with state := .blocked, halt := .deferFull } s))) ∧
    (examine s s.om.deferred a.toNat = none → recordFits s a.toNat = true →
      (∀ i t, openOrder q a s = .opened i t → takeHead q s = .opened i (followLink q a t)) ∧
      (openOrder q a s = .waitSlot → takeHead q s = .waitSlot) ∧
      (openOrder q a s = .waitBins → takeHead q s = .waitBins))) ∧
  (∀ (q : QueueId) (need : Option Nat) (s : State),
    let c := s.om.queues.get q
    let marked (v : Bool) (t : State) : State := { t with rc := { t.rc with binWait := t.rc.binWait.set q v } }
    let waited : State :=
      if s.rc.binWait.get q then s else post .noFreeBin (BitVec.ofNat 32 q.index) (marked true s)
    let long (a : Word) : Option Nat :=
      (sizeOf s.cfg (readItem s.store a.toNat 0).size).map fun z => z.length * 12 / 10
    let looks : Prop := need = none ∨
      1 ≤ recItemCount s.store c.next.toNat ∧ recItemCount s.store c.next.toNat ≤ 64 ∧ need = long c.next
    let first (i : Fin 8) (o : OpenOrder) (k : Cursor) (u : State) : Search :=
      .found { slot := i, number := o.number, item := k.item, copy := k.copy, attempt := 1 } (commitCopy i o k u)
    (∀ n : Nat,
      (c.state ≠ .active → askQueue q need (n + 1) s = .nothing (marked false s)) ∧
      (c.state = .active → ¬looks → askQueue q need (n + 1) s = .nothing s) ∧
      (c.state = .active → looks →
        (∀ t, takeHead q s = .passed t → askQueue q need (n + 1) s = askQueue q need n (marked false t)) ∧
        (∀ t, takeHead q s = .blocked t → askQueue q need (n + 1) s = .nothing (marked false t)) ∧
        (∀ i t o k, takeHead q s = .opened i t → t.om.table[i] = some o → o.cursor = some k →
          askQueue q need (n + 1) s = first i o k (marked false t)) ∧
        (takeHead q s = .waitSlot → askQueue q need (n + 1) s = .nothing s) ∧
        (takeHead q s = .waitBins → askQueue q need (n + 1) s = .nothing waited))) ∧
    let candidate (d : Deferred) : Bool :=
      decide (d.queue = q) && d.fits && decide (need = none ∨ need = some ((long d.addr).getD 0))
    (s.om.deferred.find? candidate = none → takeNew q need s = askQueue q need 8388608 s) ∧
    ∀ d, s.om.deferred.find? candidate = some d →
      (∀ i t o k, openOrder q d.addr s = .opened i t → t.om.table[i] = some o → o.cursor = some k →
        let u := marked false t
        takeNew q need s = first i o k (reexamineBlocked
          { u with om := { u.om with deferred := t.om.deferred.filter fun x => !decide (x = d) } })) ∧
      (openOrder q d.addr s = .waitSlot → takeNew q need s = .nothing s) ∧
      (openOrder q d.addr s = .waitBins → takeNew q need s = .nothing waited))

/-- The re-examination of orders at a CONFIGURE (R14). First each deferred entry in list order: one that fails leaves the
list, is written REFUSED and posted, the others counting for the duplicate check; one that passes has its fits mark set as it
fits. Second each item of each open order: where an item with copies uncomposed or on the remake list no longer passes, those
copies are counted failed, its remakes leave the list, the cursor passes over it, the record is written and the close judged.
Third every BLOCKED queue becomes ACTIVE, its head unchanged, its control block written, and a composition attempt is owed
(R13, R30). That the orders are taken by slot number is the model's choice (log 31); what a refused record carries is
log 12. -/
def Obligations.OrdersReexamined : Prop :=
  (∀ s : State, reexamineAll s = reexamineBlocked
    ([0, 1, 2, 3, 4, 5, 6, 7].foldl
      (fun t i => (t.om.table[(i : Fin 8)]).elim t fun o =>
        (List.range o.items.length).foldl (reexamineItem i o.number) t)
      (s.om.deferred.foldl reexamineDeferred s))) ∧
  (∀ (s : State) (d : Deferred),
    let others := s.om.deferred.filter fun x => !decide (x = d)
    (∀ r, examine s others d.addr.toNat = some r → ∃ v,
      reexamineDeferred s d = post .orderRefused d.addr v ∧
        v = { reexamineBlocked { s with om := { s.om with deferred := others } } with store := v.store } ∧
        (StoreCanonical s → recordUnopened v.store d.addr.toNat 7 r.code)) ∧
    (examine s others d.addr.toNat = none → reexamineDeferred s d = { s with
      om := { s.om with
        deferred := s.om.deferred.map fun x => if x = d then { x with fits := recordFits s d.addr.toNat } else x } })) ∧
  (∀ s : State,
    let t := reexamineBlocked s
    let blocked (q : QueueId) : Prop := (s.om.queues.get q).state = .blocked
    t = { s with om := { s.om with queues := t.om.queues }, store := t.store, work := t.work } ∧
      (∀ q, ¬blocked q → t.om.queues.get q = s.om.queues.get q) ∧
      (∀ q, blocked q → t.om.queues.get q = { s.om.queues.get q with state := .active, halt := .noHalt } ∧
        t.work.attempt = true) ∧
      ((∀ q, ¬blocked q) → t = s) ∧
      (StoreCanonical s → storeKept (fun x => ∃ q, blocked q ∧ inControlBlock q x) s t ∧
        ∀ q, blocked q → Memory.read8 t.store q.blockAddr = 1 ∧ Memory.read8 t.store (q.blockAddr + 1) = 0 ∧
          Memory.readWord t.store (q.blockAddr + 4) = (s.om.queues.get q).next)) ∧
  (∀ (i : Fin 8) (number : Word) (n : Nat) (s : State),
    (orderIn s i number = none → reexamineItem i number s n = s) ∧
    ∀ o, orderIn s i number = some o → n < o.items.length →
      let item := readItem s.store o.addr.toNat n
      let lane := match s.cfg.laneMode with
        | .oneUp => s.cfg.paperWidth
        | .twoUp => (s.cfg.paperWidth - 40) / 2
      let stillOk : Prop := ∃ z, sizeOf s.cfg item.size = some z ∧ item.width = z.width * 12 / 10 ∧
        item.height = z.length * 12 / 10 ∧ z.width ≤ lane ∧ lane ≤ z.width + 10
      let passedOver (j : Nat) : Bool := (o.items[j]?).any (·.passed)
      let ahead : Nat := match o.cursor with
        | none => 0
        | some c =>
          if passedOver n then 0
          else if n < c.item then 0 else if n = c.item then item.qty + 1 - c.copy else item.qty
      let mine (r : CopyRef) : Bool := decide (r.slot = i ∧ r.number = number ∧ r.item = n)
      let k := ahead + (s.rc.remakes.filter mine).length
      (k = 0 ∨ stillOk → reexamineItem i number s n = s) ∧
      (k ≠ 0 → ¬stillOk → ∃ cursor,
        reexamineItem i number s n = judgeClose i number (putOrder i
          { o with
            failed := o.failed + k, cursor := cursor
            items := o.items.modify n fun x => { x with failed := x.failed + k, passed := true }
            phase := if cursor = none ∧ o.phase = .opened then .composed else o.phase }
          { s with rc := { s.rc with remakes := s.rc.remakes.filter fun r => !mine r } }) ∧
        ((∀ c, o.cursor = some c → c.item ≠ n) → cursor = o.cursor) ∧
        ∀ c, o.cursor = some c → c.item = n →
          (∀ j, n < j → j < o.items.length → passedOver j = false → (∀ m, n < m → m < j → passedOver m = true) →
            cursor = some { item := j, copy := 1 }) ∧
          ((∀ j, n < j → j < o.items.length → passedOver j = true) → cursor = none)))

/-! ## The Row Composer and the Calibration Unit's commands -/

/-- SET_LANES is judged in the order of R27 and replaces the staged mask alone. Where the change makes the room hold that R31
requires for the next row, a composition attempt is owed (R30).
RECALIBRATE is a trigger in READY, RUNNING and PAUSED, which acts on the calibration state by R82; elsewhere it is
refused (R83). -/
def Obligations.SetLanesAndRecalibrate : Prop :=
  (∀ (m : Word) (s : State), StoreCanonical s → s.cu.job = none →
    let u := offered1 .setLanes m s
    (s.mc.state = .cleared ∨ s.mc.state = .faulted →
      exec (.setLanes m) s = .next (replied .setLanes .illegalState 0 u)) ∧
    (s.mc.state ≠ .cleared → s.mc.state ≠ .faulted →
      (m = 0 ∨ 3 < m.toNat → exec (.setLanes m) s = .next (replied .setLanes .badOperand 0 u)) ∧
      (s.cfg.laneMode = .oneUp → m = 2 → exec (.setLanes m) s = .next (replied .setLanes .badOperand 0 u)) ∧
      ∀ M : LaneMask, m.toNat = M.code → ¬(s.cfg.laneMode = .oneUp ∧ m = 2) →
        let staged : State := { u with rc := { s.rc with mask := M } }
        let room (mask : LaneMask) : Prop :=
          s.wt.track.length
            + (if s.ca.state ≠ .due ∧ s.cfg.laneMode = .twoUp ∧ mask = .both then 2 else 1) + 1 ≤ 64
        (room s.rc.mask ∨ ¬room M → exec (.setLanes m) s = .next (replied .setLanes .done 0 staged)) ∧
        (¬room s.rc.mask → room M → exec (.setLanes m) s =
          .next (replied .setLanes .done 0 { staged with work := { attempt := true } })))) ∧
  (∀ s : State, StoreCanonical s → s.cu.job = none →
    let u := offered0 .recalibrate s
    (s.mc.state = .cleared ∨ s.mc.state = .pausing ∨ s.mc.state = .faulted →
      exec .recalibrate s = .next (replied .recalibrate .illegalState 0 u)) ∧
    (s.mc.state = .ready ∨ s.mc.state = .running ∨ s.mc.state = .paused →
      (s.ca.state = .valid → exec .recalibrate s =
        .next (replied .recalibrate .done 0 { u with ca := { s.ca with state := .due }, work := { attempt := true } })) ∧
      (s.ca.state = .stale → exec .recalibrate s =
        .next (replied .recalibrate .done 0
          { u with ca := { s.ca with state := .due, invalid := 0 }, work := { attempt := true } })) ∧
      (s.ca.state = .due ∨ s.ca.state = .inFlight →
        exec .recalibrate s = .next (replied .recalibrate .done 0 u))))

/-- A composition attempt commits nothing while the slot is full, the machine is not RUNNING or the head-hot hold is set
(R30, R39). With calibration DUE and two places free in the track table it commits a CALIB row of 240 lines with one entry
in lane A (R32, R37); without room for it, or with the first-calibration hold set and no patch due, it does nothing
(R31, R40).
Otherwise the walk goes through its steps in the order of R32 and stops at the first that yields a copy: the remake list,
open EXPRESS orders, a new EXPRESS order, open STANDARD and then open BULK orders, a new STANDARD and a new BULK order. The
first lane takes the head of the remake list and any length; the partner search, in the same order, takes the first remake
and only copies whose own length is that of the first lane's print (R35). Of a level's open orders the oldest that offers a
copy gives it, its cursor moving past the copy (R17); the ages are told apart while no open order is older than 2^31
openings (R15). A search that yields nothing leaves no row, or lane B blank. That a search which has put 8388608 questions
to one queue ends there, the outcome `endless`, as one that yields nothing does, is the model's choice (log 9).
A committed PRINT row: its prints' places in the store and on the head are those of R26 and R29, one entry in stage
COMMITTED is made for each print, and the latched mask is the staged one (R28, R36). What a new order of a level is:
NewOrdersSought. -/
def Obligations.RowsComposed : Prop :=
  (∀ s : State,
    (s.rc.slot.isSome ∨ s.mc.state ≠ .running ∨ s.rc.hot = true → compose s = s) ∧
    (s.rc.slot = none → s.mc.state = .running → s.rc.hot = false →
      (s.ca.state = .due → s.wt.track.length ≤ 62 →
        compose s = { s with
          rc := { s.rc with slot := some { kind := .calib, length := 240, mask := s.rc.mask } }
          wt := { s.wt with track := s.wt.track ++ [{ kind := .calib, lane := .a, length := 240 }] } }) ∧
      (s.ca.state = .due → 62 < s.wt.track.length → compose s = s) ∧
      (s.ca.state ≠ .due → s.rc.firstCal = true → compose s = s) ∧
      (s.ca.state ≠ .due → 62 < s.wt.track.length → compose s = s) ∧
      (s.ca.state ≠ .due → twoLanes s = true → 61 < s.wt.track.length → compose s = s) ∧
      (s.ca.state ≠ .due → s.rc.firstCal = false → s.wt.track.length + (if twoLanes s then 2 else 1) ≤ 63 →
        let lenOf (t : State) (x : CopyRef) : Nat := (orderIn t x.slot x.number).elim 0 fun o =>
          (sizeOf t.cfg (readItem t.store o.addr.toNat x.item).size).elim 0 fun z => z.length * 12 / 10
        (∀ u, walk none walkSteps s = .nothing u ∨ walk none walkSteps s = .endless u → compose s = u) ∧
        ∀ x t, walk none walkSteps s = .found x t →
          (s.cfg.laneMode = .twoUp → s.rc.mask = .both →
            (∀ y u, walk (some (lenOf t x)) walkSteps t = .found y u →
              compose s = commitPrint (lenOf t x) (some x) (some y) u) ∧
            ∀ u, walk (some (lenOf t x)) walkSteps t = .nothing u ∨ walk (some (lenOf t x)) walkSteps t = .endless u →
              compose s = commitPrint (lenOf t x) (some x) none u) ∧
          (s.cfg.laneMode = .twoUp → s.rc.mask = .bOnly → compose s = commitPrint (lenOf t x) none (some x) t) ∧
          (s.cfg.laneMode = .oneUp ∨ s.rc.mask = .aOnly → compose s = commitPrint (lenOf t x) (some x) none t)))) ∧
  (∀ (need : Option Nat) (s : State),
    walkSteps = [.remake, .openOrders .express, .newOrder .express, .openOrders .standard, .openOrders .bulk,
      .newOrder .standard, .newOrder .bulk] ∧
    walk need [] s = .nothing s ∧
    (∀ w ws t,
      (∀ x, walkStep need w s = .found x t → walk need (w :: ws) s = .found x t) ∧
      (walkStep need w s = .nothing t → walk need (w :: ws) s = walk need ws t) ∧
      (walkStep need w s = .endless t → walk need (w :: ws) s = .endless t)) ∧
    let long (a : Word) (n : Nat) : Nat :=
      (sizeOf s.cfg (readItem s.store a.toNat n).size).elim 0 fun z => z.length * 12 / 10
    let fits (len : Nat) : Prop := need = none ∨ need = some len
    let remakeLen (x : CopyRef) : Nat := (orderIn s x.slot x.number).elim 0 fun o => long o.addr x.item
    let offers (q : QueueId) (i : Fin 8) (o : OpenOrder) (c : Cursor) : Prop :=
      s.om.table[i] = some o ∧ o.queue = q ∧ o.cursor = some c ∧ fits (long o.addr c.item)
    (∀ (i : Nat) (x : CopyRef), s.rc.remakes[i]? = some x → fits (remakeLen x) →
      (∀ j < i, ∀ y, s.rc.remakes[j]? = some y → ¬fits (remakeLen y)) →
      walkStep need .remake s = .found x { s with rc := { s.rc with remakes := s.rc.remakes.eraseIdx i } }) ∧
    ((∀ y ∈ s.rc.remakes, ¬fits (remakeLen y)) → walkStep need .remake s = .nothing s) ∧
    ∀ q : QueueId,
      walkStep need (.newOrder q) s = takeNew q need s ∧
      ((∀ i o c, ¬offers q i o c) → walkStep need (.openOrders q) s = .nothing s) ∧
      ((∀ (j : Fin 8) (p : OpenOrder), s.om.table[j] = some p → (s.om.seq - p.seq).toNat < 2147483648) →
        ∀ i o c, offers q i o c →
          (∀ j p d, offers q j p d → j ≠ i → (s.om.seq - p.seq).toNat < (s.om.seq - o.seq).toNat) →
          ∃ cursor,
            walkStep need (.openOrders q) s = .found
              { slot := i, number := o.number, item := c.item, copy := c.copy, attempt := 1 }
              (putOrder i
                { o with
                  composed := o.composed + 1, cursor := cursor
                  phase := if cursor = none ∧ o.phase = .opened then .composed else o.phase } s) ∧
            (c.copy < (readItem s.store o.addr.toNat c.item).qty →
              cursor = some { item := c.item, copy := c.copy + 1 }) ∧
            ((readItem s.store o.addr.toNat c.item).qty ≤ c.copy →
              (∀ j x, c.item < j → o.items[j]? = some x → x.passed = false →
                (∀ k, c.item < k → k < j → (o.items[k]?).any (·.passed) = true) →
                cursor = some { item := j, copy := 1 }) ∧
              ((∀ j x, c.item < j → o.items[j]? = some x → x.passed = true) → cursor = none)))) ∧
  (∀ (s : State) (r : SlotRow), s.rc.slot = none → (compose s).rc.slot = some r → r.kind = .print →
    let t := compose s
    s.ca.state ≠ .due ∧ s.rc.firstCal = false ∧ r.mask = s.rc.mask ∧
      (r.prints.a.isSome ∨ r.prints.b.isSome) ∧ (r.prints.a.isSome → r.prints.b.isSome → twoLanes s = true) ∧
      (r.prints.b = none → firstLane s = .a) ∧ (r.prints.a = none → firstLane s = .b) ∧
      t.wt.track = s.wt.track ++
        ((r.prints.a.map fun p => { kind := .print, lane := .a, ref := some p.ref, length := r.length : Entry }).toList ++
          (r.prints.b.map fun p => { kind := .print, lane := .b, ref := some p.ref, length := r.length : Entry }).toList) ∧
      ∀ (l : Lane) (p : PrintSpec), r.prints.get l = some p →
        let item := readItem t.store ((orderIn t p.ref.slot p.ref.number).elim 0 (·.addr)).toNat p.ref.item
        let wide := (sizeOf s.cfg item.size).elim 0 (·.width) * 12 / 10
        let paper := s.cfg.paperWidth * 12 / 10
        let lane := (s.cfg.paperWidth - 40) / 2 * 12 / 10
        p.image = item.image ∧ p.width = item.width ∧ p.height = item.height ∧
          p.stride = (3 * item.width + 63) / 64 * 64 ∧
          (s.cfg.laneMode = .oneUp → p.first = (3664 - wide) / 2) ∧
          (s.cfg.laneMode = .twoUp → l = .a → p.first = (3664 - paper) / 2 + 12 + (lane - wide) / 2) ∧
          (s.cfg.laneMode = .twoUp → l = .b → p.first = (3664 - paper) / 2 + paper - 12 - lane + (lane - wide) / 2))

/-- A reject report: ignored for an order no longer in its slot, counted dropped for a WITHDRAWING one; else the rejected
count rises, and the copy is failed at attempt 3, failed with REMAKE_REFUSED when the remake list is full, and otherwise
appended with the next attempt (R42, R19, R20). That REMAKE_REFUSED is posted after the copy is counted failed, and so after
the close this may bring about, is the model's reading (log 17); ReportsCounted says what counting a copy failed does. -/
def Obligations.RejectDecided : Prop :=
  ∀ (cause : RejectCause) (r : CopyRef) (s : State),
    (orderIn s r.slot r.number = none → rejectReport cause r s = s) ∧
    ∀ o, orderIn s r.slot r.number = some o →
      let o' : OpenOrder := { o with
        rejected := o.rejected + 1
        items := if cause = .underrun then o.items.modify r.item fun i => { i with underrun := true } else o.items }
      let s' := putOrder r.slot o' s
      (∀ ch, o.phase = .withdrawing ch → rejectReport cause r s =
        judgeClose r.slot r.number (putOrder r.slot { o with dropped := o.dropped + 1 } s)) ∧
      (o.phase = .opened ∨ o.phase = .composed →
        (3 ≤ r.attempt → rejectReport cause r s = judgeClose r.slot r.number (countFailed r s')) ∧
        (r.attempt < 3 → 32 ≤ s.rc.remakes.length + slotRemakes s → rejectReport cause r s =
          judgeClose r.slot r.number (post .remakeRefused o.addr (countFailed r s'))) ∧
        (r.attempt < 3 → s.rc.remakes.length + slotRemakes s < 32 → rejectReport cause r s =
          judgeClose r.slot r.number (askAttempt { s' with
            rc := { s.rc with remakes := s.rc.remakes ++ [{ r with attempt := r.attempt + 1 }] } })))

/-- The removal of a track entry: one that is gone changes nothing. The entry leaves the track table; when it was the last of
its row, the boundaries that name the row lose the reference and one left with neither row leaves the cut queue (R114); the
sorter drops what it holds of the piece, its bin's routed count down by one (R142); the close of its order is judged (R21),
and a composition attempt is owed (R103, R30).
An entry made LOST is flagged; a live print is reported with its cause, a patch in flight makes calibration DUE, any other is
not reported; then the entry is removed (R108, R90). Entries lost together are lost in paper order (R107). -/
def Obligations.EntriesRemoved : Prop :=
  (∀ (k : EntryKey) (s : State),
    ((∀ e ∈ s.wt.track, e.key ≠ k) → removeEntry k s = s) ∧
    ∀ e, findEntry s k = some e → ∃ u,
      (e.ref = none → removeEntry k s = u) ∧
      (∀ r, e.ref = some r → removeEntry k s = judgeClose r.slot r.number u) ∧
      u = { s with
        wt := { s.wt with track := s.wt.track.filter fun x => !decide (x.key = k) }
        ct := u.ct
        su :=
          { s.su with
            bins := u.su.bins
            conveyor := s.su.conveyor.filter fun x => !decide (x.piece = k)
            awaiting := s.su.awaiting.filter fun x => !decide (x = k) }
        work := { s.work with attempt := true } } ∧
      ((∀ x ∈ s.su.conveyor, x.piece ≠ k) → u.su.bins = s.su.bins) ∧
      (∀ x, s.su.conveyor.find? (fun x => decide (x.piece = k)) = some x → ∀ i : Fin 32, u.su.bins[i] =
        if x.dest.1 = i.1 then { s.su.bins[i] with routed := s.su.bins[i].routed - 1 } else s.su.bins[i]) ∧
      (k.x0 = none → u.ct = s.ct) ∧
      ∀ x, k.x0 = some x →
        ((∃ f ∈ s.wt.track, f.key ≠ k ∧ f.x0 = some x) → u.ct = s.ct) ∧
        ((∀ f ∈ s.wt.track, f.key ≠ k → f.x0 ≠ some x) → u.ct = { s.ct with
          queue := s.ct.queue.filterMap fun b =>
            let after := if b.rowAfter = some x then none else b.rowAfter
            let before := if b.rowBefore = some x then none else b.rowBefore
            if after = b.rowAfter ∧ before = b.rowBefore then some b
            else if after = none ∧ before = none then none
            else some { b with rowAfter := after, rowBefore := before } })) ∧
  (∀ (cause : RejectCause) (k : EntryKey) (s : State),
    ((∀ e ∈ s.wt.track, e.key ≠ k) → loseEntry cause s k = s) ∧
    (∀ e, findEntry s k = some e →
      let flagged : State := { s with
        wt := { s.wt with
          track := s.wt.track.map fun x => if x.key = k then { x with flags := { x.flags with lost := true } } else x } }
      let spent : Prop := e.flags.reject = true ∨ e.flags.lost = true ∨ e.flags.withdrawn = true
      (∀ r, e.kind = .print → e.ref = some r → ¬spent →
        loseEntry cause s k = removeEntry k (rejectReport cause r flagged)) ∧
      (e.kind = .print ∧ spent ∨ e.kind = .blank → loseEntry cause s k = removeEntry k flagged) ∧
      (e.kind = .calib →
        (∀ p, s.ca.state = .inFlight → s.ca.patch = some p → e.x0 = some p.x0 → loseEntry cause s k =
          removeEntry k { flagged with
            ca := { s.ca with state := .due, patch := none }, work := { s.work with attempt := true } }) ∧
        ((s.ca.state ≠ .inFlight ∨ ∀ p, s.ca.patch = some p → e.x0 ≠ some p.x0) →
          loseEntry cause s k = removeEntry k flagged))) ∧
    ∀ f : Entry → Bool,
      loseWhere cause f s = ((s.wt.track.filter f).map (·.key)).foldl (fun t k => loseEntry cause t k) s ∧
        ∀ e ∈ (loseWhere cause f s).wt.track, e ∈ s.wt.track ∧ f e = false)

/-! ## Calibration -/

/-- DENSITOMETER_READING of the patch in flight, Y having reached its reading point: a valid reading installs the three new
balances, a first or second invalid one makes calibration DUE again, a third makes it STALE and posts CAL_FAILED
(R85, R86, R88, R89). The first two of them that end the first-calibration hold owe a composition attempt (R30, R40); that
none is owed when the hold was not set is the model's reading (log 30). A value the sensor cannot read is refused.
The new balance of R87: the half-up quotient, held within an eighth of the old balance, then within 2048 to 6143; from a
balance in range it moves by at most an eighth. -/
def Obligations.ReadingsSetBalances : Prop :=
  (∀ (r g b : Nat) (s : State),
    (4095 < r ∨ 4095 < g ∨ 4095 < b → exec (.densitometerReading r g b) s = .refused .sensorRange) ∧
    (r ≤ 4095 → g ≤ 4095 → b ≤ 4095 → ∀ (p : Patch) (old : PerChan Nat), s.ca.state = .inFlight → s.ca.patch = some p →
      s.ca.bal = some old → reached s.wt.y (p.x0 + lines s.cfg.lDens) = true →
      let m : PerChan Nat := ⟨r, g, b⟩
      let e (k : Chan) (d : Nat) : Nat := exposure (s.cfg.table.get k) d
      let valid : Prop := ∀ k : Chan, 50 ≤ m.get k ∧ m.get k ≤ 3999 ∧ e k (m.get k) ≠ 0
      (valid → exec (.densitometerReading r g b) s = .next (settle { s with
        ca :=
          { state := .valid, thetaCal := p.theta, invalid := 0, patch := none
            bal := some (PerChan.ofFn fun k =>
              newBalance (old.get k) (e k (s.cfg.target.get k)) (e k (m.get k))) }
        rc := { s.rc with firstCal := false }, work := { attempt := s.rc.firstCal } })) ∧
      (¬valid → s.ca.invalid < 2 → exec (.densitometerReading r g b) s = .next (settle { s with
        ca := { s.ca with state := .due, invalid := s.ca.invalid + 1, patch := none }, work := { attempt := true } })) ∧
      (¬valid → 2 ≤ s.ca.invalid → exec (.densitometerReading r g b) s = .next (settle
        { post .calFailed 0
            { s with ca := { s.ca with state := .stale, invalid := 3, thetaCal := p.theta, patch := none } } with
          rc := { s.rc with firstCal := false }, work := { attempt := s.rc.firstCal } })))) ∧
  (∀ old eTarget eRead : Nat, 2048 ≤ old → old ≤ 6143 → eRead ≠ 0 →
    let q := (old * eTarget + eRead / 2) / eRead
    newBalance old eTarget eRead = min 6143 (max 2048 (min (old + old / 8) (max (old - old / 8) q))) ∧
      2048 ≤ newBalance old eTarget eRead ∧ newBalance old eTarget eRead ≤ 6143 ∧
      newBalance old eTarget eRead ≤ old + old / 8 ∧ old ≤ newBalance old eTarget eRead + old / 8)

/-! ## Exposure arithmetic -/

/-- Stages 1 and 2: interpolation between knots, floor toward minus infinity, with results between the knots, both
included; the Calibration Unit compares densities by the same stage 2 (R48, R49).
Stage 7: a pulse is held within the head's longest and away from the lengths below P_min; a disabled element takes 0
(R50, R54, R56). Every value of every drive line is 0 or lies between P_min and 4095. -/
def Obligations.ExposureStages : Prop :=
  (∀ (ks : List Nat) (v d : Nat),
    (density ks v : Int) = knot ks (v / 16) +
        (((knot ks (v / 16 + 1) : Int) - knot ks (v / 16)) * (v % 16 : Nat) + 8) / 16 ∧
      (v % 16 = 0 → density ks v = knot ks (v / 16)) ∧
      min (knot ks (v / 16)) (knot ks (v / 16 + 1)) ≤ density ks v ∧
      density ks v ≤ max (knot ks (v / 16)) (knot ks (v / 16 + 1)) ∧
      ((∀ k ∈ ks, k ≤ 4095) → density ks v ≤ 4095) ∧
      (exposure ks d : Int) = knot ks (d / 128) +
        (((knot ks (d / 128 + 1) : Int) - knot ks (d / 128)) * (d % 128 : Nat) + 64) / 128 ∧
      min (knot ks (d / 128)) (knot ks (d / 128 + 1)) ≤ exposure ks d ∧
      exposure ks d ≤ max (knot ks (d / 128)) (knot ks (d / 128 + 1)) ∧
      ((∀ k ∈ ks, k ≤ 65535) → exposure ks d ≤ 65535) ∧
      ∀ (c : Conf) (k : Chan), exposureAt c k d = exposure (c.table.get k) d) ∧
  (∀ (c : Conf) (ctx : RowContext) (k : Chan) (e v : Nat), c.pMin ≤ 255 →
    let t := ticksOf c ctx k e v
    (gainOf c k e = 0 → driveValue c ctx k e v = 0 ∧ clamped c ctx k e v = false) ∧
    (gainOf c k e ≠ 0 →
      (4095 < t → driveValue c ctx k e v = 4095 ∧ clamped c ctx k e v = true) ∧
      (t ≤ 4095 → clamped c ctx k e v = false) ∧
      (t = 0 → driveValue c ctx k e v = 0) ∧
      (c.pMin ≤ t → t ≤ 4095 → driveValue c ctx k e v = t) ∧
      (0 < t → t < c.pMin → driveValue c ctx k e v = if c.pMin ≤ 2 * t then c.pMin else 0)) ∧
    ∀ (marked : Bool) (im : LineImage),
      (driveLine c marked im).length = 3 * 3664 ∧
        (∀ x ∈ driveLine c marked im, x = 0 ∨ c.pMin ≤ x ∧ x ≤ 4095) ∧
        ∀ x ∈ leadInLine c, x = 0 ∨ c.pMin ≤ x ∧ x ≤ 4095)

/-- Stages 3 to 6: the exposure is scaled half up by the gain, the row's temperature factor, held within 3072 to 5120, and the
row's balance, and turned into ticks half up, each within the range the rule names (R50 to R53).
The drive line of a row holds a value for each channel and element: under the mark, on the first and last four lines, 4095 or
0 at a disabled element (R69); under a print the value of its pixel, under a patch that of the patch code, and 0 elsewhere
(R46, R47, R59). A lead-in's line holds the mark alone (R70).
EXPOSURE_FEED_STEP in a PRINT row sends the line of the prints whose lanes hold a line, the held line in an underrun too, and
raises each print's clip count by the clamped values of the line it sends, those beneath the mark among them (R46, R54,
R55, R72). -/
def Obligations.ValuesOfALine : Prop :=
  (∀ (c : Conf) (ctx : RowContext) (b : PerChan Nat) (k : Chan) (e v : Nat), ctx.bal = some b →
    let gain := Memory.read16 c.gains (2 * (3664 * k.index + e))
    let x := exposure (c.table.get k) (density (c.curve.get k) v)
    let g := (x * gain + 2048) / 4096
    let h := (g * ctx.phi.get k + 2048) / 4096
    let d := (h * b.get k + 2048) / 4096
    gainOf c k e = gain ∧ ticksOf c ctx k e v = (d + 8) / 16 ∧
      ((∀ n ∈ c.table.get k, n ≤ 65535) → gain ≤ 6143 → ctx.phi.get k ≤ 5120 → b.get k ≤ 6143 →
        g ≤ 98287 ∧ h ≤ 122859 ∧ d ≤ 184259 ∧ ticksOf c ctx k e v ≤ 11516) ∧
      ∀ (coef : Int) (theta thetaRef : Nat),
        (tempFactor coef theta thetaRef : Int) = max 3072 (min 5120 (4096 + coef * ((theta : Int) - thetaRef)))) ∧
  (∀ (c : Conf) (marked : Bool) (im : LineImage) (k : Chan) (e : Nat), e < 3664 →
    let first := (3664 - c.paperWidth * 12 / 10) / 2
    let mark : Nat := if gainOf c k e = 0 then 0 else 4095
    let under (l : Lane) (p : PrintSpec) (px : List Byte) : Prop :=
      im.lanes.get l = some (p, px) ∧ p.first ≤ e ∧ e < p.first + p.width
    let value (p : PrintSpec) (px : List Byte) : Nat :=
      driveValue c im.ctx k e ((px[3 * (e - p.first) + k.index]?).elim 0 (·.toNat))
    let inMark : Prop := first ≤ e ∧ e < first + 12
    let at? (l : List Nat) : Option Nat := l[3664 * k.index + e]?
    (marked = true → inMark → at? (driveLine c marked im) = some mark) ∧
    (¬(marked = true ∧ inMark) →
      (im.kind = .blank → at? (driveLine c marked im) = some 0) ∧
      (im.kind = .calib → at? (driveLine c marked im) = some
        (if first ≤ e ∧ e < first + c.paperWidth * 12 / 10 then driveValue c im.ctx k e (c.patchCode.get k) else 0)) ∧
      (im.kind = .print →
        (∀ p px, under .a p px → at? (driveLine c marked im) = some (value p px)) ∧
        (∀ p px, under .b p px → (∀ q qx, ¬under .a q qx) → at? (driveLine c marked im) = some (value p px)) ∧
        ((∀ l p px, ¬under l p px) → at? (driveLine c marked im) = some 0))) ∧
    (inMark → at? (leadInLine c) = some mark) ∧ (¬inMark → at? (leadInLine c) = some 0)) ∧
  (∀ (s : State) (r : ExposingRow), (s.mc.state = .running ∨ s.mc.state = .pausing) → s.ee.expo = some (.row r) →
    r.kind = .print → (s.wt.x - r.x0).toNat < r.length →
    let k := (s.wt.x - r.x0).toNat
    ∃ t r', exec .exposureFeedStep s = .next t ∧ t.ee.expo = some (.row r') ∧
      let sent (l : Lane) : Option (PrintSpec × List Byte) :=
        (r.prints.get l).bind fun p => (t.ee.buffers.get l).held.map fun px => (p.spec, px)
      t.ee.drive = driveLine s.cfg (decide (k < 4 ∨ r.length ≤ k + 4))
          { kind := .print, ctx := r.context, lanes := ⟨sent .a, sent .b⟩ } ∧
        ∀ (l : Lane) (p : PrintRun), r.prints.get l = some p → ∃ p', r'.prints.get l = some p' ∧ p'.spec = p.spec ∧
          (sent l = none → p'.clip = p.clip) ∧
          ∀ px, sent l = some (p.spec, px) → p'.clip = p.clip +
            ([Chan.red, .green, .blue].flatMap fun ch => (List.range p.spec.width).filter fun i =>
              decide (gainOf s.cfg ch (p.spec.first + i) ≠ 0) &&
                decide (4095 < ticksOf s.cfg r.context ch (p.spec.first + i)
                  ((px[3 * i + ch.index]?).elim 0 (·.toNat)))).length)

/-! ## The head -/

/-- IMAGE_LINE_READ_COMPLETE: the line read takes its place behind those of its lane, unless the head has passed it or its
row is gone; nothing else changes (R71, R72, R77). That the bytes are those the store holds then is the model's choice
(log 11), and the fault beyond the store's end is (log 27). -/
def Obligations.LineReadCompletes : Prop :=
  ∀ (l : Lane) (s : State),
    let b := s.ee.buffers.get l
    (b.reading = none → exec (.imageLineReadComplete l) s = .next s) ∧
    ∀ r, b.reading = some r →
      (268435456 < r.addr + r.len → exec (.imageLineReadComplete l) s = .fault .lineOutsideStore) ∧
      (r.addr + r.len ≤ 268435456 →
        let data := (List.range r.len).map fun i => Memory.read s.store (r.addr + i)
        let passed : Prop := ∃ x : ExposingRow, s.ee.expo = some (.row x) ∧ r.line < (s.wt.x - x.x0).toNat
        let after (ls : List BufLine) : State := { s with
          ee := { s.ee with buffers := s.ee.buffers.set l { b with reading := none, lines := ls } }, work := {} }
        (r.dest = .discard ∨ r.dest = .exposing ∧ passed →
          exec (.imageLineReadComplete l) s = .next (settle (after b.lines))) ∧
        (r.dest = .slot → exec (.imageLineReadComplete l) s =
          .next (settle (after (b.lines ++ [{ forSlot := true, line := r.line, data := data }])))) ∧
        (r.dest = .exposing → ¬passed → exec (.imageLineReadComplete l) s =
          .next (settle (after (b.lines ++ [{ forSlot := false, line := r.line, data := data }])))))

/-- LEAD_IN_START, with the continuity mark clear and nothing exposing while the feeds run: for a slot row with credit for
the lead-in's 4 lines, a cool head and a track entry to spare (R63, R70); else, once the loop is empty, for a BLANK row of
MIN_PIECE lines whose entry joins the track (R66, R38).
LEAD_IN_END: at the lead-in's last line the continuity mark is set; the slot row then waits for its start, and a BLANK
row starts at once at the position reached, as blankRowStarted says: θ latched, the drift judged, the status block written.
Its entry takes the row start and moves to EXPOSING, and its boundary joins the cut queue (R70, R66, R65, R113). -/
def Obligations.LeadInsRun : Prop :=
  (∀ s : State, s.ee.continuity = false → s.ee.expo = none → (s.mc.state = .running ∨ s.mc.state = .pausing) →
    s.wt.track.length < 64 →
    let credit : Prop := ∃ r, s.rc.slot = some r ∧ s.ee.hot = false ∧
      (s.wt.x - s.wt.y).toNat + 4 + r.length ≤ s.cfg.loopMax
    (credit → exec .leadInStart s = .next (settle { s with
      ee := { s.ee with expo := some (.leadIn 0 false) }, work := {} })) ∧
    (¬credit → s.wt.x = s.wt.y → exec .leadInStart s = .next (settle { s with
      ee := { s.ee with expo := some (.leadIn 0 true) }
      wt := { s.wt with track := s.wt.track ++ [{ kind := .blank, lane := .a, length := s.cfg.minPiece }] }
      work := {} })) ∧
    (¬credit → s.wt.x ≠ s.wt.y → exec .leadInStart s = .next s)) ∧
  (∀ (s : State) (n : Nat), 4 ≤ n → s.mc.paperOutReq = false →
    (s.ee.expo = some (.leadIn n false) → s.wt.x ≠ s.wt.y → exec .leadInEnd s = .next (settle { s with
      ee := { s.ee with expo := none, continuity := true, drive := [] }, work := {} })) ∧
    (s.ee.expo = some (.leadIn n true) → s.ct.queue.length < 65 →
      ∃ t r q, exec .leadInEnd s = .next t ∧ t.ee.expo = some (.row r) ∧ r.kind = .blank ∧ r.x0 = s.wt.x ∧
        r.length = s.cfg.minPiece ∧ t.ee.continuity = true ∧ t.ee.maskInForce = s.ee.maskInForce ∧ lineKept s t ∧
        t.ca.bal = s.ca.bal ∧ t.ct.queue = s.ct.queue ++ [q] ∧ q.pos = s.wt.x ∧ q.rowAfter = some s.wt.x ∧
        q.mark = .pending ∧ q.delta = 0 ∧ q.window = .ahead ∧ t.mc = s.mc ∧ blankRowStarted s t ∧
        (∀ e ∈ s.wt.track, e.kind = .blank → e.x0 = none →
          { e with x0 := some s.wt.x, stage := .exposing } ∈ t.wt.track) ∧
        ∀ e ∈ t.wt.track, e.kind = .blank → e.x0.isSome))

/-- ROW_START: with the continuity mark set, nothing exposing, a cool head, credit for its length and a track entry to spare,
the slot row starts at X with θ, the balances and the calibration state latched; its entries, its mask, its boundary and,
for a CALIB row, its patch record follow, and the status block is written (R63, R64, R65, R84, R113). In each lane the held
line is cleared, and the lines, the read in progress and the place of the fetch that were the slot row's become the exposing
row's (R64, R71); the slot is empty and a composition attempt is owed (R64, R30). -/
def Obligations.RowStarts : Prop :=
  ∀ (s : State) (r : SlotRow), s.rc.slot = some r → s.ee.continuity = true → s.ee.expo = none →
    (s.mc.state = .running ∨ s.mc.state = .pausing) → s.ee.hot = false →
    (s.wt.x - s.wt.y).toNat + r.length ≤ s.cfg.loopMax → s.wt.track.length < 64 → s.ct.queue.length < 65 →
    StoreCanonical s →
    let phi (k : Chan) : Nat :=
      (max 3072 (min 5120 (4096 + s.cfg.tempCoef.get k * ((s.ee.sample : Int) - s.cfg.thetaRef)))).toNat
    let drift : Prop := (s.cfg.calDrift : Int) < ((s.ee.sample : Int) - s.ca.thetaCal).natAbs
    ∃ t q, exec .rowStart s = .next t ∧
      t.ee.expo = some (.row
        { kind := r.kind, x0 := s.wt.x, length := r.length
          ctx := some
            { theta := s.ee.sample, phi := PerChan.ofFn phi, bal := s.ca.bal, mask := some r.mask
              stale := decide (s.ca.state = .stale) }
          prints := ⟨r.prints.a.map fun p => { spec := p }, r.prints.b.map fun p => { spec := p }⟩ }) ∧
      t.ee.maskInForce = r.mask ∧ lineKept s t ∧ t.mc = s.mc ∧ t.ca.bal = s.ca.bal ∧ t.ca.thetaCal = s.ca.thetaCal ∧
      (r.kind = .calib → t.ca = { s.ca with
        state := .inFlight, patch := some { x0 := s.wt.x, theta := s.ee.sample, bal := s.ca.bal } }) ∧
      (r.kind ≠ .calib → ¬drift → t.ca = s.ca) ∧
      (r.kind ≠ .calib → drift → s.ca.state = .valid → t.ca = { s.ca with state := .due }) ∧
      (r.kind ≠ .calib → drift → s.ca.state = .stale → t.ca = { s.ca with state := .due, invalid := 0 }) ∧
      (r.kind ≠ .calib → drift → s.ca.state = .due ∨ s.ca.state = .inFlight → t.ca = s.ca) ∧
      t.ct.queue = s.ct.queue ++ [q] ∧ q.pos = s.wt.x ∧ q.rowAfter = some s.wt.x ∧ q.mark = .pending ∧ q.delta = 0 ∧
      q.window = .ahead ∧
      (∀ e ∈ s.wt.track, e.x0 = none → e.kind ≠ .blank →
        ∃ e' ∈ t.wt.track, e'.x0 = some s.wt.x ∧ e'.stage = .exposing ∧ e'.kind = e.kind ∧ e'.lane = e.lane ∧
          e'.ref = e.ref ∧ e'.length = e.length ∧
          (e.kind = .print → s.ca.state = .stale → e'.flags.uncalibrated = true)) ∧
      Memory.read8 t.store 0x200 = s.mc.state.code ∧ Memory.read16 t.store 0x210 = s.ee.sample % 65536 ∧
      Memory.read8 t.store 0x212 = r.mask.code ∧
      let begun (b : LineBuffer) : LineBuffer := { b with
        held := none
        lines := b.lines.map fun x => { x with forSlot := false }
        reading := b.reading.map fun x => if x.dest = .slot then { x with dest := .exposing } else x
        nextExp := b.nextSlot
        nextSlot := 0 };
      (∀ l : Lane, (t.ee.buffers.get l).held = none ∧
        (t.ee.buffers.get l).lines = (begun (s.ee.buffers.get l)).lines) ∧
      ∃ v, t = settle v ∧ v.rc.slot = none ∧ v.work = { attempt := true, status := true } ∧
        v.ee = { s.ee with
          expo := t.ee.expo, maskInForce := r.mask, buffers := ⟨begun s.ee.buffers.a, begun s.ee.buffers.b⟩ }

/-- EXPOSURE_FEED_STEP in a lead-in: X and both paper counts rise and the leading half of the mark alone is sent (R70, R94,
R105). In a CALIB or BLANK row: X and both counts rise and the row's drive line is sent (R68, R105).
EXPOSURE_FEED_STEP in a PRINT row, at line k = X − x0: X and the paper count rise, waste rises on the odd lines of a
TWO_UP row that holds one print (R105). In each lane with a print, line k sent becomes the held line; when it is not
there, the lane underruns: its held line stands, the entry is flagged UNDERRUN, and the fetch moves on to line k + 1 or to
the line after the one the read in progress is for, whichever is later, so that the next read is for that line (R71, R72). -/
def Obligations.LinesExposed : Prop :=
  (∀ s : State, (s.mc.state = .running ∨ s.mc.state = .pausing) →
    let moved (ee : EeState) : State := { s with
      ee := ee
      wt := { s.wt with x := s.wt.x + 1, paperUsed := s.wt.paperUsed + 1, waste := s.wt.waste + 1 }, work := {} }
    (∀ n forBlank, s.ee.expo = some (.leadIn n forBlank) → n < 4 → exec .exposureFeedStep s =
      .next (settle (moved { s.ee with expo := some (.leadIn (n + 1) forBlank), drive := leadInLine s.cfg }))) ∧
    ∀ r, s.ee.expo = some (.row r) → r.kind ≠ .print → r.prints = ⟨none, none⟩ →
      (s.wt.x - r.x0).toNat < r.length → exec .exposureFeedStep s =
        .next (settle (moved { s.ee with
          drive := driveLine s.cfg (markLine r.length (s.wt.x - r.x0).toNat)
            { kind := r.kind, ctx := r.context, lanes := ⟨none, none⟩ } }))) ∧
  (∀ (s : State) (r : ExposingRow), (s.mc.state = .running ∨ s.mc.state = .pausing) → s.ee.expo = some (.row r) →
    r.kind = .print → (s.wt.x - r.x0).toNat < r.length →
    let k := (s.wt.x - r.x0).toNat
    let alone : Prop := ¬(r.prints.a.isSome ∧ r.prints.b.isSome)
    ∃ t r', exec .exposureFeedStep s = .next t ∧ t.wt.x = s.wt.x + 1 ∧ t.wt.paperUsed = s.wt.paperUsed + 1 ∧
      (s.cfg.laneMode = .twoUp ∧ alone ∧ k % 2 = 1 → t.wt.waste = s.wt.waste + 1) ∧
      (¬(s.cfg.laneMode = .twoUp ∧ alone ∧ k % 2 = 1) → t.wt.waste = s.wt.waste) ∧
      t.wt.y = s.wt.y ∧ t.ee.expo = some (.row r') ∧ r'.kind = .print ∧ r'.x0 = r.x0 ∧ r'.length = r.length ∧
      r'.ctx = r.ctx ∧ t.ee.drive.length = 3 * 3664 ∧ t.ca = s.ca ∧ t.ct = s.ct ∧ t.su = s.su ∧ t.om = s.om ∧
      t.mc = s.mc ∧ t.conf = s.conf ∧ t.store = s.store ∧
      (∀ (l : Lane) (p : PrintRun), r.prints.get l = some p →
        (∀ x rest, (s.ee.buffers.get l).lines = x :: rest → x.forSlot = false → x.line = k →
          (t.ee.buffers.get l).held = some x.data ∧ (t.ee.buffers.get l).lines = rest ∧
            ∃ p', r'.prints.get l = some p' ∧ p'.spec = p.spec ∧ p'.underrun = p.underrun ∧ p.clip ≤ p'.clip) ∧
        ((∀ x ∈ (s.ee.buffers.get l).lines.head?, x.forSlot = true ∨ x.line ≠ k) →
          (t.ee.buffers.get l).held = (s.ee.buffers.get l).held ∧
            (t.ee.buffers.get l).lines = (s.ee.buffers.get l).lines ∧
            (∃ p', r'.prints.get l = some p' ∧ p'.spec = p.spec ∧ p'.underrun = true ∧
              ((s.ee.buffers.get l).held = none → p'.clip = p.clip)) ∧
            ∀ e ∈ t.wt.track, e.key = printKey r.x0 l → e.flags.underrun = true)) ∧
      ∃ v, t = settle v ∧ v = { t with ee := { t.ee with buffers := v.ee.buffers } } ∧
        ∀ l : Lane,
          let b := s.ee.buffers.get l
          (r.prints.get l = none → v.ee.buffers.get l = b) ∧
          ((r.prints.get l).isSome →
            (∀ x rest, b.lines = x :: rest → x.forSlot = false → x.line = k →
              v.ee.buffers.get l = { b with held := some x.data, lines := rest }) ∧
            ((∀ x ∈ b.lines.head?, x.forSlot = true ∨ x.line ≠ k) →
              v.ee.buffers.get l = { b with nextExp := max b.nextExp (k + 1) })))

/-- ROW_END of a PRINT row, CALIB_OR_BLANK_ROW_END of another, with the loop not empty and no paper-out request pending: the
head stands with the continuity mark set; the row's entries leave EXPOSING, for PROCESSING when Y has reached the row
start and IN_LOOP when not; a print over CLIP_LIMIT is flagged CLIPPED, and one that has underrun REJECT unless it is
WITHDRAWN (R73, R74, R101).
The end of a PRINT row as one event: the prints over CLIP_LIMIT are flagged, each print that has underrun and is not
WITHDRAWN is flagged REJECT and reported with cause UNDERRUN, and then the row is handed on (R73); RejectDecided says what
a report does. That lane A's report is taken first is the model's choice (log 35). -/
def Obligations.RowEnds : Prop :=
  ∀ (s : State) (r : ExposingRow), s.ee.expo = some (.row r) → r.length ≤ (s.wt.x - r.x0).toNat → s.wt.x ≠ s.wt.y →
    s.mc.paperOutReq = false →
    let i : Instr := if r.kind = .print then .rowEnd else .calibOrBlankRowEnd
    let next (st : Stage) : Stage :=
      if st = .exposing then (if reached s.wt.y r.x0 then .processing else .inLoop) else st
    ∃ t, exec i s = .next t ∧ t.ee.expo = none ∧ t.ee.continuity = true ∧ t.ee.drive = [] ∧ t.mc = s.mc ∧
      lineKept s t ∧ t.ca = s.ca ∧ t.ct = s.ct ∧ t.su.conveyor = s.su.conveyor ∧
      (∀ l : Lane, (t.ee.buffers.get l).held = none ∧
        (t.ee.buffers.get l).lines = (s.ee.buffers.get l).lines.filter (·.forSlot)) ∧
      (∀ (k : EntryKey) (e : Entry), k.x0 = some r.x0 → findEntry s k = some e →
        ∃ e', findEntry t k = some e' ∧ e'.stage = next e.stage ∧ e'.ref = e.ref ∧ e'.length = e.length ∧
          (r.kind ≠ .print ∨ k.kind ≠ .print → e'.flags = e.flags) ∧
          (r.kind = .print → k.kind = .print → e'.flags = { e.flags with
            clipped := e.flags.clipped || (r.prints.get k.lane).any fun p => decide (s.cfg.clipLimit < p.clip)
            reject := e.flags.reject || (e.flags.underrun && !e.flags.withdrawn) })) ∧
      (r.kind ≠ .print → t.om = s.om ∧ t.rc = s.rc ∧ t.su = s.su ∧ t.store = s.store) ∧
      (r.kind = .print →
        let key (l : Lane) : EntryKey := ⟨some r.x0, l, .print⟩
        let flag (f : TrackFlags → TrackFlags) (l : Lane) (u : State) : State := { u with
          wt := { u.wt with track := u.wt.track.map fun e => if e.key = key l then { e with flags := f e.flags } else e } }
        let clips (l : Lane) (u : State) : State :=
          if (r.prints.get l).any fun p => decide (s.cfg.clipLimit < p.clip) then
            flag (fun f => { f with clipped := true }) l u
          else u
        let report (l : Lane) (u : State) : State :=
          match findEntry u (key l) with
          | some e =>
            if e.flags.underrun && !e.flags.withdrawn then
              let v := flag (fun f => { f with reject := true }) l u
              match e.ref with
              | some c => rejectReport .underrun c v
              | none => v
            else u
          | none => u
        let ended (b : LineBuffer) : LineBuffer := { b with
          held := none
          lines := b.lines.filter (·.forSlot)
          reading := b.reading.map fun q => if q.dest = .exposing then { q with dest := .discard } else q
          nextExp := 0 }
        let handOn (u : State) : State := { u with
          wt := { u.wt with
            track := u.wt.track.map fun e => if e.x0 = some r.x0 then { e with stage := next e.stage } else e }
          ee := { u.ee with
            expo := none
            buffers := ⟨ended u.ee.buffers.a, ended u.ee.buffers.b⟩
            continuity := true
            drive := [] } }
        exec .rowEnd s = .next (settle (handOn (report .b (report .a (clips .b (clips .a { s with work := {} })))))))

/-- The end of a row in RUNNING with a paper-out request pending: the request is cleared; with the paper still ended the
machine becomes PAUSING with cause PAPER_OUT, or goes on to PAUSED when that completes the drain; with the paper back it
stays RUNNING (R166). The same at the end of a slot row's lead-in (R70). That the request is taken before the slot row's
start is the model's choice (log 34).
The end of a row with the loop empty: a slot row that R63 lets start keeps the loop to itself; else a BLANK row starts at once
at X, with θ latched, the drift judged and the status block written as blankRowStarted says, or, the track table full, the
BLANK row that last started is extended (R74, R66, R65, R67).
A row's start at a full cut queue: the row before of the oldest boundary with no row after is lost, which prunes that
boundary, and the new boundary follows (R115). The row before of a new boundary is the started row whose end is the greatest
not beyond it, and none where a held boundary lies at or after that end or where no started row ends at or before it
(R113). That a row still in CUT or CONVEYOR is named too, also behind a row lost while exposing, is the model's choice
(log 36). -/
def Obligations.RowEndsAtRequestsAndEmptyLoop : Prop :=
  (∀ (s : State) (r : ExposingRow), s.ee.expo = some (.row r) → r.length ≤ (s.wt.x - r.x0).toNat → s.wt.x ≠ s.wt.y →
    s.mc.state = .running → s.mc.paperOutReq = true → StoreCanonical s →
    let i : Instr := if r.kind = .print then .rowEnd else .calibOrBlankRowEnd
    ∃ t, exec i s = .next t ∧ t.ee.expo = none ∧ t.ee.drive = [] ∧ lineKept s t ∧
      (s.wt.paperEnd = false →
        t.mc = { s.mc with paperOutReq := false } ∧ t.ee.continuity = true) ∧
      (s.wt.paperEnd = true → ((∃ e ∈ s.wt.track, e.kind ≠ .blank) ∨ s.su.conveyor ≠ []) →
        t.mc = { s.mc with state := .pausing, pauseCause := .paperOut, paperOutReq := false } ∧
          t.ee.continuity = true ∧ Memory.read8 t.store 0x200 = 3 ∧ Memory.read8 t.store 0x202 = 2) ∧
      (s.wt.paperEnd = true → (∀ e ∈ s.wt.track, e.kind = .blank) → s.su.conveyor = [] → noCondition s →
        t.mc = { s.mc with state := .paused, pauseCause := .paperOut, paperOutReq := false } ∧
          t.ee.continuity = false ∧ t.wt.track = [] ∧ told .paused 2 t ∧ Memory.read8 t.store 0x200 = 4)) ∧
  (∀ (s : State) (n : Nat), 4 ≤ n → s.ee.expo = some (.leadIn n false) → s.wt.x ≠ s.wt.y →
    s.mc.state = .running → s.mc.paperOutReq = true →
    let ended : EeState := { s.ee with expo := none, continuity := true, drive := [] }
    (s.wt.paperEnd = false → exec .leadInEnd s = .next (settle { s with
      ee := ended, mc := { s.mc with paperOutReq := false }, work := {} })) ∧
    (s.wt.paperEnd = true → ((∃ e ∈ s.wt.track, e.kind ≠ .blank) ∨ s.su.conveyor ≠ []) →
      exec .leadInEnd s = .next (settle { s with
        ee := ended, work := { status := true }
        mc := { s.mc with state := .pausing, pauseCause := .paperOut, paperOutReq := false } }))) ∧
  (∀ (s : State) (r : ExposingRow), s.ee.expo = some (.row r) → r.length ≤ (s.wt.x - r.x0).toNat → s.wt.x = s.wt.y →
    (s.mc.state = .running ∨ s.mc.state = .pausing) → s.mc.paperOutReq = false →
    let i : Instr := if r.kind = .print then .rowEnd else .calibOrBlankRowEnd
    let slotGoes : Prop := ∃ p, s.rc.slot = some p ∧ s.ee.hot = false ∧ p.length ≤ s.cfg.loopMax ∧ s.wt.track.length < 64
    ∃ t, exec i s = .next t ∧ t.mc = s.mc ∧ lineKept s t ∧ t.ee.continuity = true ∧
      (slotGoes → t.ee.expo = none) ∧
      (¬slotGoes → s.wt.track.length < 64 → s.ct.queue.length < 65 →
        ∃ q, t.ee.expo = some (.row q) ∧ q.kind = .blank ∧ q.x0 = s.wt.x ∧ q.length = s.cfg.minPiece ∧
          t.ct.queue.length = s.ct.queue.length + 1 ∧ blankRowStarted s t ∧
          ∃ e ∈ t.wt.track, e.kind = .blank ∧ e.x0 = some s.wt.x ∧ e.stage = .exposing ∧ e.length = s.cfg.minPiece) ∧
      (∀ e x, 64 ≤ s.wt.track.length → (s.wt.track.filter (·.x0.isSome)).getLast? = some e → e.kind = .blank →
        e.x0 = some x →
        t.ee.expo = some (.row { kind := .blank, x0 := x, length := e.length + s.cfg.minPiece, ctx := none }) ∧
          t.ct = s.ct ∧
          ∀ f ∈ t.wt.track, f.key = e.key → f.length = e.length + s.cfg.minPiece ∧ f.stage = .exposing)) ∧
  (∀ (b : Word) (s : State),
    let added (t : State) : State := { t with
      ct := { t.ct with
        queue := t.ct.queue ++ [{ pos := b, rowAfter := some b, rowBefore := rowBefore t.wt.track t.ct.queue b }] } }
    (s.ct.queue.length < 65 → addBoundary b s = added s) ∧
    ∀ q x, s.ct.queue.length = 65 → s.ct.queue.find? (fun q => decide (q.rowAfter = none)) = some q →
      q.rowBefore = some x → (∃ e ∈ s.wt.track, e.x0 = some x) →
      addBoundary b s = added (loseWhere .lost (fun e => decide (e.x0 = some x)) s) ∧
        (∀ e ∈ (addBoundary b s).wt.track, e ∈ s.wt.track ∧ e.x0 ≠ some x) ∧
        (addBoundary b s).ct.queue.length ≤ 65 ∧
        ∀ p ∈ (addBoundary b s).ct.queue, p.pos = b ∨ p.rowBefore ≠ some x ∧ p.rowAfter ≠ some x) ∧
  (∀ (track : List Entry) (held : List Boundary) (b x : Word),
    let ends (e : Entry) (y : Word) : Prop := e.x0 = some y ∧ reached b (y + lines e.length) = true
    (rowBefore track held b = some x → ∃ e ∈ track, ends e x ∧
      (∀ f ∈ track, ∀ y, ends f y → (b - (x + lines e.length)).toNat ≤ (b - (y + lines f.length)).toNat) ∧
      ∀ h ∈ held, reached h.pos (x + lines e.length) = false) ∧
    ((∀ f ∈ track, ∀ y, ¬ends f y) → rowBefore track held b = none) ∧
    ∀ e ∈ track, ∀ y, ends e y →
      (∀ f ∈ track, ∀ z, ends f z → (b - (y + lines e.length)).toNat ≤ (b - (z + lines f.length)).toNat) →
      ((∃ h ∈ held, reached h.pos (y + lines e.length) = true) → rowBefore track held b = none) ∧
        ((∀ h ∈ held, reached h.pos (y + lines e.length) = false) →
          ∃ f ∈ track, ∃ z, ends f z ∧ z + lines f.length = y + lines e.length ∧ rowBefore track held b = some z))

/-- HEAD_TEMPERATURE_SAMPLE, 250 ms after the last: the sample replaces it and, once a configuration is in force, a sample
above θ_max sets a clear head-hot hold and posts HEAD_HOT, and one at or below the cool threshold clears a set hold and
posts HEAD_COOL, the Row Composer's hold with it (R75, R76, R39). A value the sensor cannot read is refused. -/
def Obligations.TemperatureSampled : Prop :=
  ∀ (q : Nat) (s : State),
    (400 < q → exec (.headTemperatureSample q) s = .refused .sensorRange) ∧
    (q ≤ 400 → (s.cu.lineClock - s.ee.sampleAt).toNat < 250 → exec (.headTemperatureSample q) s = .next s) ∧
    (q ≤ 400 → 250 ≤ (s.cu.lineClock - s.ee.sampleAt).toNat →
      let s' : State := { s with ee := { s.ee with sample := q, sampleAt := s.ee.sampleAt + 250 }, work := {} }
      (s.conf = none → exec (.headTemperatureSample q) s = .next (settle s')) ∧
      ∀ c, s.conf = some c →
        (c.thetaMax < q → s.ee.hot = true → exec (.headTemperatureSample q) s = .next (settle s')) ∧
        (c.thetaMax < q → s.ee.hot = false → exec (.headTemperatureSample q) s = .next (settle (post .headHot 0
          { s' with ee := { s'.ee with hot := true }, rc := { s.rc with hot := true } }))) ∧
        (q ≤ c.thetaMax - 8 → s.ee.hot = true → exec (.headTemperatureSample q) s = .next (settle (askAttempt
          (post .headCool 0 { s' with ee := { s'.ee with hot := false }, rc := { s.rc with hot := false } })))) ∧
        (q ≤ c.thetaMax → (c.thetaMax - 8 < q ∨ s.ee.hot = false) →
          exec (.headTemperatureSample q) s = .next (settle s')))

/-! ## The web and the knife -/

/-- PROCESS_FEED_STEP in RUNNING and PAUSING: Y rises by one and the IN_LOOP entries whose row start it reaches move to
PROCESSING (R94, R96, R101). With the loop empty already Y stays and no entry moves, and with a row or lead-in exposing, or
the slot row able to start, the state is left as it was but for the line reads that can begin (R71): that F stops at 0 so
is the model's reading of R95 (log 21).
With the loop empty after it, nothing exposing, nothing able to start, the continuity mark set and a track entry free, a
BLANK row starts there at once, as blankRowStarted says, its entry with the row start and in EXPOSING, and behind its lead-in
without the mark (R66, R65, R70); with the table full the BLANK row that last started is extended (R67). In the other machine states the feed stands (R95). -/
def Obligations.ProcessFeedSteps : Prop :=
  ∀ s : State,
    (s.mc.state ≠ .running → s.mc.state ≠ .pausing → exec .processFeedStep s = .next s) ∧
    (s.mc.state = .running ∨ s.mc.state = .pausing →
      let stage (e : Entry) : Entry :=
        if e.stage = .inLoop ∧ e.x0 = some (s.wt.y + 1) then { e with stage := .processing } else e
      let moved : State :=
        if s.wt.x = s.wt.y then { s with work := {} }
        else { s with wt := { s.wt with y := s.wt.y + 1, track := s.wt.track.map stage }, work := {} }
      (s.wt.x = s.wt.y → (s.ee.expo.isSome ∨ slotCanGo s = true) →
        ∃ t, exec .processFeedStep s = .next t ∧
          t = { s with ee := { s.ee with buffers := (settle { s with work := {} }).ee.buffers }, work := {} }) ∧
      ((s.ee.expo.isSome ∨ moved.wt.x ≠ moved.wt.y ∨ slotCanGo moved = true) →
        exec .processFeedStep s = .next (settle moved)) ∧
      (moved.wt.x = moved.wt.y → s.ee.expo = none → slotCanGo moved = false → s.wt.track.length < 64 →
        (s.ee.continuity = true → s.ct.queue.length < 65 →
          ∃ t r, exec .processFeedStep s = .next t ∧ t.ee.expo = some (.row r) ∧ r.kind = .blank ∧ r.x0 = s.wt.x ∧
            r.length = s.cfg.minPiece ∧ t.wt.y = moved.wt.y ∧ t.wt.x = s.wt.x ∧
            (s.rc.slot.isSome → t.rc.slot = s.rc.slot) ∧
            t.ct.queue.length = s.ct.queue.length + 1 ∧ blankRowStarted s t ∧
            ∃ e ∈ t.wt.track, e.kind = .blank ∧ e.x0 = some s.wt.x ∧ e.stage = .exposing ∧ e.length = s.cfg.minPiece) ∧
        (s.ee.continuity = false → exec .processFeedStep s = .next (settle { moved with
          ee := { s.ee with expo := some (.leadIn 0 true) }
          wt := { moved.wt with
            track := moved.wt.track ++ [{ kind := .blank, lane := .a, length := s.cfg.minPiece }] } }))) ∧
      (moved.wt.x = moved.wt.y → s.ee.expo = none → slotCanGo moved = false → 64 ≤ s.wt.track.length →
        ∀ e x0, (s.wt.track.filter (·.x0.isSome)).getLast? = some e → e.kind = .blank → e.x0 = some x0 →
          ∃ t, exec .processFeedStep s = .next t ∧ t.ee.expo = some (.row
              { kind := .blank, x0 := x0, length := e.length + s.cfg.minPiece, ctx := none }) ∧
            t.wt.y = moved.wt.y ∧ t.wt.track.length = s.wt.track.length ∧ t.ct = s.ct ∧ t.store = s.store ∧
            ∀ e' ∈ t.wt.track, e'.key = e.key → e'.length = e.length + s.cfg.minPiece ∧ e'.stage = .exposing))

/-- MARK_WINDOW_OPEN opens the earliest window AHEAD that Y has reached (R116). MARK_REPORT is given to the earliest boundary
that is watched and whose window holds Y_obs: it is SEEN with its offset, its window closes and the miss count is 0;
a report within no such window changes nothing (R117).
MARK_MISSED: the earliest watched boundary whose window Y has passed is MISSED with offset 0, the PRINT entries of its
row after are flagged MARK_MISSED, and the miss count rises (R118); the second in a row sets MARKS_LOST, which faults the
machine (R119): the head stops and its buffers empty, what exposes or is in the drum is lost and reported, as EntriesRemoved
says, and then the slot row is returned, as FaultEntered says; entries of other stages and the conveyor stay, FAULT is posted
and the status block written (R169, R107, R108, R77). That the losses are taken before the return is the model's order
(log 30). -/
def Obligations.MarksSeenAndMissed : Prop :=
  (∀ (s : State), (s.mc.state = .running ∨ s.mc.state = .pausing) →
    let put (i : Nat) (b : Boundary) (misses : Nat) : State := { s with
      ct := { queue := s.ct.queue.set i b, misses := misses }, work := {} }
    (∀ i b, firstBoundary s (fun b => decide (b.window = .ahead) &&
          reached s.wt.y (b.pos + lines s.cfg.lMk - lines s.cfg.markWin)) i b →
        exec .markWindowOpen s = .next (settle (put i { b with window := .opened } s.ct.misses))) ∧
    ∀ y : Word,
      let takes (b : Boundary) : Bool := decide (b.window = .opened) && decide (b.mark = .pending) &&
        decide ((y - (b.pos + lines s.cfg.lMk - lines s.cfg.markWin)).toNat ≤ 2 * s.cfg.markWin)
      (∀ i b, firstBoundary s takes i b → exec (.markReport y) s = .next (settle (put i
        { b with mark := .seen, window := .closed, delta := (y - (b.pos + lines s.cfg.lMk)).toInt } 0))) ∧
      ((∀ b ∈ s.ct.queue, takes b = false) → exec (.markReport y) s = .next s)) ∧
  (∀ (s : State) (i : Nat) (b : Boundary), (s.mc.state = .running ∨ s.mc.state = .pausing) →
    firstBoundary s (fun b => decide (b.window = .opened) && decide (b.mark = .pending) &&
      reached s.wt.y (b.pos + lines s.cfg.lMk + lines s.cfg.markWin + 1)) i b →
    let b' : Boundary := { b with mark := .missed, delta := 0, window := .closed }
    let flag (e : Entry) : Entry :=
      if e.kind = .print ∧ e.x0.isSome ∧ e.x0 = b.rowAfter then { e with flags := { e.flags with markMissed := true } }
      else e
    (s.ct.misses = 0 → exec .markMissed s = .next (settle { s with
      ct := { queue := s.ct.queue.set i b', misses := 1 }
      wt := { s.wt with track := s.wt.track.map flag }, work := {} })) ∧
    (1 ≤ s.ct.misses → s.ct.misses ≤ 2 →
      ∃ t, exec .markMissed s = .next t ∧ t.mc.state = .faulted ∧ t.mc.faultCause = .marksLost ∧
        t.mc.pauseCause = .noPause ∧ t.mc.convStop = s.mc.convStop ∧ t.ct.misses = 2 ∧ t.ct.marksLost = true ∧
        t.wt.y = s.wt.y ∧ t.wt.x = s.wt.x ∧ t.ee.expo = none ∧ t.ee.continuity = false ∧ told .fault 4 t ∧
        (∀ e ∈ t.wt.track, e.stage ≠ .exposing ∧ e.stage ≠ .processing) ∧
        (let spoiled (e : Entry) : Bool := decide (e.stage = .exposing ∨ e.stage = .processing);
          t.rc.slot = none ∧ t.su.late = s.su.late ∧ lineKept s t ∧
          (∀ e ∈ t.wt.track, ∃ f ∈ s.wt.track, e = flag f ∧ spoiled f = false) ∧
          (∀ e ∈ s.wt.track, e.x0.isSome → (∀ f ∈ s.wt.track, f.key = e.key → spoiled f = false) →
            flag e ∈ t.wt.track) ∧
          (StoreCanonical s → Memory.read8 t.store 0x200 = 5 ∧ Memory.read8 t.store 0x201 = 4) ∧
          ((∀ e ∈ s.wt.track, e.key ≠ ⟨none, .a, .blank⟩) →
            t = settle (askStatus (post .fault 4 (returnSlot (loseWhere .lost spoiled { s with
              ct := { queue := s.ct.queue.set i b', misses := 2 }
              wt := { s.wt with track := s.wt.track.map flag }
              mc :=
                { state := .faulted, faultCause := .marksLost, pauseCause := .noPause, paperOutReq := false
                  convStop := s.mc.convStop }
              ee :=
                { s.ee with
                  expo := none, continuity := false, drive := []
                  buffers := ⟨s.ee.buffers.a.emptied, s.ee.buffers.b.emptied⟩ }
              work := {} }))))))))

/-- KNIFE_FIRE, for the head of the cut queue once Y has reached its knife position: the boundary leaves the queue; with no
row before, the piece is waste and nothing else changes (R121); a PRINT or CALIB row before in PROCESSING moves to CUT and
is handed to the sorter in track order, lane A first (R122, R102); a BLANK one leaves the track table (R102). -/
def Obligations.KnifeFires : Prop :=
  ∀ (s : State) (b : Boundary) (rest : List Boundary), (s.mc.state = .running ∨ s.mc.state = .pausing) →
    s.ct.queue = b :: rest → b.mark ≠ .pending →
    reached s.wt.y (b.pos + lines s.cfg.lCut + BitVec.ofInt 32 b.delta) = true →
    (b.rowBefore = none → exec .knifeFire s = .next (settle { s with ct := { s.ct with queue := rest }, work := {} })) ∧
    ∀ x, b.rowBefore = some x →
      ((∀ e ∈ s.wt.track, e.x0 = some x → e.stage = .processing ∧ e.kind ≠ .blank) →
        exec .knifeFire s = .next (settle { s with
          ct := { s.ct with queue := rest }
          wt := { s.wt with
            track := s.wt.track.map fun e => if e.x0 = some x then { e with stage := .cut } else e }
          su := { s.su with
            awaiting := s.su.awaiting ++ (s.wt.track.filter fun e => decide (e.x0 = some x)).map (·.key) }
          work := {} })) ∧
      ((∀ e ∈ s.wt.track, e.x0 = some x → e.kind = .blank ∧ e.ref = none ∧ e.stage = .processing) →
        ∃ t, exec .knifeFire s = .next t ∧ (∀ e ∈ t.wt.track, e.x0 ≠ some x) ∧ t.wt.y = s.wt.y ∧
          (∀ e ∈ s.wt.track, e.x0 ≠ some x → e ∈ t.wt.track) ∧ lineKept s t ∧ t.mc = s.mc ∧
          (rest.all (fun q => decide (q.rowBefore ≠ some x ∧ q.rowAfter ≠ some x)) = true → t.ct.queue = rest))

/-! ## The sorter -/

/-- PIECE_AT_DIVERTER, the conveyor running and a piece awaiting: a piece whose entry is gone is dropped; a CALIB piece or a
REJECT or WITHDRAWN print goes to the reject tray; a live print to its candidate bin, whose routed count rises, or to the
catch tray with SPLIT when that bin's door is open or no place qualifies (R131, R132, R133). With the conveyor queue full
the piece is reported CONVEYOR_FULL with the destination it would have had, lost and removed (R133); that no split is
posted for it is the model's reading (log 17). That the piece at the
diverter is the one handed over first is the model's reading (log 19). -/
def Obligations.PiecesRouted : Prop :=
  ∀ (s : State) (k : EntryKey) (rest : List EntryKey), s.mc.state ≠ .cleared → s.mc.convStop = false →
    s.su.awaiting = k :: rest →
    let placed (e : Entry) (d : Fin 34) (u : State) : State := { u with
      wt := { u.wt with
        track := u.wt.track.map fun x => if x.key = e.key then { x with stage := .conveyor } else x }
      su := { u.su with conveyor := s.su.conveyor ++ [{ piece := e.key, dest := d, stamp := s.cu.lineClock }] } }
    let s' : State := { s with su := { s.su with awaiting := rest }, work := {} }
    let qualifies (w : Owner) (p : BinPlace) : Bool :=
      let b := s.su.bins[p.bin]
      !p.early && decide (b.owner = some w) && (decide (b.state = .reserved) || decide (b.state = .filling))
        && decide (b.delivered + b.routed < s.cfg.binCap)
    let splitOff (e : Entry) (n : Word) : State := post .splitToCatch n { s' with wt := { s.wt with
        track := s.wt.track.map fun x =>
          if x.key = e.key then { x with flags := { x.flags with split := true } } else x } }
    (findEntry s k = none → exec .pieceAtDiverter s = .next (settle s')) ∧
    ∀ e, findEntry s k = some e →
      (s.su.conveyor.length < 8 →
        (e.kind ≠ .print ∨ e.flags.reject = true ∨ e.flags.withdrawn = true →
          exec .pieceAtDiverter s = .next (settle (placed e 32 s'))) ∧
        ∀ r o, e.ref = some r → e.live = true → orderIn s r.slot r.number = some o →
          let owner : Owner := { slot := r.slot, number := r.number }
          (∀ p, o.bins.find? (qualifies owner) = some p →
            (s.su.bins[p.bin].doorOpen = false → exec .pieceAtDiverter s = .next (settle (placed e (destOfBin p.bin)
              (setBin p.bin { s.su.bins[p.bin] with routed := s.su.bins[p.bin].routed + 1 } s')))) ∧
            (s.su.bins[p.bin].doorOpen = true → exec .pieceAtDiverter s =
              .next (settle (placed e 33 (splitOff e (binSubject p.bin)))))) ∧
          (o.bins.find? (qualifies owner) = none → ∀ p, o.bins.head? = some p →
            exec .pieceAtDiverter s = .next (settle (placed e 33 (splitOff e (binSubject p.bin)))))) ∧
      (8 ≤ s.su.conveyor.length → k.x0.isSome →
        ∃ t, exec .pieceAtDiverter s = .next t ∧ (∀ x ∈ t.wt.track, x.key ≠ k) ∧
          (∀ x ∈ s.wt.track, x.key ≠ k → x ∈ t.wt.track) ∧ lineKept s t ∧ t.mc = s.mc ∧
          let overflows (d : Fin 34) : Prop := told .conveyorFull (destSubject d) t ∧
            t = settle (loseEntry .conveyorFull (post .conveyorFull (destSubject d) s') k)
          (e.kind ≠ .print ∨ e.flags.reject = true ∨ e.flags.withdrawn = true → overflows 32) ∧
          ∀ r o, e.ref = some r → e.live = true → orderIn s r.slot r.number = some o →
            let owner : Owner := { slot := r.slot, number := r.number }
            (∀ p, o.bins.find? (qualifies owner) = some p →
              (s.su.bins[p.bin].doorOpen = false → overflows (destOfBin p.bin)) ∧
              (s.su.bins[p.bin].doorOpen = true → overflows 33)) ∧
            (o.bins.find? (qualifies owner) = none → overflows 33))

/-- ARRIVAL while the conveyor runs: with a late mark the arrival is a stray and takes one mark; with no entry for the
destination it is a stray; otherwise it is matched to the oldest entry, which leaves the queue: at the reject tray the entry
is removed, at the catch tray a good delivery is reported first, and at a bin the bin's counts change before that
(R134, R135, R137). While the conveyor stands no arrival is taken (R142). -/
def Obligations.ArrivalsMatched : Prop :=
  ∀ (d : Fin 34) (s : State),
    (s.mc.state = .cleared ∨ s.mc.convStop = true → exec (.arrival d) s = .next s) ∧
    (s.mc.state ≠ .cleared → s.mc.convStop = false →
      let s' : State := { s with work := {} }
      (∀ n, s.su.late[d].count = n + 1 → exec (.arrival d) s =
        .next (settle (post .strayPrint (destSubject d) (setLate d { s.su.late[d] with count := n } s')))) ∧
      (s.su.late[d].count = 0 →
        ((∀ c ∈ s.su.conveyor, c.dest ≠ d) →
          exec (.arrival d) s = .next (settle (post .strayPrint (destSubject d) s'))) ∧
        ∀ c, s.su.conveyor.find? (fun c => decide (c.dest = d)) = some c →
          let u : State := { s' with
            su := { s.su with conveyor := s.su.conveyor.filter fun x => !decide (x.piece = c.piece) } }
          (d = 32 → exec (.arrival d) s = .next (settle (removeEntry c.piece u))) ∧
          (d = 33 → exec (.arrival d) s = .next (settle (removeEntry c.piece (deliver c.piece true u)))) ∧
          ∀ i : Fin 32, d.1 = i.1 →
            let b := s.su.bins[i]
            let filled : BinState := if b.delivered + 1 = s.cfg.binCap then .full else .filling
            let b' : Bin := { b with
              routed := b.routed - 1, delivered := b.delivered + 1
              state := if b.state = .reserved ∨ b.state = .filling then filled else b.state }
            exec (.arrival d) s = .next (settle (removeEntry c.piece (deliver c.piece false (setBin i b' u))))))

/-- What a write of a record's progress part leaves in the record, and that an order changed has its record written (R1).
A good delivery raises the order's good count and the item's, for the catch tray the catch count and the SPLIT flag,
carries the entry's flags to the item, adds one to the tally of the item's kind, writes the record, and judges the close
(R18, R152); a copy counted failed raises the order's failed count and the item's, writes the record, and judges the close
(R19); for an order no longer in its slot either is ignored (R20). A delivery is reported with the flags that its track entry
carries (R135). -/
def Obligations.ReportsCounted : Prop :=
  (∀ (a : Word) (p : Progress) (s : State), StoreCanonical s →
    let t := writeRecord a p s
    let m := t.store
    let b := a.toNat
    t = { s with store := m } ∧
      storeKept (fun x => b + 0x10 ≤ x ∧ x < b + 0x36 ∨
        ∃ n < p.items.length, b + 64 + 32 * n + 0x10 ≤ x ∧ x < b + 64 + 32 * n + 0x15) s t ∧
      Memory.read16 m (b + 0x10) = p.composed % 65536 ∧ Memory.read16 m (b + 0x12) = p.good % 65536 ∧
      Memory.read16 m (b + 0x14) = p.rejected % 65536 ∧ Memory.read16 m (b + 0x16) = p.failed % 65536 ∧
      Memory.read16 m (b + 0x18) = p.catchCount % 65536 ∧ Memory.read8 m (b + 0x1A) = p.price.flags ∧
      (∀ j < 4, Memory.read8 m (b + 0x1C + j) = (p.bins[j]?).elim 255 fun x => x.bin.1 + if x.early then 64 else 0) ∧
      Memory.read32 m (b + 0x20) = p.price.subtotal % 4294967296 ∧
      Memory.read32 m (b + 0x24) = p.price.discount % 4294967296 ∧
      Memory.read32 m (b + 0x28) = p.price.total % 4294967296 ∧
      Memory.readWord m (b + 0x2C) = p.gen.getD 0 ∧ (∀ x, p.stamp = some x → Memory.readWord m (b + 0x30) = x) ∧
      Memory.read8 m (b + 0x34) = p.state.code ∧ Memory.read8 m (b + 0x35) = p.reason.code ∧
      ∀ n x, p.items[n]? = some x → Memory.read16 m (b + 64 + 32 * n + 0x10) = x.good % 65536 ∧
        Memory.read16 m (b + 64 + 32 * n + 0x12) = x.failed % 65536 ∧
        Memory.read8 m (b + 64 + 32 * n + 0x14) =
          (if x.underrun then 1 else 0) + (if x.markMissed then 2 else 0) + (if x.clipped then 4 else 0)
            + (if x.uncalibrated then 8 else 0) + (if x.split then 16 else 0)) ∧
  (∀ (i : Fin 8) (o : OpenOrder) (s : State), putOrder i o s = writeRecord o.addr
    { composed := o.composed, good := o.good, rejected := o.rejected, failed := o.failed, catchCount := o.catchCount
      bins := o.bins, gen := o.gen, reason := .noReason, items := o.items
      state := match o.phase with
        | .opened => .opened
        | .composed => .composed
        | .withdrawing _ => .withdrawing }
    { s with om := { s.om with table := s.om.table.set i.1 (some o) i.2 } }) ∧
  (∀ (r : CopyRef) (s : State), orderIn s r.slot r.number = none →
    countFailed r s = s ∧ ∀ toCatch f, countDelivery r toCatch f s = s) ∧
  (∀ (r : CopyRef) (o : OpenOrder) (s : State), orderIn s r.slot r.number = some o →
    countFailed r s = judgeClose r.slot r.number (putOrder r.slot
      { o with
        failed := o.failed + 1
        items := o.items.modify r.item fun i => { i with failed := i.failed + 1 } } s) ∧
    ∀ (toCatch : Bool) (f : TrackFlags) (k : ItemKind), s.pu.orders[r.slot].kinds[r.item]? = some k →
      let old := s.pu.orders[r.slot].tally
      ∃ tally, countDelivery r toCatch f s = judgeClose r.slot r.number
          { putOrder r.slot
              { o with
                good := o.good + 1, catchCount := if toCatch then o.catchCount + 1 else o.catchCount
                items := o.items.modify r.item fun i => { i with
                  good := i.good + 1, split := i.split || toCatch, markMissed := i.markMissed || f.markMissed
                  clipped := i.clipped || f.clipped, uncalibrated := i.uncalibrated || f.uncalibrated } } s with
            pu := { s.pu with
              orders := s.pu.orders.set r.slot.1 { s.pu.orders[r.slot] with tally := tally } r.slot.2 } } ∧
        tally.map (·.kind) = (if k ∈ old.map (·.kind) then old.map (·.kind) else old.map (·.kind) ++ [k]) ∧
        (tally.map (·.qty)).sum = (old.map (·.qty)).sum + 1 ∧ (∀ e ∈ old, e.kind ≠ k → e ∈ tally)) ∧
  (∀ (k : EntryKey) (toCatch : Bool) (s : State) (e : Entry) (r : CopyRef), findEntry s k = some e → e.ref = some r →
    deliver k toCatch s = countDelivery r toCatch e.flags s)

/-- An order closes when its good, failed and dropped copies make up its prints and it has no live track entry and no
remake, or, WITHDRAWING, when it has no track entry and no remake; until then nothing happens. At the close its record shows
its price, its generation, the line clock and then its terminal state, its slot is free, its bins are settled, and
ORDER_DONE is posted (R21, R24, R130). The hold count of the generation it holds goes down by one, no other generation
changes, and a RETIRING one whose count so reaches 0 becomes EMPTY with PRICES_RETIRED posted (R21, R150). -/
def Obligations.OrderCloses : Prop :=
  ∀ (i : Fin 8) (o : OpenOrder) (s : State), s.om.table[i] = some o →
    let noRemake : Prop := ∀ r ∈ s.rc.remakes, ¬(r.slot = i ∧ r.number = o.number)
    let leaving : Bool := match o.phase with
      | .withdrawing _ => true
      | .opened | .composed => false
    let finished : Prop := noRemake ∧
      (leaving = true → ∀ e ∈ s.wt.track, e.ofOrder i o.number = false) ∧
      (leaving = false → o.good + o.failed + o.dropped = o.nPrints ∧
        ∀ e ∈ s.wt.track, e.ofOrder i o.number = true → e.live = false)
    (¬finished → judgeClose i o.number s = s) ∧
    (finished → StoreCanonical s → validAddress o.addr →
      let t := judgeClose i o.number s
      let a := o.addr.toNat
      let p := priceOrder s i o
      t.om.table[i] = none ∧ (∀ j, j ≠ i → t.om.table[j] = s.om.table[j]) ∧
        Memory.read8 t.store (a + 0x34) = (if leaving then 6 else 5) ∧
        Memory.read16 t.store (a + 0x12) = o.good % 65536 ∧ Memory.read8 t.store (a + 0x1A) = p.flags ∧
        Memory.read32 t.store (a + 0x20) = p.subtotal % 4294967296 ∧
        Memory.read32 t.store (a + 0x24) = p.discount % 4294967296 ∧
        Memory.read32 t.store (a + 0x28) = p.total % 4294967296 ∧
        Memory.readWord t.store (a + 0x2C) = o.gen.getD 0 ∧ Memory.readWord t.store (a + 0x30) = s.cu.lineClock ∧
        told .orderDone o.addr t ∧ t.pu.orders[i] = {} ∧ t.rc = s.rc ∧ t.wt = s.wt ∧ t.mc = s.mc ∧
        t.om.queues = s.om.queues ∧
        (∀ j : Fin 2, (∀ g, s.pu.gens[j] = some g → o.gen ≠ some g.number) → t.pu.gens[j] = s.pu.gens[j]) ∧
        (∀ (j : Fin 2) (g : GenSlot), s.pu.gens[j] = some g → o.gen = some g.number →
          (∀ k : Fin 2, k.1 < j.1 → ∀ h, s.pu.gens[k] = some h → h.number ≠ g.number) →
          (g.current = true ∨ 1 < g.hold → t.pu.gens[j] = some { g with hold := g.hold - 1 }) ∧
            (g.current = false → g.hold ≤ 1 → t.pu.gens[j] = none ∧ told .pricesRetired g.number t)) ∧
        (∀ b : Fin 32, (∀ q ∈ o.bins, q.bin ≠ b) ∨ s.su.bins[b].owner ≠ some { slot := i, number := o.number } →
          t.su.bins[b] = s.su.bins[b]) ∧
        ∀ q ∈ o.bins, s.su.bins[q.bin].owner = some { slot := i, number := o.number } →
          (s.su.bins[q.bin].state = .reserved → t.su.bins[q.bin].state = .free ∧ t.su.bins[q.bin].owner = none) ∧
          (s.su.bins[q.bin].state = .filling ∨ s.su.bins[q.bin].state = .full →
            t.su.bins[q.bin].state = .complete ∧ t.su.bins[q.bin].owner = none ∧ t.su.bins[q.bin].routed = 0 ∧
              t.su.bins[q.bin].delivered = s.su.bins[q.bin].delivered ∧
              (s.su.bins[q.bin].doorOpen = false → s.cfg.unloadLimit ≠ 0 → t.su.bins[q.bin].countdown =
                some (s.cu.lineClock + lines (s.cfg.unloadLimit * 1000)))))

/-- MISROUTED, the oldest conveyor entry having waited CONFIRM_LIMIT while the conveyor runs: the entry leaves the queue, the
routed count of a destination that is a bin goes down by one, its state standing, the destination takes a late mark with a
fresh expiry, MISROUTED is posted, and the track entry is lost with cause MISROUTED: flagged LOST, reported and removed, as
EntriesRemoved says (R136, R137).
LATE_EXPIRY clears a destination's late count once its expiry is reached (R137). -/
def Obligations.MisroutesAndLateMarks : Prop :=
  ∀ (s : State), s.mc.state ≠ .cleared → s.mc.convStop = false →
    (∀ c, s.su.conveyor.head? = some c → c.piece.x0.isSome →
      s.cfg.confirmLimit ≤ (s.cu.lineClock - c.stamp).toNat →
      ∃ t, exec .misrouted s = .next t ∧ (∀ x ∈ t.su.conveyor, x.piece ≠ c.piece) ∧
        (∀ x ∈ s.su.conveyor, x.piece ≠ c.piece → x ∈ t.su.conveyor) ∧ (∀ e ∈ t.wt.track, e.key ≠ c.piece) ∧
        told .misrouted (destSubject c.dest) t ∧ lineKept s t ∧ t.mc = s.mc ∧ t.rc.mask = s.rc.mask ∧
        t.su.late[c.dest] =
          { count := min 8 (s.su.late[c.dest].count + 1), expiry := s.cu.lineClock + lines s.cfg.confirmLimit } ∧
        (∀ d, d ≠ c.dest → t.su.late[d] = s.su.late[d]) ∧
        ∃ v,
          v = { s with
            su := { s.su with
              bins := v.su.bins
              conveyor := s.su.conveyor.filter fun x => !decide (x.piece = c.piece)
              late := t.su.late }
            work := {} } ∧
          (∀ i : Fin 32, v.su.bins[i] =
            if c.dest.1 = i.1 then { s.su.bins[i] with routed := s.su.bins[i].routed - 1 } else s.su.bins[i]) ∧
          t = settle (loseEntry .misrouted (post .misrouted (destSubject c.dest) v) c.piece)) ∧
    (∀ c, s.su.conveyor.head? = some c → (s.cu.lineClock - c.stamp).toNat < s.cfg.confirmLimit →
      exec .misrouted s = .next s) ∧
    ∀ d : Fin 34, 0 < s.su.late[d].count → reached s.cu.lineClock s.su.late[d].expiry = true →
      exec (.lateExpiry d) s =
        .next (settle (setLate d { s.su.late[d] with count := 0 } { s with work := {} }))

/-- DOOR_OPEN and DOOR_CLOSE set the door flag from the sensor, with the effect of the bin's state (R138, R139); BIN_WAITING
ends a countdown whose expiry is reached and posts the bin (R140).
RELEASE_BIN is judged in the order of R141 and frees a COMPLETE bin, whose door flag is kept. A bin number that names no
bin of the table is refused as one not below BIN_COUNT. -/
def Obligations.BinsUnloaded : Prop :=
  (∀ (i : Fin 32) (s : State),
    let b := s.su.bins[i]
    let door (v : Bool) (b : Bin) : State := { s with
      pins := { s.pins with doors := s.pins.doors.set i.1 v i.2 }
      su := { s.su with bins := s.su.bins.set i.1 b i.2 }, work := {} }
    let freed : Bin := { b with
      state := .free, owner := none, delivered := 0, routed := 0, doorOpen := false, countdown := none }
    (s.pins.doors[i] = false →
      (b.state = .free ∨ b.state = .full →
        exec (.doorOpen i) s = .next (settle (door true { b with doorOpen := true }))) ∧
      (b.state = .reserved ∨ b.state = .filling → exec (.doorOpen i) s =
        .next (settle (post .binDisturbed (binSubject i) (door true { b with doorOpen := true })))) ∧
      (b.state = .complete →
        exec (.doorOpen i) s = .next (settle (door true { b with doorOpen := true, countdown := none })))) ∧
    (s.pins.doors[i] = true →
      (b.state = .free ∨ b.state = .reserved ∨ b.state = .filling →
        exec (.doorClose i) s = .next (settle (door false { b with doorOpen := false }))) ∧
      (b.state = .complete → exec (.doorClose i) s = .next (settle (askAttempt (door false freed)))) ∧
      (b.state = .full → b.owner = none → exec (.doorClose i) s = .next (settle (askAttempt (door false freed)))) ∧
      (∀ o x, b.state = .full → b.owner = some o → orderIn s o.slot o.number = some x → exec (.doorClose i) s =
        .next (settle (putOrder o.slot
          { x with bins := x.bins.map fun p => if p.bin = i then { p with early := true } else p }
          (askAttempt (door false freed)))))) ∧
    (∀ e, b.countdown = some e → reached s.cu.lineClock e = true → exec (.binWaiting i) s =
      .next (settle (post .binWaiting (binSubject i) (setBin i { b with countdown := none } { s with work := {} }))))) ∧
  (∀ (n : Word) (s : State), StoreCanonical s → s.cu.job = none →
    let u := offered1 .releaseBin n s
    (s.mc.state = .cleared → exec (.releaseBin n) s = .next (replied .releaseBin .illegalState 0 u)) ∧
    (s.mc.state ≠ .cleared →
      (s.cfg.binCount ≤ n.toNat ∨ 32 ≤ n.toNat →
        exec (.releaseBin n) s = .next (replied .releaseBin .badOperand 0 u)) ∧
      ∀ i : Fin 32, n.toNat = i.1 → i.1 < s.cfg.binCount →
        (s.su.bins[i].state ≠ .complete → exec (.releaseBin n) s = .next (replied .releaseBin .illegalState 0 u)) ∧
        (s.su.bins[i].state = .complete → exec (.releaseBin n) s = .next (replied .releaseBin .done 0 (askAttempt
          (setBin i { s.su.bins[i] with
            state := .free, owner := none, delivered := 0, routed := 0, countdown := none } u))))))

/-! ## Prices -/

/-- LOAD_PRICES is judged in the order of R147; at the end of its reading a table that fails a check is refused with the
lowest offset and changes nothing (R148), and one that passes becomes the CURRENT generation with the counter's number and
no holds, the one before it RETIRING, or EMPTY when unheld (R149). With no such reading there is nothing to complete. That the table is checked and
installed as the store holds it at the completion of the reading is the model's choice (log 11). FieldsChecked says what
the checks are. -/
def Obligations.PricesLoaded : Prop :=
  ∀ (a : Word) (s : State),
    (StoreCanonical s → s.cu.job = none →
      let u := offered1 .loadPrices a s
      (s.mc.state = .cleared → exec (.loadPrices a) s = .next (replied .loadPrices .illegalState 0 u)) ∧
      (s.mc.state ≠ .cleared →
        (¬(a.toNat % 64 = 0 ∧ 4096 ≤ a.toNat ∧ a.toNat + 16 ≤ 268435456) →
          exec (.loadPrices a) s = .next (replied .loadPrices .badOperand 0 u)) ∧
        (a.toNat % 64 = 0 → 4096 ≤ a.toNat → a.toNat + 16 ≤ 268435456 →
          ((∀ i : Fin 2, s.pu.gens[i].isSome) →
            exec (.loadPrices a) s = .next (replied .loadPrices .pricesBusy 0 u)) ∧
          ((∃ i : Fin 2, s.pu.gens[i] = none) → exec (.loadPrices a) s =
            .next (settle { u with cu := { u.cu with job := some (.loadPrices a) } }))))) ∧
    (s.cu.job = some (.loadPrices a) →
      (∀ o, lowestFailing (priceChecks s.store a.toNat) = some o →
        exec .loadPricesComplete s = .next (ended .loadPrices .badRecord o { s with work := {} })) ∧
      (lowestFailing (priceChecks s.store a.toNat) = none → (∃ i : Fin 2, s.pu.gens[i] = none) → StoreCanonical s →
        ∃ t, exec .loadPricesComplete s = .next t ∧ answeredWith 11 .done 0 t ∧ lineKept s t ∧ t.mc = s.mc ∧
          t.om = s.om ∧ t.rc = s.rc ∧ t.wt = s.wt ∧ t.su = s.su ∧ t.pu.orders = s.pu.orders ∧
          t.pu.counter = (if s.pu.counter = 4294967295 then 1 else s.pu.counter + 1) ∧
          (∃ i : Fin 2, s.pu.gens[i] = none ∧ t.pu.gens[i] = some
            { current := true, number := s.pu.counter, table := parsePrices s.store a.toNat, hold := 0 }) ∧
          ∀ (i : Fin 2) (g : GenSlot), s.pu.gens[i] = some g → g.current = true →
            (g.hold = 0 → t.pu.gens[i] = none ∧ told .pricesRetired g.number t) ∧
            (g.hold ≠ 0 → t.pu.gens[i] = some { g with current := false }))) ∧
    ((∀ x, s.cu.job ≠ some (.loadPrices x)) → exec .loadPricesComplete s = .next s)

/-- The close computation: the amounts sum to the subtotal, the discount lies within it, the total is what is left, raised to
the minimum charge when the subtotal is positive, and 0 when it is 0 (R154, R156, R157); a code of 0 takes nothing off, and
an unknown or unmet promotion sets its flag (R155). -/
def Obligations.PriceOfTally : Prop :=
  ∀ (t : PriceTable) (tier promo : Nat) (tally : List TallyEntry),
    (∀ p ∈ t.promos, p.kind = .percent → p.value ≤ 100) →
    let p := priceTally t tier promo tally
    let unit (e : TallyEntry) : Nat := (lineFor t.lines e.kind tier).elim 0 fun l => l.unitPrice e.qty
    p.subtotal = (tally.map fun e => e.qty * unit e).sum ∧ p.discount ≤ p.subtotal ∧
      (p.subtotal = 0 → p.total = 0 ∧ p.minCharge = false) ∧
      (p.subtotal ≠ 0 → p.total = max t.minCharge (p.subtotal - p.discount) ∧
        (p.minCharge = true ↔ p.subtotal - p.discount < t.minCharge)) ∧
      (p.noPriceLine = true ↔ ∃ e ∈ tally, lineFor t.lines e.kind tier = none) ∧
      (promo = 0 → p.discount = 0 ∧ p.promoUnknown = false ∧ p.promoNotMet = false) ∧
      (promo ≠ 0 → (∀ q ∈ t.promos, q.code ≠ promo) →
        p.discount = 0 ∧ p.promoUnknown = true ∧ p.promoNotMet = false) ∧
      ∀ q, promo ≠ 0 → t.promos.find? (fun q => decide (q.code = promo)) = some q → p.promoUnknown = false ∧
        (p.subtotal < q.qualifying → p.discount = 0 ∧ p.promoNotMet = true) ∧
        (q.qualifying ≤ p.subtotal → p.promoNotMet = false ∧
          let masked := tally.filter fun e => q.mask.getLsbD e.kind.group
          let amount := (masked.map fun e => e.qty * unit e).sum
          (q.kind = .percent → p.discount = (amount * q.value + 50) / 100) ∧
          (q.kind = .freeNth → p.discount = (masked.map fun e => e.qty / q.value * unit e).sum) ∧
          (q.kind = .fixedOff → p.discount = min q.value amount))

/-- The price line used for a kind and tier: at the lowest of the four levels of R153 at which any line matches, the first in
table order; none when no line matches. The unit price of a quantity: that of the break with the greatest minimum not above
it, and the base price when there is none (R154).
The price at a close: nothing but WITHDRAWN_UNCHARGED for an order withdrawn without charge (R24, R159); nothing but
NO_PRICE_LINE, and PROMO_UNKNOWN for a nonzero code, for an order that took no generation (R158); else the price of its tally
under its own generation's table, a withdrawn order with charge like any other (R159). -/
def Obligations.PricesChosen : Prop :=
  (∀ (ls : List PriceLine) (k : ItemKind) (tier : Nat),
    let at? (n : Nat) (l : PriceLine) : Prop := l.group = k.group ∧
      (n = 1 ∧ l.surface = some k.surface ∧ l.tier = some tier ∨ n = 2 ∧ l.surface = some k.surface ∧ l.tier = none ∨
        n = 3 ∧ l.surface = none ∧ l.tier = some tier ∨ n = 4 ∧ l.surface = none ∧ l.tier = none)
    (∀ (n i : Nat) (l : PriceLine), ls[i]? = some l → at? n l → (∀ m < n, ∀ x ∈ ls, ¬at? m x) →
      (∀ j < i, ∀ x, ls[j]? = some x → ¬at? n x) → lineFor ls k tier = some l) ∧
    (lineFor ls k tier = none ↔ ∀ n, ∀ l ∈ ls, ¬at? n l)) ∧
  (∀ (l : PriceLine) (q : Nat), l.breaks.Pairwise (fun a b => a.minimum < b.minimum) →
    (∀ b ∈ l.breaks, b.minimum ≤ q → (∀ x ∈ l.breaks, x.minimum ≤ q → x.minimum ≤ b.minimum) →
      l.unitPrice q = b.price) ∧
    ((∀ b ∈ l.breaks, q < b.minimum) → l.unitPrice q = l.base)) ∧
  (∀ (s : State) (i : Fin 8) (o : OpenOrder),
    (o.phase = .withdrawing false → priceOrder s i o =
      { subtotal := 0, discount := 0, total := 0, withdrawnUncharged := true }) ∧
    (o.phase ≠ .withdrawing false →
      (o.gen = none → priceOrder s i o =
        { subtotal := 0, discount := 0, total := 0, noPriceLine := true, promoUnknown := decide (o.promo ≠ 0) }) ∧
      ∀ (j : Fin 2) (g : GenSlot), o.gen = some g.number → s.pu.gens[j] = some g →
        (∀ (k : Fin 2) (x : GenSlot), s.pu.gens[k] = some x → x.number = g.number → k = j) →
        priceOrder s i o = priceTally g.table o.tier o.promo s.pu.orders[i].tally))

/-- The offset a refused record is answered with is the lowest that a failing check names, and a record passes when none
fails (R179). Each offset that CONFIGURE's checks name, with the range whose failure it names (R60, R61, R79, R81, R97, R127,
R180), and each that LOAD_PRICES's checks name (R148, R189). That a size length of no whole number of lines is rounded down
in LOOP_MAX's check is the model's choice (log 37). -/
def Obligations.FieldsChecked : Prop :=
  (∀ cs : List FieldCheck,
    (lowestFailing cs = none ↔ ∀ x ∈ cs, x.2 = true) ∧
    ∀ o, lowestFailing cs = some o ↔ (o, false) ∈ cs ∧ ∀ x ∈ cs, x.2 = false → o ≤ x.1) ∧
  (∀ (m : Memory) (a cap : Nat) (bins : Vector Bin 32),
    let c := parseConf m a
    let fails (o : Nat) : Prop := (o, false) ∈ confChecks m a cap bins
    let mode := Memory.read8 m (a + 3)
    let mask := Memory.read8 m (a + 4)
    let table := Memory.read32 m (a + 8)
    let size (i : Nat) : Option SizeDef := (c.sizes[i]?).join
    (fails 0x00 ↔ ¬(890 ≤ c.paperWidth ∧ c.paperWidth ≤ 3050 ∧ c.paperWidth % 5 = 0)) ∧
    (fails 0x02 ↔ 7 < c.surface) ∧ (fails 0x03 ↔ ¬(mode = 1 ∨ mode = 2 ∧ 1020 ≤ c.paperWidth)) ∧
    (fails 0x04 ↔ ¬(mask = 1 ∨ mask = 3 ∨ mask = 2 ∧ mode ≠ 1)) ∧ (fails 0x05 ↔ 7 < Memory.read8 m (a + 5)) ∧
    (fails 0x06 ↔ 120 < c.markWin) ∧
    (fails 0x08 ↔ ¬(table % 64 = 0 ∧ 4096 ≤ table ∧ table + 21984 ≤ 268435456 ∧
      ∀ i < 10992, let g := Memory.read16 m (table + 2 * i); g = 0 ∨ 2048 ≤ g ∧ g ≤ 6143)) ∧
    (fails 0x10 ↔ ¬(c.loopMax ≤ 30000 ∧ 2 * 240 ≤ c.loopMax ∧ 2 * c.minPiece ≤ c.loopMax ∧
      ∀ i z, size i = some z → 2 * (z.length * 12 / 10) ≤ c.loopMax)) ∧
    (fails 0x12 ↔ ¬(600 ≤ c.minPiece ∧ c.minPiece ≤ 2400)) ∧ (fails 0x14 ↔ ¬(240 ≤ c.lDens ∧ c.lDens ≤ 24000)) ∧
    (fails 0x16 ↔ ¬(c.lDens < c.lMk ∧ c.lMk ≤ 24000)) ∧
    (fails 0x18 ↔ ¬(c.lMk + 2 * c.markWin + 1 < c.lCut ∧ c.lCut ≤ 24000)) ∧
    (fails 0x1A ↔ 400 < c.thetaRef) ∧ (fails 0x1C ↔ 400 < c.thetaMax) ∧
    (fails 0x1E ↔ ¬(4 ≤ c.calDrift ∧ c.calDrift ≤ 80)) ∧
    (fails 0x20 ↔ ¬(4 ≤ c.binCount ∧ c.binCount ≤ 32 ∧ ∀ i : Fin 32, bins[i].state ≠ .free → i.1 < c.binCount)) ∧
    (fails 0x22 ↔ ¬(10 ≤ c.binCap ∧ c.binCap ≤ 250 ∧ ((∃ i : Fin 32,
      bins[i].state = .reserved ∨ bins[i].state = .filling ∨ bins[i].state = .full) → c.binCap = cap))) ∧
    (fails 0x24 ↔ ¬(100 ≤ c.confirmLimit ∧ c.confirmLimit ≤ 5000)) ∧ (fails 0x26 ↔ 3600 < c.unloadLimit) ∧
    (∀ k : Chan,
      (fails (0x28 + 2 * k.index) ↔ ¬(-64 ≤ c.tempCoef.get k ∧ c.tempCoef.get k ≤ 64)) ∧
      (fails (0x30 + 2 * k.index) ↔ ¬(50 ≤ c.target.get k ∧ c.target.get k ≤ 3999)) ∧
      (fails (0x38 + 2 * k.index) ↔ ¬(2048 ≤ c.initBal.get k ∧ c.initBal.get k ≤ 6143)) ∧
      ∀ i < 17, fails (0xC8 + 34 * k.index + 2 * i) ↔ 4095 < Memory.read16 m (a + 0xC8 + 34 * k.index + 2 * i)) ∧
    (∀ i < 16,
      (fails (0x48 + 8 * i) ↔ ∃ z, size i = some z ∧ ¬(500 ≤ z.width ∧ z.width ≤ 3050 ∧ z.width % 5 = 0)) ∧
      (fails (0x48 + 8 * i + 2) ↔ ∃ z, size i = some z ∧ ¬(500 ≤ z.length ∧ z.length ≤ 4570 ∧ z.length % 5 = 0)) ∧
      (fails (0x48 + 8 * i + 4) ↔ ∃ z, size i = some z ∧ 15 < z.group)) ∧
    ∀ o, fails o → o ∈ [0x00, 0x02, 0x03, 0x04, 0x05, 0x06, 0x08, 0x10, 0x12, 0x14, 0x16, 0x18, 0x1A, 0x1C, 0x1E, 0x20,
        0x22, 0x24, 0x26] ∨
      (∃ k : Chan, o = 0x28 + 2 * k.index ∨ o = 0x30 + 2 * k.index ∨ o = 0x38 + 2 * k.index ∨
        ∃ i < 17, o = 0xC8 + 34 * k.index + 2 * i) ∨
      ∃ i < 16, o = 0x48 + 8 * i ∨ o = 0x48 + 8 * i + 2 ∨ o = 0x48 + 8 * i + 4) ∧
  (∀ (m : Memory) (a : Nat),
    let ls := Memory.read16 m a
    let ps := Memory.read16 m (a + 2)
    let b (o : Nat) : Nat := Memory.read8 m (a + o)
    let h (o : Nat) : Nat := Memory.read16 m (a + o)
    let lineBad (n o : Nat) : Prop :=
      let l := 0x10 + 20 * n
      o = l ∧ 15 < b l ∨ o = l + 1 ∧ 7 < b (l + 1) ∧ b (l + 1) ≠ 255 ∨ o = l + 2 ∧ 3 < b (l + 2) ∧ b (l + 2) ≠ 255 ∨
        o = l + 3 ∧ 3 < b (l + 3) ∨
        b (l + 3) ≤ 3 ∧ ∃ j < b (l + 3), o = l + 8 + 4 * j ∧
          ¬(2 ≤ h (l + 8 + 4 * j) ∧ h (l + 8 + 4 * j) ≤ 9999 ∧ (j ≠ 0 → h (l + 4 + 4 * j) < h (l + 8 + 4 * j)))
    let promoBad (n o : Nat) : Prop :=
      let p := 0x10 + 20 * ls + 12 * n
      o = p ∧ (h p = 0 ∨ ∃ j < n, h (0x10 + 20 * ls + 12 * j) = h p) ∨ o = p + 2 ∧ ¬(1 ≤ b (p + 2) ∧ b (p + 2) ≤ 3) ∨
        o = p + 4 ∧ (b (p + 2) = 1 ∧ ¬(1 ≤ h (p + 4) ∧ h (p + 4) ≤ 100) ∨
          b (p + 2) = 2 ∧ ¬(2 ≤ h (p + 4) ∧ h (p + 4) ≤ 100))
    let countsOk : Prop := 1 ≤ ls ∧ ls ≤ 64 ∧ ps ≤ 8
    let inside : Prop := a + 16 + 20 * ls + 12 * ps ≤ 268435456
    ∀ o, (o, false) ∈ priceChecks m a ↔
      ¬countsOk ∧ (o = 0 ∧ ¬(1 ≤ ls ∧ ls ≤ 64) ∨ o = 2 ∧ 8 < ps) ∨ countsOk ∧ ¬inside ∧ o = 0 ∨
        countsOk ∧ inside ∧ ((∃ n < ls, lineBad n o) ∨ ∃ n < ps, promoBad n o))

/-! ## Configuration and section resets -/

/-- CONFIGURE is taken in CLEARED, in READY and in PAUSED with the track table empty, with an address that leaves the record
inside the store (R163, R179). At the end of its reading a record with a failing check is refused with the lowest offset
and installs nothing; one that passes is installed if the machine is still in such a state: READY, with the new
configuration, calibration VALID at the initial balances, the initial mask staged and the enables in effect (R163, R81,
R79, R180). Leaving CLEARED the conveyor starts, the expiries of late marks counted afresh (R142); at the first CONFIGURE
after a chip clear the three control blocks are written (R3); then the orders are re-examined (R14, see OrdersReexamined)
and the status block is written. That the checks are judged before the state is the model's order (log 30), and that the
record is checked and installed as the store holds it at the completion of its reading is its choice (log 11). FieldsChecked
says what the checks are. -/
def Obligations.ConfigureInstalls : Prop :=
  ∀ (a : Word) (s : State),
    let admitted : Prop := s.mc.state = .cleared ∨ s.mc.state = .ready ∨ s.mc.state = .paused ∧ s.wt.track = []
    let failing := lowestFailing (confChecks s.store a.toNat s.cfg.binCap s.su.bins)
    (StoreCanonical s → s.cu.job = none →
      let u := offered1 .configure a s
      (¬admitted → exec (.configure a) s = .next (replied .configure .illegalState 0 u)) ∧
      (admitted → ¬(a.toNat % 64 = 0 ∧ 4096 ≤ a.toNat ∧ a.toNat + 512 ≤ 268435456) →
        exec (.configure a) s = .next (replied .configure .badOperand 0 u)) ∧
      (admitted → a.toNat % 64 = 0 → 4096 ≤ a.toNat → a.toNat + 512 ≤ 268435456 →
        exec (.configure a) s = .next (settle { u with cu := { u.cu with job := some (.configure a) } }))) ∧
    (s.cu.job = some (.configure a) →
      (∀ o, failing = some o →
        exec .configureComplete s = .next (ended .configure .badRecord o { s with work := {} })) ∧
      (failing = none → ¬admitted →
        exec .configureComplete s = .next (ended .configure .illegalState 0 { s with work := {} })) ∧
      (failing = none → admitted → StoreCanonical s →
        let c := parseConf s.store a.toNat
        ∃ t, exec .configureComplete s = .next t ∧ answeredWith 1 .done 0 t ∧
          t.mc = { s.mc with state := .ready, pauseCause := .noPause } ∧ t.conf = some c ∧
          t.ca = { state := .valid, bal := some c.initBal, thetaCal := c.thetaRef, invalid := 0, patch := none } ∧
          t.rc.mask = c.initMask ∧ t.rc.firstCal = false ∧ t.rc.hot = s.rc.hot ∧ t.rc.slot = s.rc.slot ∧
          t.cu.enables = parseEnables s.store a.toNat ∧ t.wt = s.wt ∧ t.ct = s.ct ∧ t.pins = s.pins ∧
          t.cu.lineClock = s.cu.lineClock ∧ t.pu.counter = s.pu.counter ∧ t.ee.hot = s.ee.hot ∧
          t.ee.continuity = s.ee.continuity ∧ Memory.read8 t.store 0x200 = 1 ∧
          ∃ v, t = ended .configure .done 0 (askStatus (reexamineAll v)) ∧
            v = { s with
              conf := t.conf, mc := t.mc, ca := t.ca, rc := { s.rc with mask := c.initMask, firstCal := false }
              cu := { s.cu with enables := t.cu.enables, irq := v.cu.lineLevel }
              su := { s.su with late := v.su.late }, store := v.store, work := {} } ∧
            (∀ d : Fin 34, v.su.late[d] =
              if s.mc.state = .cleared ∧ s.su.late[d].count ≠ 0 then
                { count := min 8 s.su.late[d].count, expiry := s.cu.lineClock + lines c.confirmLimit }
              else s.su.late[d]) ∧
            (s.conf.isSome → v.store = s.store) ∧
            (s.conf = none → storeKept inControlBlocks s v ∧ ∀ q : QueueId,
              let x := s.om.queues.get q
              Memory.read8 v.store q.blockAddr = x.state.code ∧ Memory.read8 v.store (q.blockAddr + 1) = x.halt.code ∧
                Memory.readWord v.store (q.blockAddr + 4) = x.next ∧
                Memory.readWord v.store (q.blockAddr + 8) = x.tail ∧
                Memory.readWord v.store (q.blockAddr + 12) = x.taken))) ∧
    ((∀ x, s.cu.job ≠ some (.configure x)) → exec .configureComplete s = .next s)

/-- SECTION_RESET is refused in CLEARED, RUNNING and PAUSING. EXPOSURE empties the line buffers, stages the initial mask and
clears both head-hot holds (R78).
CUTTER clears the miss count and touches nothing beyond the Cutter: in the order of the queue each boundary is set PENDING
with offset 0 and its window AHEAD, its row after is the started row of the table that starts there, its row before is found
as at a row's start against the boundaries already kept, and it goes only when it has neither (R124, R113; log 36).
SORTER raises each destination's late count by its conveyor entries, to at most 8, loses every piece in CUT and CONVEYOR
with its report, in paper order, and empties both lists; entries in other stages stay. Every routed count becomes 0, every
door flag is its sensor's, and the countdown of a COMPLETE bin restarts behind a closed door and ends at an open one; state,
owner and delivered count are kept (R143). That a destination losing no entry keeps its expiry, and that with UNLOAD_LIMIT 0
a running countdown is left, are the model's choices (logs 13, 24). -/
def Obligations.SectionsReset : Prop :=
  ∀ s : State, StoreCanonical s → s.cu.job = none →
    let u (n : Word) : State := offered1 .sectionReset n s
    (s.mc.state = .cleared ∨ s.mc.state = .running ∨ s.mc.state = .pausing →
      exec .sectionResetExposure s = .next (replied .sectionReset .illegalState 0 (u 1)) ∧
        exec .sectionResetCutter s = .next (replied .sectionReset .illegalState 0 (u 2)) ∧
        exec .sectionResetSorter s = .next (replied .sectionReset .illegalState 0 (u 3))) ∧
    (s.mc.state = .ready ∨ s.mc.state = .paused ∨ s.mc.state = .faulted →
      exec .sectionResetExposure s = .next (replied .sectionReset .done 0 { u 1 with
        rc := { s.rc with mask := s.cfg.initMask, hot := false }
        ee := { s.ee with hot := false, buffers := ⟨s.ee.buffers.a.emptied, s.ee.buffers.b.emptied⟩ } }) ∧
      (∃ t, exec .sectionResetCutter s = .next t ∧ answeredWith 13 .done 0 t ∧ t.ct.misses = 0 ∧
        (∀ b ∈ t.ct.queue, b.mark = .pending ∧ b.delta = 0 ∧ b.window = .ahead ∧ b.kept = true ∧
          (b.rowAfter = some b.pos ∨ b.rowAfter = none)) ∧
        (t.ct.queue.map (·.pos)).Sublist (s.ct.queue.map (·.pos)) ∧ t.wt = s.wt ∧ t.su = s.su ∧ t.mc = s.mc ∧
        t.om = s.om ∧ t.rc = s.rc ∧ lineKept s t) ∧
      (let fresh (kept : List Boundary) (b : Boundary) : Boundary := {
          pos := b.pos
          mark := .pending
          delta := 0
          window := .ahead
          rowAfter := if ∃ e ∈ s.wt.track, e.x0 = some b.pos then some b.pos else none
          rowBefore := rowBefore s.wt.track kept b.pos };
        exec .sectionResetCutter s = .next (replied .sectionReset .done 0 { u 2 with
          ct := {
            queue := s.ct.queue.foldl (fun kept b =>
              if (fresh kept b).rowAfter = none ∧ (fresh kept b).rowBefore = none then kept
              else kept ++ [fresh kept b]) []
            misses := 0 } })) ∧
      ∃ t, exec .sectionResetSorter s = .next t ∧ answeredWith 13 .done 0 t ∧ t.su.conveyor = [] ∧ t.su.awaiting = [] ∧
        (let lost (e : Entry) : Prop := e.stage = .cut ∨ e.stage = .conveyor;
          (∀ e ∈ t.wt.track, e ∈ s.wt.track ∧ ¬lost e) ∧
            ∀ e ∈ s.wt.track, ¬lost e → (∀ f ∈ s.wt.track, lost f → f.key ≠ e.key) → e ∈ t.wt.track) ∧
        (let n (d : Fin 34) : Nat := (s.su.conveyor.filter fun c => decide (c.dest = d)).length;
          (∀ d, n d = 0 → t.su.late[d] = s.su.late[d]) ∧
            (∀ d, n d ≠ 0 → t.su.late[d] =
              { count := min 8 (s.su.late[d].count + n d), expiry := s.cu.lineClock + lines s.cfg.confirmLimit }) ∧
            ∃ v,
              v = loseWhere .lost (fun e => decide (e.stage = .cut) || decide (e.stage = .conveyor))
                { u 3 with su := { s.su with late := t.su.late } } ∧
              t = replied .sectionReset .done 0
                { v with su := { v.su with bins := t.su.bins, awaiting := [], conveyor := [] } } ∧
              ∀ i : Fin 32, t.su.bins[i] =
                  { v.su.bins[i] with
                    routed := 0, doorOpen := s.pins.doors[i], countdown := t.su.bins[i].countdown } ∧
                (v.su.bins[i].state ≠ .complete ∨ s.pins.doors[i] = false ∧ s.cfg.unloadLimit = 0 →
                  t.su.bins[i].countdown = v.su.bins[i].countdown)) ∧
        t.mc = s.mc ∧ lineKept s t ∧
        t.ee.expo = s.ee.expo ∧ t.om.queues = s.om.queues ∧
        ∀ i : Fin 32, t.su.bins[i].routed = 0 ∧ t.su.bins[i].doorOpen = s.pins.doors[i] ∧
          (t.su.bins[i].state = .complete → s.pins.doors[i] = true → t.su.bins[i].countdown = none) ∧
          (t.su.bins[i].state = .complete → s.pins.doors[i] = false → s.cfg.unloadLimit ≠ 0 →
            t.su.bins[i].countdown = some (s.cu.lineClock + lines (s.cfg.unloadLimit * 1000))))

/-- An event offered when the rule's condition for it does not hold does not happen: the state is as it was. That such an
offer is no step of the part is the model's choice (log 5, log 22). The conditions are those of R63 and R70 (lead-ins and row
starts), R66 and R70 (a BLANK row's lead-in), R68 (lines), R73 and R74 (row ends), R85 (a reading), R116, R118 and R120 (windows,
misses, the knife), R131, R136, R137 and R142 (the conveyor), R140 (countdowns) and the sensors' levels. -/
def Obligations.EventsNotDue : Prop :=
  ∀ s : State,
    let feeds : Prop := s.mc.state = .running ∨ s.mc.state = .pausing
    let runs : Prop := s.mc.state ≠ .cleared ∧ s.mc.convStop = false
    let credit (leadIn : Nat) : Prop := feeds ∧ s.ee.expo = none ∧ s.ee.hot = false ∧ s.wt.track.length < 64 ∧
      ∃ r, s.rc.slot = some r ∧ (s.wt.x - s.wt.y).toNat + leadIn + r.length ≤ s.cfg.loopMax
    let blank : Prop := feeds ∧ s.ee.expo = none ∧ s.wt.x = s.wt.y ∧ s.wt.track.length < 64
    let markAt (b : Boundary) : Word := b.pos + lines s.cfg.lMk
    (¬(s.ee.continuity = false ∧ (credit 4 ∨ blank)) → exec .leadInStart s = .next s) ∧
    ((∀ n b, s.ee.expo = some (.leadIn n b) → n < 4) → exec .leadInEnd s = .next s) ∧
    (¬(s.ee.continuity = true ∧ credit 0) → exec .rowStart s = .next s) ∧
    (¬feeds ∨ s.ee.expo = none ∨ (∃ n b, s.ee.expo = some (.leadIn n b) ∧ 4 ≤ n) ∨
      (∃ r, s.ee.expo = some (.row r) ∧ r.length ≤ (s.wt.x - r.x0).toNat) → exec .exposureFeedStep s = .next s) ∧
    ((∀ r, s.ee.expo = some (.row r) → r.length ≤ (s.wt.x - r.x0).toNat → r.kind ≠ .print) →
      exec .rowEnd s = .next s) ∧
    ((∀ r, s.ee.expo = some (.row r) → r.length ≤ (s.wt.x - r.x0).toNat → r.kind = .print) →
      exec .calibOrBlankRowEnd s = .next s) ∧
    (∀ r g b, r ≤ 4095 → g ≤ 4095 → b ≤ 4095 →
      (s.ca.state ≠ .inFlight ∨
        ∀ p, s.ca.patch = some p → reached s.wt.y (p.x0 + lines s.cfg.lDens) = false) →
      exec (.densitometerReading r g b) s = .next s) ∧
    (¬feeds → exec .processFeedStep s = .next s ∧ ∀ y, exec (.markReport y) s = .next s) ∧
    (¬feeds ∨ (∀ b ∈ s.ct.queue, b.window = .ahead → reached s.wt.y (markAt b - lines s.cfg.markWin) = false) →
      exec .markWindowOpen s = .next s) ∧
    (¬feeds ∨ (∀ b ∈ s.ct.queue, b.window = .opened → b.mark = .pending →
        reached s.wt.y (markAt b + lines s.cfg.markWin + 1) = false) → exec .markMissed s = .next s) ∧
    (¬feeds ∨ (∀ b, s.ct.queue.head? = some b → b.mark = .pending ∨
        reached s.wt.y (b.pos + lines s.cfg.lCut + BitVec.ofInt 32 b.delta) = false) →
      exec .knifeFire s = .next s) ∧
    (¬runs ∨ s.su.awaiting = [] → exec .pieceAtDiverter s = .next s) ∧
    (¬runs ∨ s.su.conveyor = [] → exec .misrouted s = .next s) ∧
    (∀ d : Fin 34, ¬runs ∨ s.su.late[d].count = 0 ∨ reached s.cu.lineClock s.su.late[d].expiry = false →
      exec (.lateExpiry d) s = .next s) ∧
    (∀ i : Fin 32, (∀ e, s.su.bins[i].countdown = some e → reached s.cu.lineClock e = false) →
      exec (.binWaiting i) s = .next s) ∧
    (∀ i : Fin 32, (s.pins.doors[i] = true → exec (.doorOpen i) s = .next s) ∧
      (s.pins.doors[i] = false → exec (.doorClose i) s = .next s)) ∧
    exec (.paperEnd s.pins.paperEnd) s = .next s ∧ exec (.lineStopInput s.pins.lineStop) s = .next s ∧
    exec (.webJamSensor s.pins.webJam) s = .next s ∧ exec (.conveyorJamSensor s.pins.convJam) s = .next s

/-! ## Invariants that every step keeps -/

/-- Every step keeps the store in its canonical form. -/
def Obligations.StoreStaysCanonical : Prop := ∀ s t : State, StoreCanonical s → step s = .next t → StoreCanonical t

/-- Every step keeps the causes, the paper-out request and the conveyor stop in the machine states R161 gives them. -/
def Obligations.ControlStaysConsistent : Prop :=
  ∀ s t : State, ControlConsistent s → step s = .next t → ControlConsistent t

/-- Every step keeps each class at no more than one posted and four held notices, no two alike, and the interrupt line at
the level R184 gives (R181, R184). -/
def Obligations.NoticesStayOk : Prop := ∀ s t : State, NoticesOk s → step s = .next t → NoticesOk t

/-- Every step keeps the tables and queues within their places (R98, R112, R133, R137, R13, R41, R71). -/
def Obligations.CapacitiesHold : Prop := ∀ s t : State, WithinCapacity s → step s = .next t → WithinCapacity t

/-- Every step keeps the balances within 2048 to 6143 (R80, R87).
Every step keeps the door flags and the paper-end state at their sensors' levels (R126, R106). -/
def Obligations.BalancesAndSensorsHold : Prop :=
  (∀ s t : State, CalibrationOk s → step s = .next t → CalibrationOk t) ∧
  (∀ s t : State, SensorsFollowed s → step s = .next t → SensorsFollowed t)

/-- After chip clear with nothing written in the store, every invariant of the model holds. -/
def Obligations.InvariantsAtReset : Prop :=
  StoreCanonical State.reset ∧ ControlConsistent State.reset ∧ NoticesOk State.reset ∧ WithinCapacity State.reset ∧
    CalibrationOk State.reset ∧ SensorsFollowed State.reset ∧ NothingOwed State.reset
end

