-- ==== Sys2Proof/Laws/Store.lean ====
section
/-! SUPPORT. The work store: what a read sees after a write, and that every write keeps the canonical form. -/

namespace Sys2Proof.Machine

/-! ## One byte -/

/-- A write leaves every other byte as it was, in any list. -/
theorem Memory.read_write_ne (m : Memory) {a b : Nat} (v : Byte) (h : b ≠ a) :
    Memory.read (Memory.write m a v) b = Memory.read m b := by
  induction m with
  | nil =>
    simp only [Memory.write]
    split <;> simp [Memory.read, h.symm]
  | cons c t ih =>
    obtain ⟨k, w⟩ := c
    simp only [Memory.write]
    split
    · split <;> simp [Memory.read, h.symm]
    · split
      · rename_i _ hk
        split <;> simp [Memory.read, ← hk, h.symm]
      · simp only [Memory.read]
        split
        · rfl
        · exact ih

theorem Memory.wf_cons (k : Nat) (v : Byte) (t : Memory) :
    Memory.wf ((k, v) :: t) ↔ (∀ c ∈ t, k < c.1) ∧ v ≠ Config.unwrittenByte ∧ Memory.wf t := by
  simp only [Memory.wf, List.map_cons, List.pairwise_cons, List.mem_map, forall_exists_index, and_imp,
    forall_apply_eq_imp_iff₂, List.mem_cons, forall_eq_or_imp]
  tauto

/-- An address below every listed one reads as the unwritten byte. -/
theorem Memory.read_below {m : Memory} {a : Nat} (h : ∀ c ∈ m, a < c.1) : Memory.read m a = Config.unwrittenByte := by
  induction m with
  | nil => rfl
  | cons c t ih =>
    have := h c (by simp)
    simp only [Memory.read]
    rw [if_neg (by omega)]
    exact ih fun d hd => h d (by simp [hd])

/-- In canonical form a written byte reads back. -/
theorem Memory.read_write_self {m : Memory} (h : Memory.wf m) (a : Nat) (v : Byte) :
    Memory.read (Memory.write m a v) a = v := by
  induction m with
  | nil =>
    simp only [Memory.write]
    split <;> simp_all [Memory.read]
  | cons c t ih =>
    obtain ⟨k, w⟩ := c
    obtain ⟨hk, hw, ht⟩ := (Memory.wf_cons k w t).1 h
    simp only [Memory.write]
    split
    · split
      · subst v
        exact Memory.read_below fun c hc => by
          rcases List.mem_cons.1 hc with rfl | hc
          · assumption
          · have := hk c hc; omega
      · simp [Memory.read]
    · split
      · split
        · subst v a
          exact Memory.read_below hk
        · simp [Memory.read, *]
      · simp only [Memory.read]
        rw [if_neg (by omega)]
        exact ih ht

/-- A written byte other than the unwritten one reads back from any list. -/
theorem Memory.read_write_self_ne (m : Memory) (a : Nat) {v : Byte} (h : v ≠ Config.unwrittenByte) :
    Memory.read (Memory.write m a v) a = v := by
  induction m with
  | nil =>
    rw [Memory.write, if_neg h, Memory.read, if_pos rfl]
  | cons c t ih =>
    obtain ⟨k, w⟩ := c
    rw [Memory.write, if_neg h, if_neg h]
    split
    · rw [Memory.read, if_pos rfl]
    · split
      · rw [Memory.read, if_pos (by omega)]
      · rw [Memory.read, if_neg (by omega), ih]

/-- The addresses listed after a write were listed before, or are the one written. -/
theorem Memory.mem_write {m : Memory} {a : Nat} {v : Byte} {c : Host.Cell} (h : c ∈ Memory.write m a v) :
    c ∈ m ∨ (c = (a, v) ∧ v ≠ Config.unwrittenByte) := by
  induction m with
  | nil =>
    simp only [Memory.write] at h
    split at h <;> simp_all
  | cons d t ih =>
    obtain ⟨k, w⟩ := d
    simp only [Memory.write] at h
    split at h
    · split at h <;> simp_all
      tauto
    · split at h
      · split at h <;> simp_all
        tauto
      · rcases List.mem_cons.1 h with rfl | h
        · simp
        · rcases ih h with h | h <;> simp_all

/-- Every write keeps the canonical form. -/
theorem Memory.wf_write {m : Memory} (h : Memory.wf m) (a : Nat) (v : Byte) : Memory.wf (Memory.write m a v) := by
  induction m with
  | nil =>
    simp only [Memory.write]
    split <;> simp_all [Memory.wf]
  | cons c t ih =>
    obtain ⟨k, w⟩ := c
    obtain ⟨hk, hw, ht⟩ := (Memory.wf_cons k w t).1 h
    simp only [Memory.write]
    split
    · split
      · exact h
      · refine (Memory.wf_cons a v _).2 ⟨?_, by assumption, h⟩
        intro c hc
        rcases List.mem_cons.1 hc with rfl | hc
        · assumption
        · have := hk c hc; omega
    · split
      · split
        · exact ht
        · exact (Memory.wf_cons k v t).2 ⟨hk, by assumption, ht⟩
      · refine (Memory.wf_cons k w _).2 ⟨?_, hw, ih ht⟩
        intro c hc
        rcases Memory.mem_write hc with hc | ⟨rfl, -⟩
        · exact hk c hc
        · simp only
          omega

/-! ## Numbers of several bytes -/

theorem Memory.wf_writeNat {m : Memory} (h : Memory.wf m) (a len n : Nat) : Memory.wf (Memory.writeNat m a len n) := by
  induction len generalizing m a n with
  | zero => exact h
  | succ len ih => exact ih (Memory.wf_write h _ _) _ _

/-- Bytes outside the written range read as before. -/
theorem Memory.read_writeNat (m : Memory) {a b : Nat} (len n : Nat) (h : b < a ∨ a + len ≤ b) :
    Memory.read (Memory.writeNat m a len n) b = Memory.read m b := by
  induction len generalizing m a n with
  | zero => rfl
  | succ len ih =>
    rw [Memory.writeNat, ih _ _ (by omega), Memory.read_write_ne _ _ (by omega)]

/-- Numbers outside the written range read as before. -/
theorem Memory.readNat_writeNat (m : Memory) {a b : Nat} (len n k : Nat) (h : b + k ≤ a ∨ a + len ≤ b) :
    Memory.readNat (Memory.writeNat m a len n) b k = Memory.readNat m b k := by
  induction k generalizing b with
  | zero => rfl
  | succ k ih =>
    rw [Memory.readNat, Memory.readNat, ih (by omega), Memory.read_writeNat _ _ _ (by omega)]

/-- In canonical form a written number reads back, cut to its length. -/
theorem Memory.readNat_writeNat_self {m : Memory} (h : Memory.wf m) (a len n : Nat) :
    Memory.readNat (Memory.writeNat m a len n) a len = n % 256 ^ len := by
  induction len generalizing m a n with
  | zero => simp [Memory.readNat, Nat.mod_one]
  | succ len ih =>
    rw [Memory.readNat, Memory.writeNat, ih (Memory.wf_write h _ _), Memory.read_writeNat _ _ _ (by omega),
      Memory.read_write_self h]
    rw [pow_succ', Nat.mod_mul (a := 256) (b := 256 ^ len)]
    rfl

/-- What is read of a range depends on its bytes only. -/
theorem Memory.readNat_congr {m n : Memory} {a : Nat} (k : Nat)
    (h : ∀ b, a ≤ b → b < a + k → Memory.read m b = Memory.read n b) : Memory.readNat m a k = Memory.readNat n a k := by
  induction k generalizing a with
  | zero => rfl
  | succ k ih =>
    rw [Memory.readNat, Memory.readNat, h a (by omega) (by omega), ih fun b h1 h2 => h b (by omega) (by omega)]

theorem Memory.readNat_lt (m : Memory) (a k : Nat) : Memory.readNat m a k < 256 ^ k := by
  induction k generalizing a with
  | zero => simp [Memory.readNat]
  | succ k ih =>
    rw [Memory.readNat, pow_succ']
    have h1 := (Memory.read m a).isLt
    have h2 := ih (a + 1)
    omega

/-! ## The sizes in use -/

@[simp] theorem Memory.wf_write8 {m : Memory} (h : Memory.wf m) (a n : Nat) : Memory.wf (Memory.write8 m a n) :=
  Memory.wf_writeNat h _ _ _

@[simp] theorem Memory.wf_write16 {m : Memory} (h : Memory.wf m) (a n : Nat) : Memory.wf (Memory.write16 m a n) :=
  Memory.wf_writeNat h _ _ _

@[simp] theorem Memory.wf_write32 {m : Memory} (h : Memory.wf m) (a n : Nat) : Memory.wf (Memory.write32 m a n) :=
  Memory.wf_writeNat h _ _ _

@[simp] theorem Memory.wf_writeWord {m : Memory} (h : Memory.wf m) (a : Nat) (w : Word) :
    Memory.wf (Memory.writeWord m a w) := Memory.wf_writeNat h _ _ _

/-- The host's stores keep the canonical form. -/
theorem Memory.wf_hostWrites {m : Memory} (h : Memory.wf m) (ws : List HostWrite) : Memory.wf (Memory.hostWrites m ws) := by
  induction ws generalizing m with
  | nil => exact h
  | cons w ws ih => exact ih (Memory.wf_write h _ _)

/-- A slice of the store is in canonical form. -/
theorem Memory.wf_slice {m : Memory} (h : Memory.wf m) (base len : Nat) : Memory.wf (Memory.slice m base len) := by
  obtain ⟨h1, h2⟩ := h
  refine ⟨?_, ?_⟩
  · rw [Memory.slice, List.map_map, List.pairwise_map]
    refine List.Pairwise.imp_of_mem ?_ ((List.pairwise_map.1 h1).filter _)
    intro a b ha hb hab
    simp only [List.mem_filter, Bool.and_eq_true, decide_eq_true_eq] at ha hb
    simp only [Function.comp]
    omega
  · intro c hc
    simp only [Memory.slice, List.mem_map, List.mem_filter] at hc
    obtain ⟨d, ⟨hd, -⟩, rfl⟩ := hc
    exact h2 d hd

end Sys2Proof.Machine
end

