-- ==== Sys2Proof/Laws/Frames.lean ====
section
/-! SUPPORT. What each shared operation leaves as it was, field by field, for simp to use. -/

namespace Sys2Proof.Machine

/-- A fold of steps that each keep a quantity keeps it. -/
theorem foldl_keeps {α β γ : Type} (p : β → γ) (f : β → α → β) (h : ∀ b a, p (f b a) = p b) (l : List α) (b : β) :
    p (l.foldl f b) = p b := by
  induction l generalizing b with
  | nil => rfl
  | cons a l ih => rw [List.foldl_cons, ih, h]

@[simp] theorem askAttempt_frame (s : State) :
    (askAttempt s).cu = s.cu ∧
    (askAttempt s).om = s.om ∧
    (askAttempt s).rc = s.rc ∧
    (askAttempt s).ee = s.ee ∧
    (askAttempt s).ca = s.ca ∧
    (askAttempt s).wt = s.wt ∧
    (askAttempt s).ct = s.ct ∧
    (askAttempt s).su = s.su ∧
    (askAttempt s).pu = s.pu ∧
    (askAttempt s).mc = s.mc ∧
    (askAttempt s).conf = s.conf ∧
    (askAttempt s).pins = s.pins ∧
    (askAttempt s).pending = s.pending ∧
    (askAttempt s).store = s.store ∧
    (askAttempt s).work.status = s.work.status := by
  simp [askAttempt]

@[simp] theorem askStatus_frame (s : State) :
    (askStatus s).cu = s.cu ∧
    (askStatus s).om = s.om ∧
    (askStatus s).rc = s.rc ∧
    (askStatus s).ee = s.ee ∧
    (askStatus s).ca = s.ca ∧
    (askStatus s).wt = s.wt ∧
    (askStatus s).ct = s.ct ∧
    (askStatus s).su = s.su ∧
    (askStatus s).pu = s.pu ∧
    (askStatus s).mc = s.mc ∧
    (askStatus s).conf = s.conf ∧
    (askStatus s).pins = s.pins ∧
    (askStatus s).pending = s.pending ∧
    (askStatus s).store = s.store := by
  simp [askStatus]

@[simp] theorem updateEntry_frame (k : EntryKey) (f : Entry → Entry) (s : State) :
    (updateEntry k f s).cu = s.cu ∧
    (updateEntry k f s).om = s.om ∧
    (updateEntry k f s).rc = s.rc ∧
    (updateEntry k f s).ee = s.ee ∧
    (updateEntry k f s).ca = s.ca ∧
    (updateEntry k f s).wt.x = s.wt.x ∧
    (updateEntry k f s).wt.y = s.wt.y ∧
    (updateEntry k f s).wt.paperUsed = s.wt.paperUsed ∧
    (updateEntry k f s).wt.waste = s.wt.waste ∧
    (updateEntry k f s).wt.paperEnd = s.wt.paperEnd ∧
    (updateEntry k f s).ct = s.ct ∧
    (updateEntry k f s).su = s.su ∧
    (updateEntry k f s).pu = s.pu ∧
    (updateEntry k f s).mc = s.mc ∧
    (updateEntry k f s).conf = s.conf ∧
    (updateEntry k f s).pins = s.pins ∧
    (updateEntry k f s).pending = s.pending ∧
    (updateEntry k f s).store = s.store ∧
    (updateEntry k f s).work = s.work := by
  simp [updateEntry]

@[simp] theorem judgeLine_frame (s : State) :
    (judgeLine s).cu.lineClock = s.cu.lineClock ∧
    (judgeLine s).cu.enables = s.cu.enables ∧
    (judgeLine s).cu.job = s.cu.job ∧
    (judgeLine s).cu.attnPending = s.cu.attnPending ∧
    (judgeLine s).cu.classes = s.cu.classes ∧
    (judgeLine s).om = s.om ∧
    (judgeLine s).rc = s.rc ∧
    (judgeLine s).ee = s.ee ∧
    (judgeLine s).ca = s.ca ∧
    (judgeLine s).wt = s.wt ∧
    (judgeLine s).ct = s.ct ∧
    (judgeLine s).su = s.su ∧
    (judgeLine s).pu = s.pu ∧
    (judgeLine s).mc = s.mc ∧
    (judgeLine s).conf = s.conf ∧
    (judgeLine s).pins = s.pins ∧
    (judgeLine s).pending = s.pending ∧
    (judgeLine s).store = s.store ∧
    (judgeLine s).work = s.work := by
  simp [judgeLine]

@[simp] theorem occupy_frame (k : NoticeClass) (n : Notice) (held : List Notice) (s : State) :
    (occupy k n held s).cu.lineClock = s.cu.lineClock ∧
    (occupy k n held s).cu.enables = s.cu.enables ∧
    (occupy k n held s).cu.job = s.cu.job ∧
    (occupy k n held s).cu.attnPending = s.cu.attnPending ∧
    (occupy k n held s).om = s.om ∧
    (occupy k n held s).rc = s.rc ∧
    (occupy k n held s).ee = s.ee ∧
    (occupy k n held s).ca = s.ca ∧
    (occupy k n held s).wt = s.wt ∧
    (occupy k n held s).ct = s.ct ∧
    (occupy k n held s).su = s.su ∧
    (occupy k n held s).pu = s.pu ∧
    (occupy k n held s).mc = s.mc ∧
    (occupy k n held s).conf = s.conf ∧
    (occupy k n held s).pins = s.pins ∧
    (occupy k n held s).pending = s.pending ∧
    (occupy k n held s).work = s.work := by
  simp [occupy]

@[simp] theorem post_frame (c : Cause) (subject : Word) (s : State) :
    (post c subject s).cu.lineClock = s.cu.lineClock ∧
    (post c subject s).cu.enables = s.cu.enables ∧
    (post c subject s).cu.job = s.cu.job ∧
    (post c subject s).cu.attnPending = s.cu.attnPending ∧
    (post c subject s).om = s.om ∧
    (post c subject s).rc = s.rc ∧
    (post c subject s).ee = s.ee ∧
    (post c subject s).ca = s.ca ∧
    (post c subject s).wt = s.wt ∧
    (post c subject s).ct = s.ct ∧
    (post c subject s).su = s.su ∧
    (post c subject s).pu = s.pu ∧
    (post c subject s).mc = s.mc ∧
    (post c subject s).conf = s.conf ∧
    (post c subject s).pins = s.pins ∧
    (post c subject s).pending = s.pending ∧
    (post c subject s).work = s.work := by
  unfold post
  dsimp only
  (repeat' split) <;> simp

@[simp] theorem freeSlot_frame (k : NoticeClass) (s : State) :
    (freeSlot k s).cu.lineClock = s.cu.lineClock ∧
    (freeSlot k s).cu.enables = s.cu.enables ∧
    (freeSlot k s).cu.job = s.cu.job ∧
    (freeSlot k s).cu.attnPending = s.cu.attnPending ∧
    (freeSlot k s).om = s.om ∧
    (freeSlot k s).rc = s.rc ∧
    (freeSlot k s).ee = s.ee ∧
    (freeSlot k s).ca = s.ca ∧
    (freeSlot k s).wt = s.wt ∧
    (freeSlot k s).ct = s.ct ∧
    (freeSlot k s).su = s.su ∧
    (freeSlot k s).pu = s.pu ∧
    (freeSlot k s).mc = s.mc ∧
    (freeSlot k s).conf = s.conf ∧
    (freeSlot k s).pins = s.pins ∧
    (freeSlot k s).pending = s.pending ∧
    (freeSlot k s).work = s.work := by
  unfold freeSlot
  (repeat' split) <;> simp

@[simp] theorem readSlots_frame (s : State) :
    (readSlots s).cu.lineClock = s.cu.lineClock ∧
    (readSlots s).cu.enables = s.cu.enables ∧
    (readSlots s).cu.job = s.cu.job ∧
    (readSlots s).cu.attnPending = s.cu.attnPending ∧
    (readSlots s).om = s.om ∧
    (readSlots s).rc = s.rc ∧
    (readSlots s).ee = s.ee ∧
    (readSlots s).ca = s.ca ∧
    (readSlots s).wt = s.wt ∧
    (readSlots s).ct = s.ct ∧
    (readSlots s).su = s.su ∧
    (readSlots s).pu = s.pu ∧
    (readSlots s).mc = s.mc ∧
    (readSlots s).conf = s.conf ∧
    (readSlots s).pins = s.pins ∧
    (readSlots s).pending = s.pending ∧
    (readSlots s).work = s.work := by
  simp [readSlots]

@[simp] theorem writeStatus_frame (s : State) :
    (writeStatus s).cu = s.cu ∧
    (writeStatus s).om = s.om ∧
    (writeStatus s).rc = s.rc ∧
    (writeStatus s).ee = s.ee ∧
    (writeStatus s).ca = s.ca ∧
    (writeStatus s).wt = s.wt ∧
    (writeStatus s).ct = s.ct ∧
    (writeStatus s).su = s.su ∧
    (writeStatus s).pu = s.pu ∧
    (writeStatus s).mc = s.mc ∧
    (writeStatus s).conf = s.conf ∧
    (writeStatus s).pins = s.pins ∧
    (writeStatus s).pending = s.pending ∧
    (writeStatus s).work = s.work := by
  simp [writeStatus]

@[simp] theorem writeControlBlock_frame (q : QueueId) (s : State) :
    (writeControlBlock q s).cu = s.cu ∧
    (writeControlBlock q s).om = s.om ∧
    (writeControlBlock q s).rc = s.rc ∧
    (writeControlBlock q s).ee = s.ee ∧
    (writeControlBlock q s).ca = s.ca ∧
    (writeControlBlock q s).wt = s.wt ∧
    (writeControlBlock q s).ct = s.ct ∧
    (writeControlBlock q s).su = s.su ∧
    (writeControlBlock q s).pu = s.pu ∧
    (writeControlBlock q s).mc = s.mc ∧
    (writeControlBlock q s).conf = s.conf ∧
    (writeControlBlock q s).pins = s.pins ∧
    (writeControlBlock q s).pending = s.pending ∧
    (writeControlBlock q s).work = s.work := by
  simp [writeControlBlock]

@[simp] theorem setQueue_frame (q : QueueId) (c : QueueCtx) (s : State) :
    (setQueue q c s).cu = s.cu ∧
    (setQueue q c s).om.deferred = s.om.deferred ∧
    (setQueue q c s).om.table = s.om.table ∧
    (setQueue q c s).om.seq = s.om.seq ∧
    (setQueue q c s).rc = s.rc ∧
    (setQueue q c s).ee = s.ee ∧
    (setQueue q c s).ca = s.ca ∧
    (setQueue q c s).wt = s.wt ∧
    (setQueue q c s).ct = s.ct ∧
    (setQueue q c s).su = s.su ∧
    (setQueue q c s).pu = s.pu ∧
    (setQueue q c s).mc = s.mc ∧
    (setQueue q c s).conf = s.conf ∧
    (setQueue q c s).pins = s.pins ∧
    (setQueue q c s).pending = s.pending ∧
    (setQueue q c s).work = s.work := by
  simp [setQueue]

@[simp] theorem setGen_frame (i : Fin 2) (g : Option GenSlot) (s : State) :
    (setGen i g s).cu = s.cu ∧
    (setGen i g s).om = s.om ∧
    (setGen i g s).rc = s.rc ∧
    (setGen i g s).ee = s.ee ∧
    (setGen i g s).ca = s.ca ∧
    (setGen i g s).wt = s.wt ∧
    (setGen i g s).ct = s.ct ∧
    (setGen i g s).su = s.su ∧
    (setGen i g s).pu.counter = s.pu.counter ∧
    (setGen i g s).pu.orders = s.pu.orders ∧
    (setGen i g s).mc = s.mc ∧
    (setGen i g s).conf = s.conf ∧
    (setGen i g s).pins = s.pins ∧
    (setGen i g s).pending = s.pending ∧
    (setGen i g s).store = s.store ∧
    (setGen i g s).work = s.work := by
  simp [setGen]

@[simp] theorem setHold_frame (i : Fin 2) (f : Nat → Nat) (s : State) :
    (setHold i f s).cu = s.cu ∧
    (setHold i f s).om = s.om ∧
    (setHold i f s).rc = s.rc ∧
    (setHold i f s).ee = s.ee ∧
    (setHold i f s).ca = s.ca ∧
    (setHold i f s).wt = s.wt ∧
    (setHold i f s).ct = s.ct ∧
    (setHold i f s).su = s.su ∧
    (setHold i f s).pu.counter = s.pu.counter ∧
    (setHold i f s).pu.orders = s.pu.orders ∧
    (setHold i f s).mc = s.mc ∧
    (setHold i f s).conf = s.conf ∧
    (setHold i f s).pins = s.pins ∧
    (setHold i f s).pending = s.pending ∧
    (setHold i f s).store = s.store ∧
    (setHold i f s).work = s.work := by
  unfold setHold
  split <;> simp

@[simp] theorem holdCurrent_frame (s : State) :
    (holdCurrent s).cu = s.cu ∧
    (holdCurrent s).om = s.om ∧
    (holdCurrent s).rc = s.rc ∧
    (holdCurrent s).ee = s.ee ∧
    (holdCurrent s).ca = s.ca ∧
    (holdCurrent s).wt = s.wt ∧
    (holdCurrent s).ct = s.ct ∧
    (holdCurrent s).su = s.su ∧
    (holdCurrent s).pu.counter = s.pu.counter ∧
    (holdCurrent s).pu.orders = s.pu.orders ∧
    (holdCurrent s).mc = s.mc ∧
    (holdCurrent s).conf = s.conf ∧
    (holdCurrent s).pins = s.pins ∧
    (holdCurrent s).pending = s.pending ∧
    (holdCurrent s).store = s.store ∧
    (holdCurrent s).work = s.work := by
  unfold holdCurrent
  split <;> simp

@[simp] theorem retireIfUnheld_frame (i : Fin 2) (s : State) :
    (retireIfUnheld i s).cu.lineClock = s.cu.lineClock ∧
    (retireIfUnheld i s).cu.enables = s.cu.enables ∧
    (retireIfUnheld i s).cu.job = s.cu.job ∧
    (retireIfUnheld i s).cu.attnPending = s.cu.attnPending ∧
    (retireIfUnheld i s).om = s.om ∧
    (retireIfUnheld i s).rc = s.rc ∧
    (retireIfUnheld i s).ee = s.ee ∧
    (retireIfUnheld i s).ca = s.ca ∧
    (retireIfUnheld i s).wt = s.wt ∧
    (retireIfUnheld i s).ct = s.ct ∧
    (retireIfUnheld i s).su = s.su ∧
    (retireIfUnheld i s).pu.counter = s.pu.counter ∧
    (retireIfUnheld i s).pu.orders = s.pu.orders ∧
    (retireIfUnheld i s).mc = s.mc ∧
    (retireIfUnheld i s).conf = s.conf ∧
    (retireIfUnheld i s).pins = s.pins ∧
    (retireIfUnheld i s).pending = s.pending ∧
    (retireIfUnheld i s).work = s.work := by
  unfold retireIfUnheld
  (repeat' split) <;> simp

@[simp] theorem releaseGen_frame (g : Option Word) (s : State) :
    (releaseGen g s).cu.lineClock = s.cu.lineClock ∧
    (releaseGen g s).cu.enables = s.cu.enables ∧
    (releaseGen g s).cu.job = s.cu.job ∧
    (releaseGen g s).cu.attnPending = s.cu.attnPending ∧
    (releaseGen g s).om = s.om ∧
    (releaseGen g s).rc = s.rc ∧
    (releaseGen g s).ee = s.ee ∧
    (releaseGen g s).ca = s.ca ∧
    (releaseGen g s).wt = s.wt ∧
    (releaseGen g s).ct = s.ct ∧
    (releaseGen g s).su = s.su ∧
    (releaseGen g s).pu.counter = s.pu.counter ∧
    (releaseGen g s).pu.orders = s.pu.orders ∧
    (releaseGen g s).mc = s.mc ∧
    (releaseGen g s).conf = s.conf ∧
    (releaseGen g s).pins = s.pins ∧
    (releaseGen g s).pending = s.pending ∧
    (releaseGen g s).work = s.work := by
  unfold releaseGen
  split <;> simp

@[simp] theorem retireCurrent_frame (s : State) :
    (retireCurrent s).cu.lineClock = s.cu.lineClock ∧
    (retireCurrent s).cu.enables = s.cu.enables ∧
    (retireCurrent s).cu.job = s.cu.job ∧
    (retireCurrent s).cu.attnPending = s.cu.attnPending ∧
    (retireCurrent s).om = s.om ∧
    (retireCurrent s).rc = s.rc ∧
    (retireCurrent s).ee = s.ee ∧
    (retireCurrent s).ca = s.ca ∧
    (retireCurrent s).wt = s.wt ∧
    (retireCurrent s).ct = s.ct ∧
    (retireCurrent s).su = s.su ∧
    (retireCurrent s).pu.counter = s.pu.counter ∧
    (retireCurrent s).pu.orders = s.pu.orders ∧
    (retireCurrent s).mc = s.mc ∧
    (retireCurrent s).conf = s.conf ∧
    (retireCurrent s).pins = s.pins ∧
    (retireCurrent s).pending = s.pending ∧
    (retireCurrent s).work = s.work := by
  unfold retireCurrent
  (repeat' split) <;> simp

@[simp] theorem installPrices_frame (t : PriceTable) (s : State) :
    (installPrices t s).cu.lineClock = s.cu.lineClock ∧
    (installPrices t s).cu.enables = s.cu.enables ∧
    (installPrices t s).cu.job = s.cu.job ∧
    (installPrices t s).cu.attnPending = s.cu.attnPending ∧
    (installPrices t s).om = s.om ∧
    (installPrices t s).rc = s.rc ∧
    (installPrices t s).ee = s.ee ∧
    (installPrices t s).ca = s.ca ∧
    (installPrices t s).wt = s.wt ∧
    (installPrices t s).ct = s.ct ∧
    (installPrices t s).su = s.su ∧
    (installPrices t s).pu.orders = s.pu.orders ∧
    (installPrices t s).mc = s.mc ∧
    (installPrices t s).conf = s.conf ∧
    (installPrices t s).pins = s.pins ∧
    (installPrices t s).pending = s.pending ∧
    (installPrices t s).work = s.work := by
  unfold installPrices
  split <;> simp

@[simp] theorem setPuOrder_frame (slot : Fin 8) (p : PuOrder) (s : State) :
    (setPuOrder slot p s).cu = s.cu ∧
    (setPuOrder slot p s).om = s.om ∧
    (setPuOrder slot p s).rc = s.rc ∧
    (setPuOrder slot p s).ee = s.ee ∧
    (setPuOrder slot p s).ca = s.ca ∧
    (setPuOrder slot p s).wt = s.wt ∧
    (setPuOrder slot p s).ct = s.ct ∧
    (setPuOrder slot p s).su = s.su ∧
    (setPuOrder slot p s).pu.counter = s.pu.counter ∧
    (setPuOrder slot p s).pu.gens = s.pu.gens ∧
    (setPuOrder slot p s).mc = s.mc ∧
    (setPuOrder slot p s).conf = s.conf ∧
    (setPuOrder slot p s).pins = s.pins ∧
    (setPuOrder slot p s).pending = s.pending ∧
    (setPuOrder slot p s).store = s.store ∧
    (setPuOrder slot p s).work = s.work := by
  simp [setPuOrder]

@[simp] theorem tallyDelivery_frame (slot : Fin 8) (item : Nat) (s : State) :
    (tallyDelivery slot item s).cu = s.cu ∧
    (tallyDelivery slot item s).om = s.om ∧
    (tallyDelivery slot item s).rc = s.rc ∧
    (tallyDelivery slot item s).ee = s.ee ∧
    (tallyDelivery slot item s).ca = s.ca ∧
    (tallyDelivery slot item s).wt = s.wt ∧
    (tallyDelivery slot item s).ct = s.ct ∧
    (tallyDelivery slot item s).su = s.su ∧
    (tallyDelivery slot item s).pu.counter = s.pu.counter ∧
    (tallyDelivery slot item s).pu.gens = s.pu.gens ∧
    (tallyDelivery slot item s).mc = s.mc ∧
    (tallyDelivery slot item s).conf = s.conf ∧
    (tallyDelivery slot item s).pins = s.pins ∧
    (tallyDelivery slot item s).pending = s.pending ∧
    (tallyDelivery slot item s).store = s.store ∧
    (tallyDelivery slot item s).work = s.work := by
  unfold tallyDelivery
  dsimp only
  split <;> simp

@[simp] theorem setBin_frame (i : Fin 32) (b : Bin) (s : State) :
    (setBin i b s).cu = s.cu ∧
    (setBin i b s).om = s.om ∧
    (setBin i b s).rc = s.rc ∧
    (setBin i b s).ee = s.ee ∧
    (setBin i b s).ca = s.ca ∧
    (setBin i b s).wt = s.wt ∧
    (setBin i b s).ct = s.ct ∧
    (setBin i b s).su.conveyor = s.su.conveyor ∧
    (setBin i b s).su.awaiting = s.su.awaiting ∧
    (setBin i b s).su.late = s.su.late ∧
    (setBin i b s).pu = s.pu ∧
    (setBin i b s).mc = s.mc ∧
    (setBin i b s).conf = s.conf ∧
    (setBin i b s).pins = s.pins ∧
    (setBin i b s).pending = s.pending ∧
    (setBin i b s).store = s.store ∧
    (setBin i b s).work = s.work := by
  simp [setBin]

@[simp] theorem freeBin_frame (i : Fin 32) (s : State) :
    (freeBin i s).cu = s.cu ∧
    (freeBin i s).om = s.om ∧
    (freeBin i s).rc = s.rc ∧
    (freeBin i s).ee = s.ee ∧
    (freeBin i s).ca = s.ca ∧
    (freeBin i s).wt = s.wt ∧
    (freeBin i s).ct = s.ct ∧
    (freeBin i s).su.conveyor = s.su.conveyor ∧
    (freeBin i s).su.awaiting = s.su.awaiting ∧
    (freeBin i s).su.late = s.su.late ∧
    (freeBin i s).pu = s.pu ∧
    (freeBin i s).mc = s.mc ∧
    (freeBin i s).conf = s.conf ∧
    (freeBin i s).pins = s.pins ∧
    (freeBin i s).pending = s.pending ∧
    (freeBin i s).store = s.store ∧
    (freeBin i s).work.status = s.work.status := by
  simp [freeBin]

@[simp] theorem reserveBin_frame (o : Owner) (s : State) (i : Fin 32) :
    (reserveBin o s i).cu = s.cu ∧
    (reserveBin o s i).om = s.om ∧
    (reserveBin o s i).rc = s.rc ∧
    (reserveBin o s i).ee = s.ee ∧
    (reserveBin o s i).ca = s.ca ∧
    (reserveBin o s i).wt = s.wt ∧
    (reserveBin o s i).ct = s.ct ∧
    (reserveBin o s i).su.conveyor = s.su.conveyor ∧
    (reserveBin o s i).su.awaiting = s.su.awaiting ∧
    (reserveBin o s i).su.late = s.su.late ∧
    (reserveBin o s i).pu = s.pu ∧
    (reserveBin o s i).mc = s.mc ∧
    (reserveBin o s i).conf = s.conf ∧
    (reserveBin o s i).pins = s.pins ∧
    (reserveBin o s i).pending = s.pending ∧
    (reserveBin o s i).store = s.store ∧
    (reserveBin o s i).work = s.work := by
  simp [reserveBin]

@[simp] theorem settleBin_frame (o : Owner) (s : State) (p : BinPlace) :
    (settleBin o s p).cu = s.cu ∧
    (settleBin o s p).om = s.om ∧
    (settleBin o s p).rc = s.rc ∧
    (settleBin o s p).ee = s.ee ∧
    (settleBin o s p).ca = s.ca ∧
    (settleBin o s p).wt = s.wt ∧
    (settleBin o s p).ct = s.ct ∧
    (settleBin o s p).su.conveyor = s.su.conveyor ∧
    (settleBin o s p).su.awaiting = s.su.awaiting ∧
    (settleBin o s p).su.late = s.su.late ∧
    (settleBin o s p).pu = s.pu ∧
    (settleBin o s p).mc = s.mc ∧
    (settleBin o s p).conf = s.conf ∧
    (settleBin o s p).pins = s.pins ∧
    (settleBin o s p).pending = s.pending ∧
    (settleBin o s p).store = s.store ∧
    (settleBin o s p).work.status = s.work.status := by
  unfold settleBin
  dsimp only
  (repeat' split) <;> simp

@[simp] theorem settleBins_frame (o : Owner) (places : List BinPlace) (s : State) :
    (settleBins o places s).cu = s.cu ∧
    (settleBins o places s).om = s.om ∧
    (settleBins o places s).rc = s.rc ∧
    (settleBins o places s).ee = s.ee ∧
    (settleBins o places s).ca = s.ca ∧
    (settleBins o places s).wt = s.wt ∧
    (settleBins o places s).ct = s.ct ∧
    (settleBins o places s).su.conveyor = s.su.conveyor ∧
    (settleBins o places s).su.awaiting = s.su.awaiting ∧
    (settleBins o places s).su.late = s.su.late ∧
    (settleBins o places s).pu = s.pu ∧
    (settleBins o places s).mc = s.mc ∧
    (settleBins o places s).conf = s.conf ∧
    (settleBins o places s).pins = s.pins ∧
    (settleBins o places s).pending = s.pending ∧
    (settleBins o places s).store = s.store ∧
    (settleBins o places s).work.status = s.work.status := by
  unfold settleBins
  exact ⟨foldl_keeps (fun t : State => t.cu) _ (by intros; simp) _ _,
    foldl_keeps (fun t : State => t.om) _ (by intros; simp) _ _,
    foldl_keeps (fun t : State => t.rc) _ (by intros; simp) _ _,
    foldl_keeps (fun t : State => t.ee) _ (by intros; simp) _ _,
    foldl_keeps (fun t : State => t.ca) _ (by intros; simp) _ _,
    foldl_keeps (fun t : State => t.wt) _ (by intros; simp) _ _,
    foldl_keeps (fun t : State => t.ct) _ (by intros; simp) _ _,
    foldl_keeps (fun t : State => t.su.conveyor) _ (by intros; simp) _ _,
    foldl_keeps (fun t : State => t.su.awaiting) _ (by intros; simp) _ _,
    foldl_keeps (fun t : State => t.su.late) _ (by intros; simp) _ _,
    foldl_keeps (fun t : State => t.pu) _ (by intros; simp) _ _,
    foldl_keeps (fun t : State => t.mc) _ (by intros; simp) _ _,
    foldl_keeps (fun t : State => t.conf) _ (by intros; simp) _ _,
    foldl_keeps (fun t : State => t.pins) _ (by intros; simp) _ _,
    foldl_keeps (fun t : State => t.pending) _ (by intros; simp) _ _,
    foldl_keeps (fun t : State => t.store) _ (by intros; simp) _ _,
    foldl_keeps (fun t : State => t.work.status) _ (by intros; simp) _ _⟩

@[simp] theorem lowerRouted_frame (d : Fin 34) (s : State) :
    (lowerRouted d s).cu = s.cu ∧
    (lowerRouted d s).om = s.om ∧
    (lowerRouted d s).rc = s.rc ∧
    (lowerRouted d s).ee = s.ee ∧
    (lowerRouted d s).ca = s.ca ∧
    (lowerRouted d s).wt = s.wt ∧
    (lowerRouted d s).ct = s.ct ∧
    (lowerRouted d s).su.conveyor = s.su.conveyor ∧
    (lowerRouted d s).su.awaiting = s.su.awaiting ∧
    (lowerRouted d s).su.late = s.su.late ∧
    (lowerRouted d s).pu = s.pu ∧
    (lowerRouted d s).mc = s.mc ∧
    (lowerRouted d s).conf = s.conf ∧
    (lowerRouted d s).pins = s.pins ∧
    (lowerRouted d s).pending = s.pending ∧
    (lowerRouted d s).store = s.store ∧
    (lowerRouted d s).work = s.work := by
  unfold lowerRouted
  split <;> simp

@[simp] theorem setLate_frame (d : Fin 34) (l : Late) (s : State) :
    (setLate d l s).cu = s.cu ∧
    (setLate d l s).om = s.om ∧
    (setLate d l s).rc = s.rc ∧
    (setLate d l s).ee = s.ee ∧
    (setLate d l s).ca = s.ca ∧
    (setLate d l s).wt = s.wt ∧
    (setLate d l s).ct = s.ct ∧
    (setLate d l s).su.conveyor = s.su.conveyor ∧
    (setLate d l s).su.awaiting = s.su.awaiting ∧
    (setLate d l s).su.bins = s.su.bins ∧
    (setLate d l s).pu = s.pu ∧
    (setLate d l s).mc = s.mc ∧
    (setLate d l s).conf = s.conf ∧
    (setLate d l s).pins = s.pins ∧
    (setLate d l s).pending = s.pending ∧
    (setLate d l s).store = s.store ∧
    (setLate d l s).work = s.work := by
  simp [setLate]

@[simp] theorem raiseLate_frame (d : Fin 34) (n : Nat) (s : State) :
    (raiseLate d n s).cu = s.cu ∧
    (raiseLate d n s).om = s.om ∧
    (raiseLate d n s).rc = s.rc ∧
    (raiseLate d n s).ee = s.ee ∧
    (raiseLate d n s).ca = s.ca ∧
    (raiseLate d n s).wt = s.wt ∧
    (raiseLate d n s).ct = s.ct ∧
    (raiseLate d n s).su.conveyor = s.su.conveyor ∧
    (raiseLate d n s).su.awaiting = s.su.awaiting ∧
    (raiseLate d n s).su.bins = s.su.bins ∧
    (raiseLate d n s).pu = s.pu ∧
    (raiseLate d n s).mc = s.mc ∧
    (raiseLate d n s).conf = s.conf ∧
    (raiseLate d n s).pins = s.pins ∧
    (raiseLate d n s).pending = s.pending ∧
    (raiseLate d n s).store = s.store ∧
    (raiseLate d n s).work = s.work := by
  simp [raiseLate]

@[simp] theorem raiseLateForConveyor_frame (s : State) :
    (raiseLateForConveyor s).cu = s.cu ∧
    (raiseLateForConveyor s).om = s.om ∧
    (raiseLateForConveyor s).rc = s.rc ∧
    (raiseLateForConveyor s).ee = s.ee ∧
    (raiseLateForConveyor s).ca = s.ca ∧
    (raiseLateForConveyor s).wt = s.wt ∧
    (raiseLateForConveyor s).ct = s.ct ∧
    (raiseLateForConveyor s).su.conveyor = s.su.conveyor ∧
    (raiseLateForConveyor s).su.awaiting = s.su.awaiting ∧
    (raiseLateForConveyor s).su.bins = s.su.bins ∧
    (raiseLateForConveyor s).pu = s.pu ∧
    (raiseLateForConveyor s).mc = s.mc ∧
    (raiseLateForConveyor s).conf = s.conf ∧
    (raiseLateForConveyor s).pins = s.pins ∧
    (raiseLateForConveyor s).pending = s.pending ∧
    (raiseLateForConveyor s).store = s.store ∧
    (raiseLateForConveyor s).work = s.work := by
  unfold raiseLateForConveyor
  exact ⟨foldl_keeps (fun t : State => t.cu) _ (by intro t d; split <;> simp) _ _,
    foldl_keeps (fun t : State => t.om) _ (by intro t d; split <;> simp) _ _,
    foldl_keeps (fun t : State => t.rc) _ (by intro t d; split <;> simp) _ _,
    foldl_keeps (fun t : State => t.ee) _ (by intro t d; split <;> simp) _ _,
    foldl_keeps (fun t : State => t.ca) _ (by intro t d; split <;> simp) _ _,
    foldl_keeps (fun t : State => t.wt) _ (by intro t d; split <;> simp) _ _,
    foldl_keeps (fun t : State => t.ct) _ (by intro t d; split <;> simp) _ _,
    foldl_keeps (fun t : State => t.su.conveyor) _ (by intro t d; split <;> simp) _ _,
    foldl_keeps (fun t : State => t.su.awaiting) _ (by intro t d; split <;> simp) _ _,
    foldl_keeps (fun t : State => t.su.bins) _ (by intro t d; split <;> simp) _ _,
    foldl_keeps (fun t : State => t.pu) _ (by intro t d; split <;> simp) _ _,
    foldl_keeps (fun t : State => t.mc) _ (by intro t d; split <;> simp) _ _,
    foldl_keeps (fun t : State => t.conf) _ (by intro t d; split <;> simp) _ _,
    foldl_keeps (fun t : State => t.pins) _ (by intro t d; split <;> simp) _ _,
    foldl_keeps (fun t : State => t.pending) _ (by intro t d; split <;> simp) _ _,
    foldl_keeps (fun t : State => t.store) _ (by intro t d; split <;> simp) _ _,
    foldl_keeps (fun t : State => t.work) _ (by intro t d; split <;> simp) _ _⟩

@[simp] theorem restartLate_frame (s : State) :
    (restartLate s).cu = s.cu ∧
    (restartLate s).om = s.om ∧
    (restartLate s).rc = s.rc ∧
    (restartLate s).ee = s.ee ∧
    (restartLate s).ca = s.ca ∧
    (restartLate s).wt = s.wt ∧
    (restartLate s).ct = s.ct ∧
    (restartLate s).su.conveyor = s.su.conveyor ∧
    (restartLate s).su.awaiting = s.su.awaiting ∧
    (restartLate s).su.bins = s.su.bins ∧
    (restartLate s).pu = s.pu ∧
    (restartLate s).mc = s.mc ∧
    (restartLate s).conf = s.conf ∧
    (restartLate s).pins = s.pins ∧
    (restartLate s).pending = s.pending ∧
    (restartLate s).store = s.store ∧
    (restartLate s).work = s.work := by
  unfold restartLate
  exact ⟨foldl_keeps (fun t : State => t.cu) _ (by intro t d; split <;> simp) _ _,
    foldl_keeps (fun t : State => t.om) _ (by intro t d; split <;> simp) _ _,
    foldl_keeps (fun t : State => t.rc) _ (by intro t d; split <;> simp) _ _,
    foldl_keeps (fun t : State => t.ee) _ (by intro t d; split <;> simp) _ _,
    foldl_keeps (fun t : State => t.ca) _ (by intro t d; split <;> simp) _ _,
    foldl_keeps (fun t : State => t.wt) _ (by intro t d; split <;> simp) _ _,
    foldl_keeps (fun t : State => t.ct) _ (by intro t d; split <;> simp) _ _,
    foldl_keeps (fun t : State => t.su.conveyor) _ (by intro t d; split <;> simp) _ _,
    foldl_keeps (fun t : State => t.su.awaiting) _ (by intro t d; split <;> simp) _ _,
    foldl_keeps (fun t : State => t.su.bins) _ (by intro t d; split <;> simp) _ _,
    foldl_keeps (fun t : State => t.pu) _ (by intro t d; split <;> simp) _ _,
    foldl_keeps (fun t : State => t.mc) _ (by intro t d; split <;> simp) _ _,
    foldl_keeps (fun t : State => t.conf) _ (by intro t d; split <;> simp) _ _,
    foldl_keeps (fun t : State => t.pins) _ (by intro t d; split <;> simp) _ _,
    foldl_keeps (fun t : State => t.pending) _ (by intro t d; split <;> simp) _ _,
    foldl_keeps (fun t : State => t.store) _ (by intro t d; split <;> simp) _ _,
    foldl_keeps (fun t : State => t.work) _ (by intro t d; split <;> simp) _ _⟩

@[simp] theorem dropPiece_frame (k : EntryKey) (s : State) :
    (dropPiece k s).cu = s.cu ∧
    (dropPiece k s).om = s.om ∧
    (dropPiece k s).rc = s.rc ∧
    (dropPiece k s).ee = s.ee ∧
    (dropPiece k s).ca = s.ca ∧
    (dropPiece k s).wt = s.wt ∧
    (dropPiece k s).ct = s.ct ∧
    (dropPiece k s).su.late = s.su.late ∧
    (dropPiece k s).pu = s.pu ∧
    (dropPiece k s).mc = s.mc ∧
    (dropPiece k s).conf = s.conf ∧
    (dropPiece k s).pins = s.pins ∧
    (dropPiece k s).pending = s.pending ∧
    (dropPiece k s).store = s.store ∧
    (dropPiece k s).work = s.work := by
  unfold dropPiece
  split <;> simp

@[simp] theorem binArrival_frame (i : Fin 32) (s : State) :
    (binArrival i s).cu = s.cu ∧
    (binArrival i s).om = s.om ∧
    (binArrival i s).rc = s.rc ∧
    (binArrival i s).ee = s.ee ∧
    (binArrival i s).ca = s.ca ∧
    (binArrival i s).wt = s.wt ∧
    (binArrival i s).ct = s.ct ∧
    (binArrival i s).su.conveyor = s.su.conveyor ∧
    (binArrival i s).su.awaiting = s.su.awaiting ∧
    (binArrival i s).su.late = s.su.late ∧
    (binArrival i s).pu = s.pu ∧
    (binArrival i s).mc = s.mc ∧
    (binArrival i s).conf = s.conf ∧
    (binArrival i s).pins = s.pins ∧
    (binArrival i s).pending = s.pending ∧
    (binArrival i s).store = s.store ∧
    (binArrival i s).work = s.work := by
  simp [binArrival]

@[simp] theorem writeRecord_frame (a : Word) (p : Progress) (s : State) :
    (writeRecord a p s).cu = s.cu ∧
    (writeRecord a p s).om = s.om ∧
    (writeRecord a p s).rc = s.rc ∧
    (writeRecord a p s).ee = s.ee ∧
    (writeRecord a p s).ca = s.ca ∧
    (writeRecord a p s).wt = s.wt ∧
    (writeRecord a p s).ct = s.ct ∧
    (writeRecord a p s).su = s.su ∧
    (writeRecord a p s).pu = s.pu ∧
    (writeRecord a p s).mc = s.mc ∧
    (writeRecord a p s).conf = s.conf ∧
    (writeRecord a p s).pins = s.pins ∧
    (writeRecord a p s).pending = s.pending ∧
    (writeRecord a p s).work = s.work := by
  simp [writeRecord]

@[simp] theorem setSlot_frame (i : Fin 8) (o : Option OpenOrder) (s : State) :
    (setSlot i o s).cu = s.cu ∧
    (setSlot i o s).om.deferred = s.om.deferred ∧
    (setSlot i o s).om.queues = s.om.queues ∧
    (setSlot i o s).om.seq = s.om.seq ∧
    (setSlot i o s).rc = s.rc ∧
    (setSlot i o s).ee = s.ee ∧
    (setSlot i o s).ca = s.ca ∧
    (setSlot i o s).wt = s.wt ∧
    (setSlot i o s).ct = s.ct ∧
    (setSlot i o s).su = s.su ∧
    (setSlot i o s).pu = s.pu ∧
    (setSlot i o s).mc = s.mc ∧
    (setSlot i o s).conf = s.conf ∧
    (setSlot i o s).pins = s.pins ∧
    (setSlot i o s).pending = s.pending ∧
    (setSlot i o s).store = s.store ∧
    (setSlot i o s).work = s.work := by
  simp [setSlot]

@[simp] theorem putOrder_frame (i : Fin 8) (o : OpenOrder) (s : State) :
    (putOrder i o s).cu = s.cu ∧
    (putOrder i o s).om.deferred = s.om.deferred ∧
    (putOrder i o s).om.queues = s.om.queues ∧
    (putOrder i o s).om.seq = s.om.seq ∧
    (putOrder i o s).rc = s.rc ∧
    (putOrder i o s).ee = s.ee ∧
    (putOrder i o s).ca = s.ca ∧
    (putOrder i o s).wt = s.wt ∧
    (putOrder i o s).ct = s.ct ∧
    (putOrder i o s).su = s.su ∧
    (putOrder i o s).pu = s.pu ∧
    (putOrder i o s).mc = s.mc ∧
    (putOrder i o s).conf = s.conf ∧
    (putOrder i o s).pins = s.pins ∧
    (putOrder i o s).pending = s.pending ∧
    (putOrder i o s).work = s.work := by
  simp [putOrder]

@[simp] theorem closeOrder_frame (i : Fin 8) (o : OpenOrder) (s : State) :
    (closeOrder i o s).cu.lineClock = s.cu.lineClock ∧
    (closeOrder i o s).cu.enables = s.cu.enables ∧
    (closeOrder i o s).cu.job = s.cu.job ∧
    (closeOrder i o s).cu.attnPending = s.cu.attnPending ∧
    (closeOrder i o s).om.deferred = s.om.deferred ∧
    (closeOrder i o s).om.queues = s.om.queues ∧
    (closeOrder i o s).om.seq = s.om.seq ∧
    (closeOrder i o s).rc = s.rc ∧
    (closeOrder i o s).ee = s.ee ∧
    (closeOrder i o s).ca = s.ca ∧
    (closeOrder i o s).wt = s.wt ∧
    (closeOrder i o s).ct = s.ct ∧
    (closeOrder i o s).su.conveyor = s.su.conveyor ∧
    (closeOrder i o s).su.awaiting = s.su.awaiting ∧
    (closeOrder i o s).su.late = s.su.late ∧
    (closeOrder i o s).pu.counter = s.pu.counter ∧
    (closeOrder i o s).mc = s.mc ∧
    (closeOrder i o s).conf = s.conf ∧
    (closeOrder i o s).pins = s.pins ∧
    (closeOrder i o s).pending = s.pending ∧
    (closeOrder i o s).work.status = s.work.status := by
  simp [closeOrder]

@[simp] theorem judgeClose_frame (i : Fin 8) (number : Word) (s : State) :
    (judgeClose i number s).cu.lineClock = s.cu.lineClock ∧
    (judgeClose i number s).cu.enables = s.cu.enables ∧
    (judgeClose i number s).cu.job = s.cu.job ∧
    (judgeClose i number s).cu.attnPending = s.cu.attnPending ∧
    (judgeClose i number s).om.deferred = s.om.deferred ∧
    (judgeClose i number s).om.queues = s.om.queues ∧
    (judgeClose i number s).om.seq = s.om.seq ∧
    (judgeClose i number s).rc = s.rc ∧
    (judgeClose i number s).ee = s.ee ∧
    (judgeClose i number s).ca = s.ca ∧
    (judgeClose i number s).wt = s.wt ∧
    (judgeClose i number s).ct = s.ct ∧
    (judgeClose i number s).su.conveyor = s.su.conveyor ∧
    (judgeClose i number s).su.awaiting = s.su.awaiting ∧
    (judgeClose i number s).su.late = s.su.late ∧
    (judgeClose i number s).pu.counter = s.pu.counter ∧
    (judgeClose i number s).mc = s.mc ∧
    (judgeClose i number s).conf = s.conf ∧
    (judgeClose i number s).pins = s.pins ∧
    (judgeClose i number s).pending = s.pending ∧
    (judgeClose i number s).work.status = s.work.status := by
  unfold judgeClose
  (repeat' split) <;> simp

@[simp] theorem countDelivery_frame (r : CopyRef) (toCatch : Bool) (f : TrackFlags) (s : State) :
    (countDelivery r toCatch f s).cu.lineClock = s.cu.lineClock ∧
    (countDelivery r toCatch f s).cu.enables = s.cu.enables ∧
    (countDelivery r toCatch f s).cu.job = s.cu.job ∧
    (countDelivery r toCatch f s).cu.attnPending = s.cu.attnPending ∧
    (countDelivery r toCatch f s).om.deferred = s.om.deferred ∧
    (countDelivery r toCatch f s).om.queues = s.om.queues ∧
    (countDelivery r toCatch f s).om.seq = s.om.seq ∧
    (countDelivery r toCatch f s).rc = s.rc ∧
    (countDelivery r toCatch f s).ee = s.ee ∧
    (countDelivery r toCatch f s).ca = s.ca ∧
    (countDelivery r toCatch f s).wt = s.wt ∧
    (countDelivery r toCatch f s).ct = s.ct ∧
    (countDelivery r toCatch f s).su.conveyor = s.su.conveyor ∧
    (countDelivery r toCatch f s).su.awaiting = s.su.awaiting ∧
    (countDelivery r toCatch f s).su.late = s.su.late ∧
    (countDelivery r toCatch f s).pu.counter = s.pu.counter ∧
    (countDelivery r toCatch f s).mc = s.mc ∧
    (countDelivery r toCatch f s).conf = s.conf ∧
    (countDelivery r toCatch f s).pins = s.pins ∧
    (countDelivery r toCatch f s).pending = s.pending ∧
    (countDelivery r toCatch f s).work.status = s.work.status := by
  unfold countDelivery
  split <;> simp

@[simp] theorem countFailed_frame (r : CopyRef) (s : State) :
    (countFailed r s).cu.lineClock = s.cu.lineClock ∧
    (countFailed r s).cu.enables = s.cu.enables ∧
    (countFailed r s).cu.job = s.cu.job ∧
    (countFailed r s).cu.attnPending = s.cu.attnPending ∧
    (countFailed r s).om.deferred = s.om.deferred ∧
    (countFailed r s).om.queues = s.om.queues ∧
    (countFailed r s).om.seq = s.om.seq ∧
    (countFailed r s).rc = s.rc ∧
    (countFailed r s).ee = s.ee ∧
    (countFailed r s).ca = s.ca ∧
    (countFailed r s).wt = s.wt ∧
    (countFailed r s).ct = s.ct ∧
    (countFailed r s).su.conveyor = s.su.conveyor ∧
    (countFailed r s).su.awaiting = s.su.awaiting ∧
    (countFailed r s).su.late = s.su.late ∧
    (countFailed r s).pu.counter = s.pu.counter ∧
    (countFailed r s).mc = s.mc ∧
    (countFailed r s).conf = s.conf ∧
    (countFailed r s).pins = s.pins ∧
    (countFailed r s).pending = s.pending ∧
    (countFailed r s).work.status = s.work.status := by
  unfold countFailed
  split <;> simp

@[simp] theorem returnCopy_frame (r : CopyRef) (s : State) :
    (returnCopy r s).cu = s.cu ∧
    (returnCopy r s).om.deferred = s.om.deferred ∧
    (returnCopy r s).om.queues = s.om.queues ∧
    (returnCopy r s).om.seq = s.om.seq ∧
    (returnCopy r s).rc = s.rc ∧
    (returnCopy r s).ee = s.ee ∧
    (returnCopy r s).ca = s.ca ∧
    (returnCopy r s).wt = s.wt ∧
    (returnCopy r s).ct = s.ct ∧
    (returnCopy r s).su = s.su ∧
    (returnCopy r s).pu = s.pu ∧
    (returnCopy r s).mc = s.mc ∧
    (returnCopy r s).conf = s.conf ∧
    (returnCopy r s).pins = s.pins ∧
    (returnCopy r s).pending = s.pending ∧
    (returnCopy r s).work.status = s.work.status := by
  unfold returnCopy
  split <;> simp

@[simp] theorem commitCopy_frame (i : Fin 8) (o : OpenOrder) (c : Cursor) (s : State) :
    (commitCopy i o c s).cu = s.cu ∧
    (commitCopy i o c s).om.deferred = s.om.deferred ∧
    (commitCopy i o c s).om.queues = s.om.queues ∧
    (commitCopy i o c s).om.seq = s.om.seq ∧
    (commitCopy i o c s).rc = s.rc ∧
    (commitCopy i o c s).ee = s.ee ∧
    (commitCopy i o c s).ca = s.ca ∧
    (commitCopy i o c s).wt = s.wt ∧
    (commitCopy i o c s).ct = s.ct ∧
    (commitCopy i o c s).su = s.su ∧
    (commitCopy i o c s).pu = s.pu ∧
    (commitCopy i o c s).mc = s.mc ∧
    (commitCopy i o c s).conf = s.conf ∧
    (commitCopy i o c s).pins = s.pins ∧
    (commitCopy i o c s).pending = s.pending ∧
    (commitCopy i o c s).work = s.work := by
  simp [commitCopy]

@[simp] theorem markEarly_frame (o : Owner) (bin : Fin 32) (s : State) :
    (markEarly o bin s).cu = s.cu ∧
    (markEarly o bin s).om.deferred = s.om.deferred ∧
    (markEarly o bin s).om.queues = s.om.queues ∧
    (markEarly o bin s).om.seq = s.om.seq ∧
    (markEarly o bin s).rc = s.rc ∧
    (markEarly o bin s).ee = s.ee ∧
    (markEarly o bin s).ca = s.ca ∧
    (markEarly o bin s).wt = s.wt ∧
    (markEarly o bin s).ct = s.ct ∧
    (markEarly o bin s).su = s.su ∧
    (markEarly o bin s).pu = s.pu ∧
    (markEarly o bin s).mc = s.mc ∧
    (markEarly o bin s).conf = s.conf ∧
    (markEarly o bin s).pins = s.pins ∧
    (markEarly o bin s).pending = s.pending ∧
    (markEarly o bin s).work = s.work := by
  unfold markEarly
  split <;> simp

@[simp] theorem reexamineQueue_frame (s : State) (q : QueueId) :
    (reexamineQueue s q).cu = s.cu ∧
    (reexamineQueue s q).om.deferred = s.om.deferred ∧
    (reexamineQueue s q).om.table = s.om.table ∧
    (reexamineQueue s q).om.seq = s.om.seq ∧
    (reexamineQueue s q).rc = s.rc ∧
    (reexamineQueue s q).ee = s.ee ∧
    (reexamineQueue s q).ca = s.ca ∧
    (reexamineQueue s q).wt = s.wt ∧
    (reexamineQueue s q).ct = s.ct ∧
    (reexamineQueue s q).su = s.su ∧
    (reexamineQueue s q).pu = s.pu ∧
    (reexamineQueue s q).mc = s.mc ∧
    (reexamineQueue s q).conf = s.conf ∧
    (reexamineQueue s q).pins = s.pins ∧
    (reexamineQueue s q).pending = s.pending ∧
    (reexamineQueue s q).work.status = s.work.status := by
  unfold reexamineQueue
  dsimp only
  split <;> simp

@[simp] theorem reexamineBlocked_frame (s : State) :
    (reexamineBlocked s).cu = s.cu ∧
    (reexamineBlocked s).om.deferred = s.om.deferred ∧
    (reexamineBlocked s).om.table = s.om.table ∧
    (reexamineBlocked s).om.seq = s.om.seq ∧
    (reexamineBlocked s).rc = s.rc ∧
    (reexamineBlocked s).ee = s.ee ∧
    (reexamineBlocked s).ca = s.ca ∧
    (reexamineBlocked s).wt = s.wt ∧
    (reexamineBlocked s).ct = s.ct ∧
    (reexamineBlocked s).su = s.su ∧
    (reexamineBlocked s).pu = s.pu ∧
    (reexamineBlocked s).mc = s.mc ∧
    (reexamineBlocked s).conf = s.conf ∧
    (reexamineBlocked s).pins = s.pins ∧
    (reexamineBlocked s).pending = s.pending ∧
    (reexamineBlocked s).work.status = s.work.status := by
  unfold reexamineBlocked
  exact ⟨foldl_keeps (fun t : State => t.cu) _ (by intros; simp) _ _,
    foldl_keeps (fun t : State => t.om.deferred) _ (by intros; simp) _ _,
    foldl_keeps (fun t : State => t.om.table) _ (by intros; simp) _ _,
    foldl_keeps (fun t : State => t.om.seq) _ (by intros; simp) _ _,
    foldl_keeps (fun t : State => t.rc) _ (by intros; simp) _ _,
    foldl_keeps (fun t : State => t.ee) _ (by intros; simp) _ _,
    foldl_keeps (fun t : State => t.ca) _ (by intros; simp) _ _,
    foldl_keeps (fun t : State => t.wt) _ (by intros; simp) _ _,
    foldl_keeps (fun t : State => t.ct) _ (by intros; simp) _ _,
    foldl_keeps (fun t : State => t.su) _ (by intros; simp) _ _,
    foldl_keeps (fun t : State => t.pu) _ (by intros; simp) _ _,
    foldl_keeps (fun t : State => t.mc) _ (by intros; simp) _ _,
    foldl_keeps (fun t : State => t.conf) _ (by intros; simp) _ _,
    foldl_keeps (fun t : State => t.pins) _ (by intros; simp) _ _,
    foldl_keeps (fun t : State => t.pending) _ (by intros; simp) _ _,
    foldl_keeps (fun t : State => t.work.status) _ (by intros; simp) _ _⟩

@[simp] theorem dropDeferred_frame (d : Deferred) (s : State) :
    (dropDeferred d s).cu = s.cu ∧
    (dropDeferred d s).om.table = s.om.table ∧
    (dropDeferred d s).om.seq = s.om.seq ∧
    (dropDeferred d s).rc = s.rc ∧
    (dropDeferred d s).ee = s.ee ∧
    (dropDeferred d s).ca = s.ca ∧
    (dropDeferred d s).wt = s.wt ∧
    (dropDeferred d s).ct = s.ct ∧
    (dropDeferred d s).su = s.su ∧
    (dropDeferred d s).pu = s.pu ∧
    (dropDeferred d s).mc = s.mc ∧
    (dropDeferred d s).conf = s.conf ∧
    (dropDeferred d s).pins = s.pins ∧
    (dropDeferred d s).pending = s.pending ∧
    (dropDeferred d s).work.status = s.work.status := by
  simp [dropDeferred]

@[simp] theorem haltQueue_frame (q : QueueId) (link : Word) (carrier : Word) (c : QueueCtx) (s : State) :
    (haltQueue q link carrier c s).cu.lineClock = s.cu.lineClock ∧
    (haltQueue q link carrier c s).cu.enables = s.cu.enables ∧
    (haltQueue q link carrier c s).cu.job = s.cu.job ∧
    (haltQueue q link carrier c s).cu.attnPending = s.cu.attnPending ∧
    (haltQueue q link carrier c s).om.deferred = s.om.deferred ∧
    (haltQueue q link carrier c s).om.table = s.om.table ∧
    (haltQueue q link carrier c s).om.seq = s.om.seq ∧
    (haltQueue q link carrier c s).rc = s.rc ∧
    (haltQueue q link carrier c s).ee = s.ee ∧
    (haltQueue q link carrier c s).ca = s.ca ∧
    (haltQueue q link carrier c s).wt = s.wt ∧
    (haltQueue q link carrier c s).ct = s.ct ∧
    (haltQueue q link carrier c s).su = s.su ∧
    (haltQueue q link carrier c s).pu = s.pu ∧
    (haltQueue q link carrier c s).mc = s.mc ∧
    (haltQueue q link carrier c s).conf = s.conf ∧
    (haltQueue q link carrier c s).pins = s.pins ∧
    (haltQueue q link carrier c s).pending = s.pending ∧
    (haltQueue q link carrier c s).work = s.work := by
  simp [haltQueue]

@[simp] theorem followLink_frame (q : QueueId) (taken : Word) (s : State) :
    (followLink q taken s).cu.lineClock = s.cu.lineClock ∧
    (followLink q taken s).cu.enables = s.cu.enables ∧
    (followLink q taken s).cu.job = s.cu.job ∧
    (followLink q taken s).cu.attnPending = s.cu.attnPending ∧
    (followLink q taken s).om.deferred = s.om.deferred ∧
    (followLink q taken s).om.table = s.om.table ∧
    (followLink q taken s).om.seq = s.om.seq ∧
    (followLink q taken s).rc = s.rc ∧
    (followLink q taken s).ee = s.ee ∧
    (followLink q taken s).ca = s.ca ∧
    (followLink q taken s).wt = s.wt ∧
    (followLink q taken s).ct = s.ct ∧
    (followLink q taken s).su = s.su ∧
    (followLink q taken s).pu = s.pu ∧
    (followLink q taken s).mc = s.mc ∧
    (followLink q taken s).conf = s.conf ∧
    (followLink q taken s).pins = s.pins ∧
    (followLink q taken s).pending = s.pending ∧
    (followLink q taken s).work = s.work := by
  unfold followLink
  dsimp only
  (repeat' split) <;> simp

@[simp] theorem refuseRecord_frame (a : Word) (r : Reason) (s : State) :
    (refuseRecord a r s).cu.lineClock = s.cu.lineClock ∧
    (refuseRecord a r s).cu.enables = s.cu.enables ∧
    (refuseRecord a r s).cu.job = s.cu.job ∧
    (refuseRecord a r s).cu.attnPending = s.cu.attnPending ∧
    (refuseRecord a r s).om = s.om ∧
    (refuseRecord a r s).rc = s.rc ∧
    (refuseRecord a r s).ee = s.ee ∧
    (refuseRecord a r s).ca = s.ca ∧
    (refuseRecord a r s).wt = s.wt ∧
    (refuseRecord a r s).ct = s.ct ∧
    (refuseRecord a r s).su = s.su ∧
    (refuseRecord a r s).pu = s.pu ∧
    (refuseRecord a r s).mc = s.mc ∧
    (refuseRecord a r s).conf = s.conf ∧
    (refuseRecord a r s).pins = s.pins ∧
    (refuseRecord a r s).pending = s.pending ∧
    (refuseRecord a r s).work = s.work := by
  simp [refuseRecord]

@[simp] theorem deferRecord_frame (q : QueueId) (a : Word) (s : State) :
    (deferRecord q a s).cu.lineClock = s.cu.lineClock ∧
    (deferRecord q a s).cu.enables = s.cu.enables ∧
    (deferRecord q a s).cu.job = s.cu.job ∧
    (deferRecord q a s).cu.attnPending = s.cu.attnPending ∧
    (deferRecord q a s).om.queues = s.om.queues ∧
    (deferRecord q a s).om.table = s.om.table ∧
    (deferRecord q a s).om.seq = s.om.seq ∧
    (deferRecord q a s).rc = s.rc ∧
    (deferRecord q a s).ee = s.ee ∧
    (deferRecord q a s).ca = s.ca ∧
    (deferRecord q a s).wt = s.wt ∧
    (deferRecord q a s).ct = s.ct ∧
    (deferRecord q a s).su = s.su ∧
    (deferRecord q a s).pu = s.pu ∧
    (deferRecord q a s).mc = s.mc ∧
    (deferRecord q a s).conf = s.conf ∧
    (deferRecord q a s).pins = s.pins ∧
    (deferRecord q a s).pending = s.pending ∧
    (deferRecord q a s).work = s.work := by
  simp [deferRecord]

@[simp] theorem reexamineDeferred_frame (s : State) (d : Deferred) :
    (reexamineDeferred s d).cu.lineClock = s.cu.lineClock ∧
    (reexamineDeferred s d).cu.enables = s.cu.enables ∧
    (reexamineDeferred s d).cu.job = s.cu.job ∧
    (reexamineDeferred s d).cu.attnPending = s.cu.attnPending ∧
    (reexamineDeferred s d).om.table = s.om.table ∧
    (reexamineDeferred s d).om.seq = s.om.seq ∧
    (reexamineDeferred s d).rc = s.rc ∧
    (reexamineDeferred s d).ee = s.ee ∧
    (reexamineDeferred s d).ca = s.ca ∧
    (reexamineDeferred s d).wt = s.wt ∧
    (reexamineDeferred s d).ct = s.ct ∧
    (reexamineDeferred s d).su = s.su ∧
    (reexamineDeferred s d).pu = s.pu ∧
    (reexamineDeferred s d).mc = s.mc ∧
    (reexamineDeferred s d).conf = s.conf ∧
    (reexamineDeferred s d).pins = s.pins ∧
    (reexamineDeferred s d).pending = s.pending ∧
    (reexamineDeferred s d).work.status = s.work.status := by
  unfold reexamineDeferred
  dsimp only
  split <;> simp

@[simp] theorem reexamineItem_frame (i : Fin 8) (number : Word) (s : State) (n : Nat) :
    (reexamineItem i number s n).cu.lineClock = s.cu.lineClock ∧
    (reexamineItem i number s n).cu.enables = s.cu.enables ∧
    (reexamineItem i number s n).cu.job = s.cu.job ∧
    (reexamineItem i number s n).cu.attnPending = s.cu.attnPending ∧
    (reexamineItem i number s n).om.deferred = s.om.deferred ∧
    (reexamineItem i number s n).om.queues = s.om.queues ∧
    (reexamineItem i number s n).om.seq = s.om.seq ∧
    (reexamineItem i number s n).rc.slot = s.rc.slot ∧
    (reexamineItem i number s n).rc.mask = s.rc.mask ∧
    (reexamineItem i number s n).rc.hot = s.rc.hot ∧
    (reexamineItem i number s n).rc.firstCal = s.rc.firstCal ∧
    (reexamineItem i number s n).rc.binWait = s.rc.binWait ∧
    (reexamineItem i number s n).ee = s.ee ∧
    (reexamineItem i number s n).ca = s.ca ∧
    (reexamineItem i number s n).wt = s.wt ∧
    (reexamineItem i number s n).ct = s.ct ∧
    (reexamineItem i number s n).su.conveyor = s.su.conveyor ∧
    (reexamineItem i number s n).su.awaiting = s.su.awaiting ∧
    (reexamineItem i number s n).su.late = s.su.late ∧
    (reexamineItem i number s n).pu.counter = s.pu.counter ∧
    (reexamineItem i number s n).mc = s.mc ∧
    (reexamineItem i number s n).conf = s.conf ∧
    (reexamineItem i number s n).pins = s.pins ∧
    (reexamineItem i number s n).pending = s.pending ∧
    (reexamineItem i number s n).work.status = s.work.status := by
  unfold reexamineItem
  dsimp only
  (repeat' split) <;> simp

@[simp] theorem reexamineOrder_frame (s : State) (i : Fin 8) :
    (reexamineOrder s i).cu.lineClock = s.cu.lineClock ∧
    (reexamineOrder s i).cu.enables = s.cu.enables ∧
    (reexamineOrder s i).cu.job = s.cu.job ∧
    (reexamineOrder s i).cu.attnPending = s.cu.attnPending ∧
    (reexamineOrder s i).om.deferred = s.om.deferred ∧
    (reexamineOrder s i).om.queues = s.om.queues ∧
    (reexamineOrder s i).om.seq = s.om.seq ∧
    (reexamineOrder s i).rc.slot = s.rc.slot ∧
    (reexamineOrder s i).rc.mask = s.rc.mask ∧
    (reexamineOrder s i).rc.hot = s.rc.hot ∧
    (reexamineOrder s i).rc.firstCal = s.rc.firstCal ∧
    (reexamineOrder s i).rc.binWait = s.rc.binWait ∧
    (reexamineOrder s i).ee = s.ee ∧
    (reexamineOrder s i).ca = s.ca ∧
    (reexamineOrder s i).wt = s.wt ∧
    (reexamineOrder s i).ct = s.ct ∧
    (reexamineOrder s i).su.conveyor = s.su.conveyor ∧
    (reexamineOrder s i).su.awaiting = s.su.awaiting ∧
    (reexamineOrder s i).su.late = s.su.late ∧
    (reexamineOrder s i).pu.counter = s.pu.counter ∧
    (reexamineOrder s i).mc = s.mc ∧
    (reexamineOrder s i).conf = s.conf ∧
    (reexamineOrder s i).pins = s.pins ∧
    (reexamineOrder s i).pending = s.pending ∧
    (reexamineOrder s i).work.status = s.work.status := by
  unfold reexamineOrder
  split
  · simp
  · exact ⟨foldl_keeps (fun t : State => t.cu.lineClock) _ (by intros; simp) _ _,
      foldl_keeps (fun t : State => t.cu.enables) _ (by intros; simp) _ _,
      foldl_keeps (fun t : State => t.cu.job) _ (by intros; simp) _ _,
      foldl_keeps (fun t : State => t.cu.attnPending) _ (by intros; simp) _ _,
      foldl_keeps (fun t : State => t.om.deferred) _ (by intros; simp) _ _,
      foldl_keeps (fun t : State => t.om.queues) _ (by intros; simp) _ _,
      foldl_keeps (fun t : State => t.om.seq) _ (by intros; simp) _ _,
      foldl_keeps (fun t : State => t.rc.slot) _ (by intros; simp) _ _,
      foldl_keeps (fun t : State => t.rc.mask) _ (by intros; simp) _ _,
      foldl_keeps (fun t : State => t.rc.hot) _ (by intros; simp) _ _,
      foldl_keeps (fun t : State => t.rc.firstCal) _ (by intros; simp) _ _,
      foldl_keeps (fun t : State => t.rc.binWait) _ (by intros; simp) _ _,
      foldl_keeps (fun t : State => t.ee) _ (by intros; simp) _ _,
      foldl_keeps (fun t : State => t.ca) _ (by intros; simp) _ _,
      foldl_keeps (fun t : State => t.wt) _ (by intros; simp) _ _,
      foldl_keeps (fun t : State => t.ct) _ (by intros; simp) _ _,
      foldl_keeps (fun t : State => t.su.conveyor) _ (by intros; simp) _ _,
      foldl_keeps (fun t : State => t.su.awaiting) _ (by intros; simp) _ _,
      foldl_keeps (fun t : State => t.su.late) _ (by intros; simp) _ _,
      foldl_keeps (fun t : State => t.pu.counter) _ (by intros; simp) _ _,
      foldl_keeps (fun t : State => t.mc) _ (by intros; simp) _ _,
      foldl_keeps (fun t : State => t.conf) _ (by intros; simp) _ _,
      foldl_keeps (fun t : State => t.pins) _ (by intros; simp) _ _,
      foldl_keeps (fun t : State => t.pending) _ (by intros; simp) _ _,
      foldl_keeps (fun t : State => t.work.status) _ (by intros; simp) _ _⟩

@[simp] theorem reexamineDeferreds_frame (l : List Deferred) (s : State) :
    (l.foldl reexamineDeferred s).cu.lineClock = s.cu.lineClock ∧
    (l.foldl reexamineDeferred s).cu.enables = s.cu.enables ∧
    (l.foldl reexamineDeferred s).cu.job = s.cu.job ∧
    (l.foldl reexamineDeferred s).cu.attnPending = s.cu.attnPending ∧
    (l.foldl reexamineDeferred s).om.table = s.om.table ∧
    (l.foldl reexamineDeferred s).om.seq = s.om.seq ∧
    (l.foldl reexamineDeferred s).rc = s.rc ∧
    (l.foldl reexamineDeferred s).ee = s.ee ∧
    (l.foldl reexamineDeferred s).ca = s.ca ∧
    (l.foldl reexamineDeferred s).wt = s.wt ∧
    (l.foldl reexamineDeferred s).ct = s.ct ∧
    (l.foldl reexamineDeferred s).su = s.su ∧
    (l.foldl reexamineDeferred s).pu = s.pu ∧
    (l.foldl reexamineDeferred s).mc = s.mc ∧
    (l.foldl reexamineDeferred s).conf = s.conf ∧
    (l.foldl reexamineDeferred s).pins = s.pins ∧
    (l.foldl reexamineDeferred s).pending = s.pending ∧
    (l.foldl reexamineDeferred s).work.status = s.work.status :=
  ⟨foldl_keeps (fun t : State => t.cu.lineClock) _ (by intros; simp) _ _,
    foldl_keeps (fun t : State => t.cu.enables) _ (by intros; simp) _ _,
    foldl_keeps (fun t : State => t.cu.job) _ (by intros; simp) _ _,
    foldl_keeps (fun t : State => t.cu.attnPending) _ (by intros; simp) _ _,
    foldl_keeps (fun t : State => t.om.table) _ (by intros; simp) _ _,
    foldl_keeps (fun t : State => t.om.seq) _ (by intros; simp) _ _,
    foldl_keeps (fun t : State => t.rc) _ (by intros; simp) _ _,
    foldl_keeps (fun t : State => t.ee) _ (by intros; simp) _ _,
    foldl_keeps (fun t : State => t.ca) _ (by intros; simp) _ _,
    foldl_keeps (fun t : State => t.wt) _ (by intros; simp) _ _,
    foldl_keeps (fun t : State => t.ct) _ (by intros; simp) _ _,
    foldl_keeps (fun t : State => t.su) _ (by intros; simp) _ _,
    foldl_keeps (fun t : State => t.pu) _ (by intros; simp) _ _,
    foldl_keeps (fun t : State => t.mc) _ (by intros; simp) _ _,
    foldl_keeps (fun t : State => t.conf) _ (by intros; simp) _ _,
    foldl_keeps (fun t : State => t.pins) _ (by intros; simp) _ _,
    foldl_keeps (fun t : State => t.pending) _ (by intros; simp) _ _,
    foldl_keeps (fun t : State => t.work.status) _ (by intros; simp) _ _⟩

@[simp] theorem reexamineOrders_frame (l : List (Fin 8)) (s : State) :
    (l.foldl reexamineOrder s).cu.lineClock = s.cu.lineClock ∧
    (l.foldl reexamineOrder s).cu.enables = s.cu.enables ∧
    (l.foldl reexamineOrder s).cu.job = s.cu.job ∧
    (l.foldl reexamineOrder s).cu.attnPending = s.cu.attnPending ∧
    (l.foldl reexamineOrder s).om.deferred = s.om.deferred ∧
    (l.foldl reexamineOrder s).om.queues = s.om.queues ∧
    (l.foldl reexamineOrder s).om.seq = s.om.seq ∧
    (l.foldl reexamineOrder s).rc.slot = s.rc.slot ∧
    (l.foldl reexamineOrder s).rc.mask = s.rc.mask ∧
    (l.foldl reexamineOrder s).rc.hot = s.rc.hot ∧
    (l.foldl reexamineOrder s).rc.firstCal = s.rc.firstCal ∧
    (l.foldl reexamineOrder s).rc.binWait = s.rc.binWait ∧
    (l.foldl reexamineOrder s).ee = s.ee ∧
    (l.foldl reexamineOrder s).ca = s.ca ∧
    (l.foldl reexamineOrder s).wt = s.wt ∧
    (l.foldl reexamineOrder s).ct = s.ct ∧
    (l.foldl reexamineOrder s).su.conveyor = s.su.conveyor ∧
    (l.foldl reexamineOrder s).su.awaiting = s.su.awaiting ∧
    (l.foldl reexamineOrder s).su.late = s.su.late ∧
    (l.foldl reexamineOrder s).pu.counter = s.pu.counter ∧
    (l.foldl reexamineOrder s).mc = s.mc ∧
    (l.foldl reexamineOrder s).conf = s.conf ∧
    (l.foldl reexamineOrder s).pins = s.pins ∧
    (l.foldl reexamineOrder s).pending = s.pending ∧
    (l.foldl reexamineOrder s).work.status = s.work.status :=
  ⟨foldl_keeps (fun t : State => t.cu.lineClock) _ (by intros; simp) _ _,
    foldl_keeps (fun t : State => t.cu.enables) _ (by intros; simp) _ _,
    foldl_keeps (fun t : State => t.cu.job) _ (by intros; simp) _ _,
    foldl_keeps (fun t : State => t.cu.attnPending) _ (by intros; simp) _ _,
    foldl_keeps (fun t : State => t.om.deferred) _ (by intros; simp) _ _,
    foldl_keeps (fun t : State => t.om.queues) _ (by intros; simp) _ _,
    foldl_keeps (fun t : State => t.om.seq) _ (by intros; simp) _ _,
    foldl_keeps (fun t : State => t.rc.slot) _ (by intros; simp) _ _,
    foldl_keeps (fun t : State => t.rc.mask) _ (by intros; simp) _ _,
    foldl_keeps (fun t : State => t.rc.hot) _ (by intros; simp) _ _,
    foldl_keeps (fun t : State => t.rc.firstCal) _ (by intros; simp) _ _,
    foldl_keeps (fun t : State => t.rc.binWait) _ (by intros; simp) _ _,
    foldl_keeps (fun t : State => t.ee) _ (by intros; simp) _ _,
    foldl_keeps (fun t : State => t.ca) _ (by intros; simp) _ _,
    foldl_keeps (fun t : State => t.wt) _ (by intros; simp) _ _,
    foldl_keeps (fun t : State => t.ct) _ (by intros; simp) _ _,
    foldl_keeps (fun t : State => t.su.conveyor) _ (by intros; simp) _ _,
    foldl_keeps (fun t : State => t.su.awaiting) _ (by intros; simp) _ _,
    foldl_keeps (fun t : State => t.su.late) _ (by intros; simp) _ _,
    foldl_keeps (fun t : State => t.pu.counter) _ (by intros; simp) _ _,
    foldl_keeps (fun t : State => t.mc) _ (by intros; simp) _ _,
    foldl_keeps (fun t : State => t.conf) _ (by intros; simp) _ _,
    foldl_keeps (fun t : State => t.pins) _ (by intros; simp) _ _,
    foldl_keeps (fun t : State => t.pending) _ (by intros; simp) _ _,
    foldl_keeps (fun t : State => t.work.status) _ (by intros; simp) _ _⟩

@[simp] theorem reexamineAll_frame (s : State) :
    (reexamineAll s).cu.lineClock = s.cu.lineClock ∧
    (reexamineAll s).cu.enables = s.cu.enables ∧
    (reexamineAll s).cu.job = s.cu.job ∧
    (reexamineAll s).cu.attnPending = s.cu.attnPending ∧
    (reexamineAll s).om.seq = s.om.seq ∧
    (reexamineAll s).rc.slot = s.rc.slot ∧
    (reexamineAll s).rc.mask = s.rc.mask ∧
    (reexamineAll s).rc.hot = s.rc.hot ∧
    (reexamineAll s).rc.firstCal = s.rc.firstCal ∧
    (reexamineAll s).rc.binWait = s.rc.binWait ∧
    (reexamineAll s).ee = s.ee ∧
    (reexamineAll s).ca = s.ca ∧
    (reexamineAll s).wt = s.wt ∧
    (reexamineAll s).ct = s.ct ∧
    (reexamineAll s).su.conveyor = s.su.conveyor ∧
    (reexamineAll s).su.awaiting = s.su.awaiting ∧
    (reexamineAll s).su.late = s.su.late ∧
    (reexamineAll s).pu.counter = s.pu.counter ∧
    (reexamineAll s).mc = s.mc ∧
    (reexamineAll s).conf = s.conf ∧
    (reexamineAll s).pins = s.pins ∧
    (reexamineAll s).pending = s.pending ∧
    (reexamineAll s).work.status = s.work.status := by
  simp [reexamineAll]

@[simp] theorem trigger_frame (s : State) :
    (trigger s).cu = s.cu ∧
    (trigger s).om = s.om ∧
    (trigger s).rc = s.rc ∧
    (trigger s).ee = s.ee ∧
    (trigger s).ca.bal = s.ca.bal ∧
    (trigger s).ca.thetaCal = s.ca.thetaCal ∧
    (trigger s).wt = s.wt ∧
    (trigger s).ct = s.ct ∧
    (trigger s).su = s.su ∧
    (trigger s).pu = s.pu ∧
    (trigger s).mc = s.mc ∧
    (trigger s).conf = s.conf ∧
    (trigger s).pins = s.pins ∧
    (trigger s).pending = s.pending ∧
    (trigger s).store = s.store ∧
    (trigger s).work.status = s.work.status := by
  unfold trigger
  split <;> simp

@[simp] theorem patchLost_frame (x0 : Option Word) (s : State) :
    (patchLost x0 s).cu = s.cu ∧
    (patchLost x0 s).om = s.om ∧
    (patchLost x0 s).rc = s.rc ∧
    (patchLost x0 s).ee = s.ee ∧
    (patchLost x0 s).ca.bal = s.ca.bal ∧
    (patchLost x0 s).ca.thetaCal = s.ca.thetaCal ∧
    (patchLost x0 s).ca.invalid = s.ca.invalid ∧
    (patchLost x0 s).wt = s.wt ∧
    (patchLost x0 s).ct = s.ct ∧
    (patchLost x0 s).su = s.su ∧
    (patchLost x0 s).pu = s.pu ∧
    (patchLost x0 s).mc = s.mc ∧
    (patchLost x0 s).conf = s.conf ∧
    (patchLost x0 s).pins = s.pins ∧
    (patchLost x0 s).pending = s.pending ∧
    (patchLost x0 s).store = s.store ∧
    (patchLost x0 s).work.status = s.work.status := by
  unfold patchLost
  (repeat' split) <;> simp

@[simp] theorem pruneFor_frame (x0 : Option Word) (s : State) :
    (pruneFor x0 s).cu = s.cu ∧
    (pruneFor x0 s).om = s.om ∧
    (pruneFor x0 s).rc = s.rc ∧
    (pruneFor x0 s).ee = s.ee ∧
    (pruneFor x0 s).ca = s.ca ∧
    (pruneFor x0 s).wt = s.wt ∧
    (pruneFor x0 s).ct.misses = s.ct.misses ∧
    (pruneFor x0 s).su = s.su ∧
    (pruneFor x0 s).pu = s.pu ∧
    (pruneFor x0 s).mc = s.mc ∧
    (pruneFor x0 s).conf = s.conf ∧
    (pruneFor x0 s).pins = s.pins ∧
    (pruneFor x0 s).pending = s.pending ∧
    (pruneFor x0 s).store = s.store ∧
    (pruneFor x0 s).work = s.work := by
  unfold pruneFor
  (repeat' split) <;> simp

@[simp] theorem removeEntry_frame (k : EntryKey) (s : State) :
    (removeEntry k s).cu.lineClock = s.cu.lineClock ∧
    (removeEntry k s).cu.enables = s.cu.enables ∧
    (removeEntry k s).cu.job = s.cu.job ∧
    (removeEntry k s).cu.attnPending = s.cu.attnPending ∧
    (removeEntry k s).om.deferred = s.om.deferred ∧
    (removeEntry k s).om.queues = s.om.queues ∧
    (removeEntry k s).om.seq = s.om.seq ∧
    (removeEntry k s).rc = s.rc ∧
    (removeEntry k s).ee = s.ee ∧
    (removeEntry k s).ca = s.ca ∧
    (removeEntry k s).wt.x = s.wt.x ∧
    (removeEntry k s).wt.y = s.wt.y ∧
    (removeEntry k s).wt.paperUsed = s.wt.paperUsed ∧
    (removeEntry k s).wt.waste = s.wt.waste ∧
    (removeEntry k s).wt.paperEnd = s.wt.paperEnd ∧
    (removeEntry k s).ct.misses = s.ct.misses ∧
    (removeEntry k s).su.late = s.su.late ∧
    (removeEntry k s).pu.counter = s.pu.counter ∧
    (removeEntry k s).mc = s.mc ∧
    (removeEntry k s).conf = s.conf ∧
    (removeEntry k s).pins = s.pins ∧
    (removeEntry k s).pending = s.pending ∧
    (removeEntry k s).work.status = s.work.status := by
  unfold removeEntry
  (repeat' split) <;> simp

@[simp] theorem decideRemake_frame (r : CopyRef) (recAddr : Word) (s : State) :
    (decideRemake r recAddr s).cu.lineClock = s.cu.lineClock ∧
    (decideRemake r recAddr s).cu.enables = s.cu.enables ∧
    (decideRemake r recAddr s).cu.job = s.cu.job ∧
    (decideRemake r recAddr s).cu.attnPending = s.cu.attnPending ∧
    (decideRemake r recAddr s).om.deferred = s.om.deferred ∧
    (decideRemake r recAddr s).om.queues = s.om.queues ∧
    (decideRemake r recAddr s).om.seq = s.om.seq ∧
    (decideRemake r recAddr s).rc.slot = s.rc.slot ∧
    (decideRemake r recAddr s).rc.mask = s.rc.mask ∧
    (decideRemake r recAddr s).rc.hot = s.rc.hot ∧
    (decideRemake r recAddr s).rc.firstCal = s.rc.firstCal ∧
    (decideRemake r recAddr s).rc.binWait = s.rc.binWait ∧
    (decideRemake r recAddr s).ee = s.ee ∧
    (decideRemake r recAddr s).ca = s.ca ∧
    (decideRemake r recAddr s).wt = s.wt ∧
    (decideRemake r recAddr s).ct = s.ct ∧
    (decideRemake r recAddr s).su.conveyor = s.su.conveyor ∧
    (decideRemake r recAddr s).su.awaiting = s.su.awaiting ∧
    (decideRemake r recAddr s).su.late = s.su.late ∧
    (decideRemake r recAddr s).pu.counter = s.pu.counter ∧
    (decideRemake r recAddr s).mc = s.mc ∧
    (decideRemake r recAddr s).conf = s.conf ∧
    (decideRemake r recAddr s).pins = s.pins ∧
    (decideRemake r recAddr s).pending = s.pending ∧
    (decideRemake r recAddr s).work.status = s.work.status := by
  unfold decideRemake
  (repeat' split) <;> simp

@[simp] theorem rejectReport_frame (cause : RejectCause) (r : CopyRef) (s : State) :
    (rejectReport cause r s).cu.lineClock = s.cu.lineClock ∧
    (rejectReport cause r s).cu.enables = s.cu.enables ∧
    (rejectReport cause r s).cu.job = s.cu.job ∧
    (rejectReport cause r s).cu.attnPending = s.cu.attnPending ∧
    (rejectReport cause r s).om.deferred = s.om.deferred ∧
    (rejectReport cause r s).om.queues = s.om.queues ∧
    (rejectReport cause r s).om.seq = s.om.seq ∧
    (rejectReport cause r s).rc.slot = s.rc.slot ∧
    (rejectReport cause r s).rc.mask = s.rc.mask ∧
    (rejectReport cause r s).rc.hot = s.rc.hot ∧
    (rejectReport cause r s).rc.firstCal = s.rc.firstCal ∧
    (rejectReport cause r s).rc.binWait = s.rc.binWait ∧
    (rejectReport cause r s).ee = s.ee ∧
    (rejectReport cause r s).ca = s.ca ∧
    (rejectReport cause r s).wt = s.wt ∧
    (rejectReport cause r s).ct = s.ct ∧
    (rejectReport cause r s).su.conveyor = s.su.conveyor ∧
    (rejectReport cause r s).su.awaiting = s.su.awaiting ∧
    (rejectReport cause r s).su.late = s.su.late ∧
    (rejectReport cause r s).pu.counter = s.pu.counter ∧
    (rejectReport cause r s).mc = s.mc ∧
    (rejectReport cause r s).conf = s.conf ∧
    (rejectReport cause r s).pins = s.pins ∧
    (rejectReport cause r s).pending = s.pending ∧
    (rejectReport cause r s).work.status = s.work.status := by
  unfold rejectReport
  (repeat' split) <;> simp

@[simp] theorem loseEntry_frame (cause : RejectCause) (s : State) (k : EntryKey) :
    (loseEntry cause s k).cu.lineClock = s.cu.lineClock ∧
    (loseEntry cause s k).cu.enables = s.cu.enables ∧
    (loseEntry cause s k).cu.job = s.cu.job ∧
    (loseEntry cause s k).cu.attnPending = s.cu.attnPending ∧
    (loseEntry cause s k).om.deferred = s.om.deferred ∧
    (loseEntry cause s k).om.queues = s.om.queues ∧
    (loseEntry cause s k).om.seq = s.om.seq ∧
    (loseEntry cause s k).rc.slot = s.rc.slot ∧
    (loseEntry cause s k).rc.mask = s.rc.mask ∧
    (loseEntry cause s k).rc.hot = s.rc.hot ∧
    (loseEntry cause s k).rc.firstCal = s.rc.firstCal ∧
    (loseEntry cause s k).rc.binWait = s.rc.binWait ∧
    (loseEntry cause s k).ee = s.ee ∧
    (loseEntry cause s k).ca.bal = s.ca.bal ∧
    (loseEntry cause s k).ca.thetaCal = s.ca.thetaCal ∧
    (loseEntry cause s k).ca.invalid = s.ca.invalid ∧
    (loseEntry cause s k).wt.x = s.wt.x ∧
    (loseEntry cause s k).wt.y = s.wt.y ∧
    (loseEntry cause s k).wt.paperUsed = s.wt.paperUsed ∧
    (loseEntry cause s k).wt.waste = s.wt.waste ∧
    (loseEntry cause s k).wt.paperEnd = s.wt.paperEnd ∧
    (loseEntry cause s k).ct.misses = s.ct.misses ∧
    (loseEntry cause s k).su.late = s.su.late ∧
    (loseEntry cause s k).pu.counter = s.pu.counter ∧
    (loseEntry cause s k).mc = s.mc ∧
    (loseEntry cause s k).conf = s.conf ∧
    (loseEntry cause s k).pins = s.pins ∧
    (loseEntry cause s k).pending = s.pending ∧
    (loseEntry cause s k).work.status = s.work.status := by
  unfold loseEntry
  (repeat' split) <;> simp

@[simp] theorem loseWhere_frame (cause : RejectCause) (f : Entry → Bool) (s : State) :
    (loseWhere cause f s).cu.lineClock = s.cu.lineClock ∧
    (loseWhere cause f s).cu.enables = s.cu.enables ∧
    (loseWhere cause f s).cu.job = s.cu.job ∧
    (loseWhere cause f s).cu.attnPending = s.cu.attnPending ∧
    (loseWhere cause f s).om.deferred = s.om.deferred ∧
    (loseWhere cause f s).om.queues = s.om.queues ∧
    (loseWhere cause f s).om.seq = s.om.seq ∧
    (loseWhere cause f s).rc.slot = s.rc.slot ∧
    (loseWhere cause f s).rc.mask = s.rc.mask ∧
    (loseWhere cause f s).rc.hot = s.rc.hot ∧
    (loseWhere cause f s).rc.firstCal = s.rc.firstCal ∧
    (loseWhere cause f s).rc.binWait = s.rc.binWait ∧
    (loseWhere cause f s).ee = s.ee ∧
    (loseWhere cause f s).ca.bal = s.ca.bal ∧
    (loseWhere cause f s).ca.thetaCal = s.ca.thetaCal ∧
    (loseWhere cause f s).ca.invalid = s.ca.invalid ∧
    (loseWhere cause f s).wt.x = s.wt.x ∧
    (loseWhere cause f s).wt.y = s.wt.y ∧
    (loseWhere cause f s).wt.paperUsed = s.wt.paperUsed ∧
    (loseWhere cause f s).wt.waste = s.wt.waste ∧
    (loseWhere cause f s).wt.paperEnd = s.wt.paperEnd ∧
    (loseWhere cause f s).ct.misses = s.ct.misses ∧
    (loseWhere cause f s).su.late = s.su.late ∧
    (loseWhere cause f s).pu.counter = s.pu.counter ∧
    (loseWhere cause f s).mc = s.mc ∧
    (loseWhere cause f s).conf = s.conf ∧
    (loseWhere cause f s).pins = s.pins ∧
    (loseWhere cause f s).pending = s.pending ∧
    (loseWhere cause f s).work.status = s.work.status := by
  unfold loseWhere
  exact ⟨foldl_keeps (fun t : State => t.cu.lineClock) _ (by intros; simp) _ _,
    foldl_keeps (fun t : State => t.cu.enables) _ (by intros; simp) _ _,
    foldl_keeps (fun t : State => t.cu.job) _ (by intros; simp) _ _,
    foldl_keeps (fun t : State => t.cu.attnPending) _ (by intros; simp) _ _,
    foldl_keeps (fun t : State => t.om.deferred) _ (by intros; simp) _ _,
    foldl_keeps (fun t : State => t.om.queues) _ (by intros; simp) _ _,
    foldl_keeps (fun t : State => t.om.seq) _ (by intros; simp) _ _,
    foldl_keeps (fun t : State => t.rc.slot) _ (by intros; simp) _ _,
    foldl_keeps (fun t : State => t.rc.mask) _ (by intros; simp) _ _,
    foldl_keeps (fun t : State => t.rc.hot) _ (by intros; simp) _ _,
    foldl_keeps (fun t : State => t.rc.firstCal) _ (by intros; simp) _ _,
    foldl_keeps (fun t : State => t.rc.binWait) _ (by intros; simp) _ _,
    foldl_keeps (fun t : State => t.ee) _ (by intros; simp) _ _,
    foldl_keeps (fun t : State => t.ca.bal) _ (by intros; simp) _ _,
    foldl_keeps (fun t : State => t.ca.thetaCal) _ (by intros; simp) _ _,
    foldl_keeps (fun t : State => t.ca.invalid) _ (by intros; simp) _ _,
    foldl_keeps (fun t : State => t.wt.x) _ (by intros; simp) _ _,
    foldl_keeps (fun t : State => t.wt.y) _ (by intros; simp) _ _,
    foldl_keeps (fun t : State => t.wt.paperUsed) _ (by intros; simp) _ _,
    foldl_keeps (fun t : State => t.wt.waste) _ (by intros; simp) _ _,
    foldl_keeps (fun t : State => t.wt.paperEnd) _ (by intros; simp) _ _,
    foldl_keeps (fun t : State => t.ct.misses) _ (by intros; simp) _ _,
    foldl_keeps (fun t : State => t.su.late) _ (by intros; simp) _ _,
    foldl_keeps (fun t : State => t.pu.counter) _ (by intros; simp) _ _,
    foldl_keeps (fun t : State => t.mc) _ (by intros; simp) _ _,
    foldl_keeps (fun t : State => t.conf) _ (by intros; simp) _ _,
    foldl_keeps (fun t : State => t.pins) _ (by intros; simp) _ _,
    foldl_keeps (fun t : State => t.pending) _ (by intros; simp) _ _,
    foldl_keeps (fun t : State => t.work.status) _ (by intros; simp) _ _⟩

@[simp] theorem stopConveyor_frame (s : State) :
    (stopConveyor s).cu.lineClock = s.cu.lineClock ∧
    (stopConveyor s).cu.enables = s.cu.enables ∧
    (stopConveyor s).cu.job = s.cu.job ∧
    (stopConveyor s).cu.attnPending = s.cu.attnPending ∧
    (stopConveyor s).om.deferred = s.om.deferred ∧
    (stopConveyor s).om.queues = s.om.queues ∧
    (stopConveyor s).om.seq = s.om.seq ∧
    (stopConveyor s).rc.slot = s.rc.slot ∧
    (stopConveyor s).rc.mask = s.rc.mask ∧
    (stopConveyor s).rc.hot = s.rc.hot ∧
    (stopConveyor s).rc.firstCal = s.rc.firstCal ∧
    (stopConveyor s).rc.binWait = s.rc.binWait ∧
    (stopConveyor s).ee = s.ee ∧
    (stopConveyor s).ca.bal = s.ca.bal ∧
    (stopConveyor s).ca.thetaCal = s.ca.thetaCal ∧
    (stopConveyor s).ca.invalid = s.ca.invalid ∧
    (stopConveyor s).wt.x = s.wt.x ∧
    (stopConveyor s).wt.y = s.wt.y ∧
    (stopConveyor s).wt.paperUsed = s.wt.paperUsed ∧
    (stopConveyor s).wt.waste = s.wt.waste ∧
    (stopConveyor s).wt.paperEnd = s.wt.paperEnd ∧
    (stopConveyor s).ct.misses = s.ct.misses ∧
    (stopConveyor s).pu.counter = s.pu.counter ∧
    (stopConveyor s).mc.state = s.mc.state ∧
    (stopConveyor s).mc.faultCause = s.mc.faultCause ∧
    (stopConveyor s).mc.pauseCause = s.mc.pauseCause ∧
    (stopConveyor s).mc.paperOutReq = s.mc.paperOutReq ∧
    (stopConveyor s).conf = s.conf ∧
    (stopConveyor s).pins = s.pins ∧
    (stopConveyor s).pending = s.pending ∧
    (stopConveyor s).work.status = s.work.status := by
  simp [stopConveyor]

@[simp] theorem returnCopies_frame (l : List CopyRef) (s : State) :
    (l.foldl (fun t c => returnCopy c t) s).cu = s.cu ∧
    (l.foldl (fun t c => returnCopy c t) s).om.deferred = s.om.deferred ∧
    (l.foldl (fun t c => returnCopy c t) s).om.queues = s.om.queues ∧
    (l.foldl (fun t c => returnCopy c t) s).om.seq = s.om.seq ∧
    (l.foldl (fun t c => returnCopy c t) s).rc = s.rc ∧
    (l.foldl (fun t c => returnCopy c t) s).ee = s.ee ∧
    (l.foldl (fun t c => returnCopy c t) s).ca = s.ca ∧
    (l.foldl (fun t c => returnCopy c t) s).wt = s.wt ∧
    (l.foldl (fun t c => returnCopy c t) s).ct = s.ct ∧
    (l.foldl (fun t c => returnCopy c t) s).su = s.su ∧
    (l.foldl (fun t c => returnCopy c t) s).pu = s.pu ∧
    (l.foldl (fun t c => returnCopy c t) s).mc = s.mc ∧
    (l.foldl (fun t c => returnCopy c t) s).conf = s.conf ∧
    (l.foldl (fun t c => returnCopy c t) s).pins = s.pins ∧
    (l.foldl (fun t c => returnCopy c t) s).pending = s.pending ∧
    (l.foldl (fun t c => returnCopy c t) s).work.status = s.work.status :=
  ⟨foldl_keeps (fun t : State => t.cu) _ (by intros; simp) _ _,
    foldl_keeps (fun t : State => t.om.deferred) _ (by intros; simp) _ _,
    foldl_keeps (fun t : State => t.om.queues) _ (by intros; simp) _ _,
    foldl_keeps (fun t : State => t.om.seq) _ (by intros; simp) _ _,
    foldl_keeps (fun t : State => t.rc) _ (by intros; simp) _ _,
    foldl_keeps (fun t : State => t.ee) _ (by intros; simp) _ _,
    foldl_keeps (fun t : State => t.ca) _ (by intros; simp) _ _,
    foldl_keeps (fun t : State => t.wt) _ (by intros; simp) _ _,
    foldl_keeps (fun t : State => t.ct) _ (by intros; simp) _ _,
    foldl_keeps (fun t : State => t.su) _ (by intros; simp) _ _,
    foldl_keeps (fun t : State => t.pu) _ (by intros; simp) _ _,
    foldl_keeps (fun t : State => t.mc) _ (by intros; simp) _ _,
    foldl_keeps (fun t : State => t.conf) _ (by intros; simp) _ _,
    foldl_keeps (fun t : State => t.pins) _ (by intros; simp) _ _,
    foldl_keeps (fun t : State => t.pending) _ (by intros; simp) _ _,
    foldl_keeps (fun t : State => t.work.status) _ (by intros; simp) _ _⟩

@[simp] theorem returnSlot_frame (s : State) :
    (returnSlot s).cu.lineClock = s.cu.lineClock ∧
    (returnSlot s).cu.enables = s.cu.enables ∧
    (returnSlot s).cu.job = s.cu.job ∧
    (returnSlot s).cu.attnPending = s.cu.attnPending ∧
    (returnSlot s).om.deferred = s.om.deferred ∧
    (returnSlot s).om.queues = s.om.queues ∧
    (returnSlot s).om.seq = s.om.seq ∧
    (returnSlot s).rc.mask = s.rc.mask ∧
    (returnSlot s).rc.hot = s.rc.hot ∧
    (returnSlot s).rc.firstCal = s.rc.firstCal ∧
    (returnSlot s).rc.binWait = s.rc.binWait ∧
    (returnSlot s).ee = s.ee ∧
    (returnSlot s).ca = s.ca ∧
    (returnSlot s).wt.x = s.wt.x ∧
    (returnSlot s).wt.y = s.wt.y ∧
    (returnSlot s).wt.paperUsed = s.wt.paperUsed ∧
    (returnSlot s).wt.waste = s.wt.waste ∧
    (returnSlot s).wt.paperEnd = s.wt.paperEnd ∧
    (returnSlot s).ct.misses = s.ct.misses ∧
    (returnSlot s).su.late = s.su.late ∧
    (returnSlot s).pu.counter = s.pu.counter ∧
    (returnSlot s).mc = s.mc ∧
    (returnSlot s).conf = s.conf ∧
    (returnSlot s).pins = s.pins ∧
    (returnSlot s).pending = s.pending ∧
    (returnSlot s).work.status = s.work.status := by
  unfold returnSlot
  split <;> simp

@[simp] theorem setBinWait_frame (q : QueueId) (v : Bool) (s : State) :
    (setBinWait q v s).cu = s.cu ∧
    (setBinWait q v s).om = s.om ∧
    (setBinWait q v s).rc.slot = s.rc.slot ∧
    (setBinWait q v s).rc.mask = s.rc.mask ∧
    (setBinWait q v s).rc.remakes = s.rc.remakes ∧
    (setBinWait q v s).rc.hot = s.rc.hot ∧
    (setBinWait q v s).rc.firstCal = s.rc.firstCal ∧
    (setBinWait q v s).ee = s.ee ∧
    (setBinWait q v s).ca = s.ca ∧
    (setBinWait q v s).wt = s.wt ∧
    (setBinWait q v s).ct = s.ct ∧
    (setBinWait q v s).su = s.su ∧
    (setBinWait q v s).pu = s.pu ∧
    (setBinWait q v s).mc = s.mc ∧
    (setBinWait q v s).conf = s.conf ∧
    (setBinWait q v s).pins = s.pins ∧
    (setBinWait q v s).pending = s.pending ∧
    (setBinWait q v s).store = s.store ∧
    (setBinWait q v s).work = s.work := by
  simp [setBinWait]

@[simp] theorem waitForBins_frame (q : QueueId) (s : State) :
    (waitForBins q s).cu.lineClock = s.cu.lineClock ∧
    (waitForBins q s).cu.enables = s.cu.enables ∧
    (waitForBins q s).cu.job = s.cu.job ∧
    (waitForBins q s).cu.attnPending = s.cu.attnPending ∧
    (waitForBins q s).om = s.om ∧
    (waitForBins q s).rc.slot = s.rc.slot ∧
    (waitForBins q s).rc.mask = s.rc.mask ∧
    (waitForBins q s).rc.remakes = s.rc.remakes ∧
    (waitForBins q s).rc.hot = s.rc.hot ∧
    (waitForBins q s).rc.firstCal = s.rc.firstCal ∧
    (waitForBins q s).ee = s.ee ∧
    (waitForBins q s).ca = s.ca ∧
    (waitForBins q s).wt = s.wt ∧
    (waitForBins q s).ct = s.ct ∧
    (waitForBins q s).su = s.su ∧
    (waitForBins q s).pu = s.pu ∧
    (waitForBins q s).mc = s.mc ∧
    (waitForBins q s).conf = s.conf ∧
    (waitForBins q s).pins = s.pins ∧
    (waitForBins q s).pending = s.pending ∧
    (waitForBins q s).work = s.work := by
  unfold waitForBins
  split <;> simp

@[simp] theorem placeRow_frame (row : SlotRow) (entries : List Entry) (s : State) :
    (placeRow row entries s).cu = s.cu ∧
    (placeRow row entries s).om = s.om ∧
    (placeRow row entries s).rc.mask = s.rc.mask ∧
    (placeRow row entries s).rc.remakes = s.rc.remakes ∧
    (placeRow row entries s).rc.hot = s.rc.hot ∧
    (placeRow row entries s).rc.firstCal = s.rc.firstCal ∧
    (placeRow row entries s).rc.binWait = s.rc.binWait ∧
    (placeRow row entries s).ee = s.ee ∧
    (placeRow row entries s).ca = s.ca ∧
    (placeRow row entries s).wt.x = s.wt.x ∧
    (placeRow row entries s).wt.y = s.wt.y ∧
    (placeRow row entries s).wt.paperUsed = s.wt.paperUsed ∧
    (placeRow row entries s).wt.waste = s.wt.waste ∧
    (placeRow row entries s).wt.paperEnd = s.wt.paperEnd ∧
    (placeRow row entries s).ct = s.ct ∧
    (placeRow row entries s).su = s.su ∧
    (placeRow row entries s).pu = s.pu ∧
    (placeRow row entries s).mc = s.mc ∧
    (placeRow row entries s).conf = s.conf ∧
    (placeRow row entries s).pins = s.pins ∧
    (placeRow row entries s).pending = s.pending ∧
    (placeRow row entries s).store = s.store ∧
    (placeRow row entries s).work = s.work := by
  simp [placeRow]

@[simp] theorem commitCalib_frame (s : State) :
    (commitCalib s).cu = s.cu ∧
    (commitCalib s).om = s.om ∧
    (commitCalib s).rc.mask = s.rc.mask ∧
    (commitCalib s).rc.remakes = s.rc.remakes ∧
    (commitCalib s).rc.hot = s.rc.hot ∧
    (commitCalib s).rc.firstCal = s.rc.firstCal ∧
    (commitCalib s).rc.binWait = s.rc.binWait ∧
    (commitCalib s).ee = s.ee ∧
    (commitCalib s).ca = s.ca ∧
    (commitCalib s).wt.x = s.wt.x ∧
    (commitCalib s).wt.y = s.wt.y ∧
    (commitCalib s).wt.paperUsed = s.wt.paperUsed ∧
    (commitCalib s).wt.waste = s.wt.waste ∧
    (commitCalib s).wt.paperEnd = s.wt.paperEnd ∧
    (commitCalib s).ct = s.ct ∧
    (commitCalib s).su = s.su ∧
    (commitCalib s).pu = s.pu ∧
    (commitCalib s).mc = s.mc ∧
    (commitCalib s).conf = s.conf ∧
    (commitCalib s).pins = s.pins ∧
    (commitCalib s).pending = s.pending ∧
    (commitCalib s).store = s.store ∧
    (commitCalib s).work = s.work := by
  simp [commitCalib]

@[simp] theorem commitPrint_frame (len : Nat) (a : Option CopyRef) (b : Option CopyRef) (s : State) :
    (commitPrint len a b s).cu = s.cu ∧
    (commitPrint len a b s).om = s.om ∧
    (commitPrint len a b s).rc.mask = s.rc.mask ∧
    (commitPrint len a b s).rc.remakes = s.rc.remakes ∧
    (commitPrint len a b s).rc.hot = s.rc.hot ∧
    (commitPrint len a b s).rc.firstCal = s.rc.firstCal ∧
    (commitPrint len a b s).rc.binWait = s.rc.binWait ∧
    (commitPrint len a b s).ee = s.ee ∧
    (commitPrint len a b s).ca = s.ca ∧
    (commitPrint len a b s).wt.x = s.wt.x ∧
    (commitPrint len a b s).wt.y = s.wt.y ∧
    (commitPrint len a b s).wt.paperUsed = s.wt.paperUsed ∧
    (commitPrint len a b s).wt.waste = s.wt.waste ∧
    (commitPrint len a b s).wt.paperEnd = s.wt.paperEnd ∧
    (commitPrint len a b s).ct = s.ct ∧
    (commitPrint len a b s).su = s.su ∧
    (commitPrint len a b s).pu = s.pu ∧
    (commitPrint len a b s).mc = s.mc ∧
    (commitPrint len a b s).conf = s.conf ∧
    (commitPrint len a b s).pins = s.pins ∧
    (commitPrint len a b s).pending = s.pending ∧
    (commitPrint len a b s).store = s.store ∧
    (commitPrint len a b s).work = s.work := by
  simp [commitPrint]

/-! ## The Row Composer -/

/-- What a search for a copy leaves as it was, whatever it takes, defers, refuses or opens on its way (R32, R33, R35). -/
structure SearchKeeps (s t : State) : Prop where
  lineClock : t.cu.lineClock = s.cu.lineClock
  enables : t.cu.enables = s.cu.enables
  job : t.cu.job = s.cu.job
  attnPending : t.cu.attnPending = s.cu.attnPending
  slot : t.rc.slot = s.rc.slot
  mask : t.rc.mask = s.rc.mask
  hot : t.rc.hot = s.rc.hot
  firstCal : t.rc.firstCal = s.rc.firstCal
  ee : t.ee = s.ee
  ca : t.ca = s.ca
  wt : t.wt = s.wt
  ct : t.ct = s.ct
  conveyor : t.su.conveyor = s.su.conveyor
  awaiting : t.su.awaiting = s.su.awaiting
  late : t.su.late = s.su.late
  counter : t.pu.counter = s.pu.counter
  mc : t.mc = s.mc
  conf : t.conf = s.conf
  pins : t.pins = s.pins
  pending : t.pending = s.pending
  status : t.work.status = s.work.status

theorem SearchKeeps.refl (s : State) : SearchKeeps s s := by constructor <;> rfl

theorem SearchKeeps.trans {s t u : State} (h : SearchKeeps s t) (g : SearchKeeps t u) : SearchKeeps s u := by
  constructor
  · exact g.lineClock.trans h.lineClock
  · exact g.enables.trans h.enables
  · exact g.job.trans h.job
  · exact g.attnPending.trans h.attnPending
  · exact g.slot.trans h.slot
  · exact g.mask.trans h.mask
  · exact g.hot.trans h.hot
  · exact g.firstCal.trans h.firstCal
  · exact g.ee.trans h.ee
  · exact g.ca.trans h.ca
  · exact g.wt.trans h.wt
  · exact g.ct.trans h.ct
  · exact g.conveyor.trans h.conveyor
  · exact g.awaiting.trans h.awaiting
  · exact g.late.trans h.late
  · exact g.counter.trans h.counter
  · exact g.mc.trans h.mc
  · exact g.conf.trans h.conf
  · exact g.pins.trans h.pins
  · exact g.pending.trans h.pending
  · exact g.status.trans h.status

theorem reserveEach_keeps (o : Owner) (l : List (Fin 32)) (s : State) : SearchKeeps s (l.foldl (reserveBin o) s) := by
  induction l generalizing s with
  | nil => exact .refl s
  | cons i l ih => exact SearchKeeps.trans (by constructor <;> simp) (ih (s := reserveBin o s i))

theorem reserveBins_keeps {k : Nat} {o : Owner} {s t : State} {l : List (Fin 32)} (h : reserveBins k o s = some (l, t)) :
    SearchKeeps s t := by
  unfold reserveBins at h
  split at h
  · simp only [Option.some.injEq, Prod.mk.injEq] at h
    obtain ⟨-, rfl⟩ := h
    exact reserveEach_keeps o _ s
  · exact absurd h (by simp)

theorem openOrder_keeps {q : QueueId} {a : Word} {s t : State} {i : Fin 8} (h : openOrder q a s = .opened i t) :
    SearchKeeps s t := by
  unfold openOrder at h
  split at h
  · exact absurd h (by simp)
  · dsimp only at h
    split at h
    · exact absurd h (by simp)
    · rename_i hb
      simp only [Opening.opened.injEq] at h
      obtain ⟨-, rfl⟩ := h
      exact (reserveBins_keeps hb).trans (by constructor <;> simp)

/-- A take that passes its record on, blocks its queue or opens its order. -/
def Take.after : Take → Option State
  | .passed t => some t
  | .blocked t => some t
  | .opened _ t => some t
  | .waitSlot => none
  | .waitBins => none

theorem takeHead_keeps {q : QueueId} {s t : State} (h : (takeHead q s).after = some t) : SearchKeeps s t := by
  unfold takeHead at h
  dsimp only at h
  split at h
  · simp only [Take.after, Option.some.injEq] at h
    subst h
    constructor <;> simp
  · split at h
    · split at h
      · rename_i ho
        simp only [Take.after, Option.some.injEq] at h
        subst h
        exact (openOrder_keeps ho).trans (by constructor <;> simp)
      · simp [Take.after] at h
      · simp [Take.after] at h
    · split at h
      · simp only [Take.after, Option.some.injEq] at h
        subst h
        constructor <;> simp
      · simp only [Take.after, Option.some.injEq] at h
        subst h
        constructor <;> simp

theorem takeFirst_keeps (i : Fin 8) (s : State) : SearchKeeps s (takeFirst i s).state := by
  unfold takeFirst
  split
  · exact .refl s
  · split
    · exact .refl s
    · simp only [Search.state, takeCopy]
      constructor <;> simp

theorem setBinWait_keeps (q : QueueId) (v : Bool) (s : State) : SearchKeeps s (setBinWait q v s) := by
  constructor <;> simp

theorem askQueue_keeps (q : QueueId) (need : Option Nat) (fuel : Nat) (s : State) :
    SearchKeeps s (askQueue q need fuel s).state := by
  induction fuel generalizing s with
  | zero => exact .refl s
  | succ fuel ih =>
    unfold askQueue
    split
    · exact setBinWait_keeps q false s
    · split
      · exact .refl s
      · split
        · rename_i h
          exact ((takeHead_keeps (by rw [h]; rfl)).trans (setBinWait_keeps q false _)).trans (ih _)
        · rename_i h
          exact (takeHead_keeps (by rw [h]; rfl)).trans (setBinWait_keeps q false _)
        · rename_i h
          exact ((takeHead_keeps (by rw [h]; rfl)).trans (setBinWait_keeps q false _)).trans (takeFirst_keeps _ _)
        · exact .refl s
        · simp only [Search.state]
          constructor <;> simp

theorem takeNew_keeps (q : QueueId) (need : Option Nat) (s : State) : SearchKeeps s (takeNew q need s).state := by
  unfold takeNew
  split
  · split
    · rename_i h
      exact ((openOrder_keeps h).trans (setBinWait_keeps q false _)).trans
        ((show SearchKeeps _ _ by constructor <;> simp).trans (takeFirst_keeps _ _))
    · exact .refl s
    · simp only [Search.state]
      constructor <;> simp
  · exact askQueue_keeps q need _ s

theorem takeRemake_keeps {need : Option Nat} {s t : State} {r : CopyRef} (h : takeRemake need s = some (r, t)) :
    SearchKeeps s t := by
  unfold takeRemake at h
  split at h
  · exact absurd h (by simp)
  · split at h
    · exact absurd h (by simp)
    · simp only [Option.some.injEq, Prod.mk.injEq] at h
      obtain ⟨-, rfl⟩ := h
      constructor <;> rfl

theorem takeOpen_keeps {q : QueueId} {need : Option Nat} {s t : State} {r : CopyRef}
    (h : takeOpen q need s = some (r, t)) : SearchKeeps s t := by
  unfold takeOpen at h
  obtain ⟨i, -, hi⟩ := List.exists_of_findSome?_eq_some h
  simp only [Option.map_eq_some_iff, Prod.exists, takeCopy, Prod.mk.injEq] at hi
  obtain ⟨o, c, -, -, rfl⟩ := hi
  constructor <;> simp

theorem walkStep_keeps (need : Option Nat) (w : WalkStep) (s : State) : SearchKeeps s (walkStep need w s).state := by
  unfold walkStep
  split
  · split
    · rename_i h
      exact takeRemake_keeps h
    · exact .refl s
  · split
    · rename_i h
      exact takeOpen_keeps h
    · exact .refl s
  · exact takeNew_keeps _ _ s

theorem walk_keeps (need : Option Nat) (ws : List WalkStep) (s : State) : SearchKeeps s (walk need ws s).state := by
  induction ws generalizing s with
  | nil => exact .refl s
  | cons w ws ih =>
    have hw := walkStep_keeps need w s
    unfold walk
    split <;> rename_i h <;> rw [h] at hw
    · exact hw
    · exact hw.trans (ih _)
    · exact hw

/-- What a composition attempt leaves as it was, whatever it takes, opens or commits (R30 to R40). -/
structure AttemptKeeps (s t : State) : Prop where
  lineClock : t.cu.lineClock = s.cu.lineClock
  enables : t.cu.enables = s.cu.enables
  job : t.cu.job = s.cu.job
  attnPending : t.cu.attnPending = s.cu.attnPending
  mask : t.rc.mask = s.rc.mask
  hot : t.rc.hot = s.rc.hot
  firstCal : t.rc.firstCal = s.rc.firstCal
  ee : t.ee = s.ee
  ca : t.ca = s.ca
  x : t.wt.x = s.wt.x
  y : t.wt.y = s.wt.y
  paperUsed : t.wt.paperUsed = s.wt.paperUsed
  waste : t.wt.waste = s.wt.waste
  paperEnd : t.wt.paperEnd = s.wt.paperEnd
  ct : t.ct = s.ct
  conveyor : t.su.conveyor = s.su.conveyor
  awaiting : t.su.awaiting = s.su.awaiting
  late : t.su.late = s.su.late
  counter : t.pu.counter = s.pu.counter
  mc : t.mc = s.mc
  conf : t.conf = s.conf
  pins : t.pins = s.pins
  pending : t.pending = s.pending
  status : t.work.status = s.work.status

theorem AttemptKeeps.refl (s : State) : AttemptKeeps s s := by constructor <;> rfl

theorem SearchKeeps.attempt {s t : State} (h : SearchKeeps s t) : AttemptKeeps s t where
  lineClock := h.lineClock
  enables := h.enables
  job := h.job
  attnPending := h.attnPending
  mask := h.mask
  hot := h.hot
  firstCal := h.firstCal
  ee := h.ee
  ca := h.ca
  x := by rw [h.wt]
  y := by rw [h.wt]
  paperUsed := by rw [h.wt]
  waste := by rw [h.wt]
  paperEnd := by rw [h.wt]
  ct := h.ct
  conveyor := h.conveyor
  awaiting := h.awaiting
  late := h.late
  counter := h.counter
  mc := h.mc
  conf := h.conf
  pins := h.pins
  pending := h.pending
  status := h.status

theorem commitPrint_keeps (len : Nat) (a b : Option CopyRef) {s t : State} (h : SearchKeeps s t) :
    AttemptKeeps s (commitPrint len a b t) := by
  have g := h.attempt
  constructor <;> simp [g.lineClock, g.enables, g.job, g.attnPending, g.mask, g.hot, g.firstCal, g.ee, g.ca, g.x, g.y,
    g.paperUsed, g.waste, g.paperEnd, g.ct, g.conveyor, g.awaiting, g.late, g.counter, g.mc, g.conf, g.pins, g.pending,
    g.status]

theorem composePrint_keeps (s : State) : AttemptKeeps s (composePrint s) := by
  have h := walk_keeps none walkSteps s
  unfold composePrint
  split <;> rename_i e <;> rw [e] at h
  · exact h.attempt
  · exact h.attempt
  · rename_i r t
    have g := walk_keeps (some (remakeLines t r)) walkSteps t
    dsimp only
    split
    · split <;> rename_i f <;> rw [f] at g
      · exact commitPrint_keeps _ _ _ (h.trans g)
      · exact commitPrint_keeps _ _ _ (h.trans g)
      · exact commitPrint_keeps _ _ _ (h.trans g)
    · split <;> exact commitPrint_keeps _ _ _ h

/-- A composition attempt keeps the positions, the head, the knife, the conveyor, the machine state, the
configuration and the line clock. -/
theorem compose_keeps (s : State) : AttemptKeeps s (compose s) := by
  unfold compose
  (repeat' split) <;> first | exact .refl s | exact composePrint_keeps s | (constructor <;> simp)

@[simp] theorem compose_frame (s : State) :
    (compose s).cu.lineClock = s.cu.lineClock ∧ (compose s).cu.enables = s.cu.enables ∧
    (compose s).cu.job = s.cu.job ∧ (compose s).cu.attnPending = s.cu.attnPending ∧
    (compose s).rc.mask = s.rc.mask ∧ (compose s).rc.hot = s.rc.hot ∧ (compose s).rc.firstCal = s.rc.firstCal ∧
    (compose s).ee = s.ee ∧ (compose s).ca = s.ca ∧ (compose s).wt.x = s.wt.x ∧ (compose s).wt.y = s.wt.y ∧
    (compose s).wt.paperUsed = s.wt.paperUsed ∧ (compose s).wt.waste = s.wt.waste ∧
    (compose s).wt.paperEnd = s.wt.paperEnd ∧ (compose s).ct = s.ct ∧ (compose s).su.conveyor = s.su.conveyor ∧
    (compose s).su.awaiting = s.su.awaiting ∧ (compose s).su.late = s.su.late ∧
    (compose s).pu.counter = s.pu.counter ∧ (compose s).mc = s.mc ∧ (compose s).conf = s.conf ∧
    (compose s).pins = s.pins ∧ (compose s).pending = s.pending ∧ (compose s).work.status = s.work.status :=
  have h := compose_keeps s
  ⟨h.lineClock, h.enables, h.job, h.attnPending, h.mask, h.hot, h.firstCal, h.ee, h.ca, h.x, h.y, h.paperUsed, h.waste,
    h.paperEnd, h.ct, h.conveyor, h.awaiting, h.late, h.counter, h.mc, h.conf, h.pins, h.pending, h.status⟩

end Sys2Proof.Machine
end

