-- ==== Sys2Proof/Laws/EventFrames.lean ====
section
/-! SUPPORT. What each event leaves as it was, field by field, for simp to use. -/

namespace Sys2Proof.Machine

@[simp] theorem setBuffer_frame (l : Lane) (b : LineBuffer) (s : State) :
    (setBuffer l b s).cu = s.cu ∧
    (setBuffer l b s).om = s.om ∧
    (setBuffer l b s).rc = s.rc ∧
    (setBuffer l b s).ee.expo = s.ee.expo ∧
    (setBuffer l b s).ee.continuity = s.ee.continuity ∧
    (setBuffer l b s).ee.hot = s.ee.hot ∧
    (setBuffer l b s).ee.sample = s.ee.sample ∧
    (setBuffer l b s).ee.sampleAt = s.ee.sampleAt ∧
    (setBuffer l b s).ee.maskInForce = s.ee.maskInForce ∧
    (setBuffer l b s).ee.drive = s.ee.drive ∧
    (setBuffer l b s).ca = s.ca ∧
    (setBuffer l b s).wt = s.wt ∧
    (setBuffer l b s).ct = s.ct ∧
    (setBuffer l b s).su = s.su ∧
    (setBuffer l b s).pu = s.pu ∧
    (setBuffer l b s).mc = s.mc ∧
    (setBuffer l b s).conf = s.conf ∧
    (setBuffer l b s).pins = s.pins ∧
    (setBuffer l b s).pending = s.pending ∧
    (setBuffer l b s).store = s.store ∧
    (setBuffer l b s).work = s.work := by
  simp [setBuffer]

@[simp] theorem startRead_frame (l : Lane) (s : State) :
    (startRead l s).cu = s.cu ∧
    (startRead l s).om = s.om ∧
    (startRead l s).rc = s.rc ∧
    (startRead l s).ee.expo = s.ee.expo ∧
    (startRead l s).ee.continuity = s.ee.continuity ∧
    (startRead l s).ee.hot = s.ee.hot ∧
    (startRead l s).ee.sample = s.ee.sample ∧
    (startRead l s).ee.sampleAt = s.ee.sampleAt ∧
    (startRead l s).ee.maskInForce = s.ee.maskInForce ∧
    (startRead l s).ee.drive = s.ee.drive ∧
    (startRead l s).ca = s.ca ∧
    (startRead l s).wt = s.wt ∧
    (startRead l s).ct = s.ct ∧
    (startRead l s).su = s.su ∧
    (startRead l s).pu = s.pu ∧
    (startRead l s).mc = s.mc ∧
    (startRead l s).conf = s.conf ∧
    (startRead l s).pins = s.pins ∧
    (startRead l s).pending = s.pending ∧
    (startRead l s).store = s.store ∧
    (startRead l s).work = s.work := by
  unfold startRead
  dsimp only
  (repeat' split) <;> simp

@[simp] theorem startReads_frame (s : State) :
    (startReads s).cu = s.cu ∧
    (startReads s).om = s.om ∧
    (startReads s).rc = s.rc ∧
    (startReads s).ee.expo = s.ee.expo ∧
    (startReads s).ee.continuity = s.ee.continuity ∧
    (startReads s).ee.hot = s.ee.hot ∧
    (startReads s).ee.sample = s.ee.sample ∧
    (startReads s).ee.sampleAt = s.ee.sampleAt ∧
    (startReads s).ee.maskInForce = s.ee.maskInForce ∧
    (startReads s).ee.drive = s.ee.drive ∧
    (startReads s).ca = s.ca ∧
    (startReads s).wt = s.wt ∧
    (startReads s).ct = s.ct ∧
    (startReads s).su = s.su ∧
    (startReads s).pu = s.pu ∧
    (startReads s).mc = s.mc ∧
    (startReads s).conf = s.conf ∧
    (startReads s).pins = s.pins ∧
    (startReads s).pending = s.pending ∧
    (startReads s).store = s.store ∧
    (startReads s).work = s.work := by
  simp [startReads]

@[simp] theorem emptyBuffers_frame (s : State) :
    (emptyBuffers s).cu = s.cu ∧
    (emptyBuffers s).om = s.om ∧
    (emptyBuffers s).rc = s.rc ∧
    (emptyBuffers s).ee.expo = s.ee.expo ∧
    (emptyBuffers s).ee.continuity = s.ee.continuity ∧
    (emptyBuffers s).ee.hot = s.ee.hot ∧
    (emptyBuffers s).ee.sample = s.ee.sample ∧
    (emptyBuffers s).ee.sampleAt = s.ee.sampleAt ∧
    (emptyBuffers s).ee.maskInForce = s.ee.maskInForce ∧
    (emptyBuffers s).ee.drive = s.ee.drive ∧
    (emptyBuffers s).ca = s.ca ∧
    (emptyBuffers s).wt = s.wt ∧
    (emptyBuffers s).ct = s.ct ∧
    (emptyBuffers s).su = s.su ∧
    (emptyBuffers s).pu = s.pu ∧
    (emptyBuffers s).mc = s.mc ∧
    (emptyBuffers s).conf = s.conf ∧
    (emptyBuffers s).pins = s.pins ∧
    (emptyBuffers s).pending = s.pending ∧
    (emptyBuffers s).store = s.store ∧
    (emptyBuffers s).work = s.work := by
  simp [emptyBuffers]

@[simp] theorem makeCutRoom_frame (s : State) :
    (makeCutRoom s).cu.lineClock = s.cu.lineClock ∧
    (makeCutRoom s).cu.enables = s.cu.enables ∧
    (makeCutRoom s).cu.job = s.cu.job ∧
    (makeCutRoom s).cu.attnPending = s.cu.attnPending ∧
    (makeCutRoom s).om.deferred = s.om.deferred ∧
    (makeCutRoom s).om.queues = s.om.queues ∧
    (makeCutRoom s).om.seq = s.om.seq ∧
    (makeCutRoom s).rc.slot = s.rc.slot ∧
    (makeCutRoom s).rc.mask = s.rc.mask ∧
    (makeCutRoom s).rc.hot = s.rc.hot ∧
    (makeCutRoom s).rc.firstCal = s.rc.firstCal ∧
    (makeCutRoom s).rc.binWait = s.rc.binWait ∧
    (makeCutRoom s).ee = s.ee ∧
    (makeCutRoom s).ca.bal = s.ca.bal ∧
    (makeCutRoom s).ca.thetaCal = s.ca.thetaCal ∧
    (makeCutRoom s).ca.invalid = s.ca.invalid ∧
    (makeCutRoom s).wt.x = s.wt.x ∧
    (makeCutRoom s).wt.y = s.wt.y ∧
    (makeCutRoom s).wt.paperUsed = s.wt.paperUsed ∧
    (makeCutRoom s).wt.waste = s.wt.waste ∧
    (makeCutRoom s).wt.paperEnd = s.wt.paperEnd ∧
    (makeCutRoom s).ct.misses = s.ct.misses ∧
    (makeCutRoom s).su.late = s.su.late ∧
    (makeCutRoom s).pu.counter = s.pu.counter ∧
    (makeCutRoom s).mc = s.mc ∧
    (makeCutRoom s).conf = s.conf ∧
    (makeCutRoom s).pins = s.pins ∧
    (makeCutRoom s).pending = s.pending ∧
    (makeCutRoom s).work.status = s.work.status := by
  unfold makeCutRoom
  (repeat' split) <;> simp

@[simp] theorem addBoundary_frame (b : Word) (s : State) :
    (addBoundary b s).cu.lineClock = s.cu.lineClock ∧
    (addBoundary b s).cu.enables = s.cu.enables ∧
    (addBoundary b s).cu.job = s.cu.job ∧
    (addBoundary b s).cu.attnPending = s.cu.attnPending ∧
    (addBoundary b s).om.deferred = s.om.deferred ∧
    (addBoundary b s).om.queues = s.om.queues ∧
    (addBoundary b s).om.seq = s.om.seq ∧
    (addBoundary b s).rc.slot = s.rc.slot ∧
    (addBoundary b s).rc.mask = s.rc.mask ∧
    (addBoundary b s).rc.hot = s.rc.hot ∧
    (addBoundary b s).rc.firstCal = s.rc.firstCal ∧
    (addBoundary b s).rc.binWait = s.rc.binWait ∧
    (addBoundary b s).ee = s.ee ∧
    (addBoundary b s).ca.bal = s.ca.bal ∧
    (addBoundary b s).ca.thetaCal = s.ca.thetaCal ∧
    (addBoundary b s).ca.invalid = s.ca.invalid ∧
    (addBoundary b s).wt.x = s.wt.x ∧
    (addBoundary b s).wt.y = s.wt.y ∧
    (addBoundary b s).wt.paperUsed = s.wt.paperUsed ∧
    (addBoundary b s).wt.waste = s.wt.waste ∧
    (addBoundary b s).wt.paperEnd = s.wt.paperEnd ∧
    (addBoundary b s).ct.misses = s.ct.misses ∧
    (addBoundary b s).su.late = s.su.late ∧
    (addBoundary b s).pu.counter = s.pu.counter ∧
    (addBoundary b s).mc = s.mc ∧
    (addBoundary b s).conf = s.conf ∧
    (addBoundary b s).pins = s.pins ∧
    (addBoundary b s).pending = s.pending ∧
    (addBoundary b s).work.status = s.work.status := by
  unfold addBoundary
  dsimp only
  split <;> simp

@[simp] theorem startEntries_frame (blank : Bool) (x0 : Word) (s : State) :
    (startEntries blank x0 s).cu = s.cu ∧
    (startEntries blank x0 s).om = s.om ∧
    (startEntries blank x0 s).rc = s.rc ∧
    (startEntries blank x0 s).ee = s.ee ∧
    (startEntries blank x0 s).ca = s.ca ∧
    (startEntries blank x0 s).wt.x = s.wt.x ∧
    (startEntries blank x0 s).wt.y = s.wt.y ∧
    (startEntries blank x0 s).wt.paperUsed = s.wt.paperUsed ∧
    (startEntries blank x0 s).wt.waste = s.wt.waste ∧
    (startEntries blank x0 s).wt.paperEnd = s.wt.paperEnd ∧
    (startEntries blank x0 s).ct = s.ct ∧
    (startEntries blank x0 s).su = s.su ∧
    (startEntries blank x0 s).pu = s.pu ∧
    (startEntries blank x0 s).mc = s.mc ∧
    (startEntries blank x0 s).conf = s.conf ∧
    (startEntries blank x0 s).pins = s.pins ∧
    (startEntries blank x0 s).pending = s.pending ∧
    (startEntries blank x0 s).store = s.store ∧
    (startEntries blank x0 s).work = s.work := by
  simp [startEntries]

@[simp] theorem judgeDrift_frame (theta : Nat) (s : State) :
    (judgeDrift theta s).cu = s.cu ∧
    (judgeDrift theta s).om = s.om ∧
    (judgeDrift theta s).rc = s.rc ∧
    (judgeDrift theta s).ee = s.ee ∧
    (judgeDrift theta s).ca.bal = s.ca.bal ∧
    (judgeDrift theta s).ca.thetaCal = s.ca.thetaCal ∧
    (judgeDrift theta s).wt = s.wt ∧
    (judgeDrift theta s).ct = s.ct ∧
    (judgeDrift theta s).su = s.su ∧
    (judgeDrift theta s).pu = s.pu ∧
    (judgeDrift theta s).mc = s.mc ∧
    (judgeDrift theta s).conf = s.conf ∧
    (judgeDrift theta s).pins = s.pins ∧
    (judgeDrift theta s).pending = s.pending ∧
    (judgeDrift theta s).store = s.store ∧
    (judgeDrift theta s).work.status = s.work.status := by
  unfold judgeDrift
  split <;> simp

@[simp] theorem startPatch_frame (x0 : Word) (theta : Nat) (s : State) :
    (startPatch x0 theta s).cu = s.cu ∧
    (startPatch x0 theta s).om = s.om ∧
    (startPatch x0 theta s).rc = s.rc ∧
    (startPatch x0 theta s).ee = s.ee ∧
    (startPatch x0 theta s).ca.bal = s.ca.bal ∧
    (startPatch x0 theta s).ca.thetaCal = s.ca.thetaCal ∧
    (startPatch x0 theta s).ca.invalid = s.ca.invalid ∧
    (startPatch x0 theta s).wt = s.wt ∧
    (startPatch x0 theta s).ct = s.ct ∧
    (startPatch x0 theta s).su = s.su ∧
    (startPatch x0 theta s).pu = s.pu ∧
    (startPatch x0 theta s).mc = s.mc ∧
    (startPatch x0 theta s).conf = s.conf ∧
    (startPatch x0 theta s).pins = s.pins ∧
    (startPatch x0 theta s).pending = s.pending ∧
    (startPatch x0 theta s).store = s.store ∧
    (startPatch x0 theta s).work = s.work := by
  simp [startPatch]

@[simp] theorem flagUncalibrated_frame (x0 : Word) (s : State) :
    (flagUncalibrated x0 s).cu = s.cu ∧
    (flagUncalibrated x0 s).om = s.om ∧
    (flagUncalibrated x0 s).rc = s.rc ∧
    (flagUncalibrated x0 s).ee = s.ee ∧
    (flagUncalibrated x0 s).ca = s.ca ∧
    (flagUncalibrated x0 s).wt.x = s.wt.x ∧
    (flagUncalibrated x0 s).wt.y = s.wt.y ∧
    (flagUncalibrated x0 s).wt.paperUsed = s.wt.paperUsed ∧
    (flagUncalibrated x0 s).wt.waste = s.wt.waste ∧
    (flagUncalibrated x0 s).wt.paperEnd = s.wt.paperEnd ∧
    (flagUncalibrated x0 s).ct = s.ct ∧
    (flagUncalibrated x0 s).su = s.su ∧
    (flagUncalibrated x0 s).pu = s.pu ∧
    (flagUncalibrated x0 s).mc = s.mc ∧
    (flagUncalibrated x0 s).conf = s.conf ∧
    (flagUncalibrated x0 s).pins = s.pins ∧
    (flagUncalibrated x0 s).pending = s.pending ∧
    (flagUncalibrated x0 s).store = s.store ∧
    (flagUncalibrated x0 s).work = s.work := by
  simp [flagUncalibrated]

@[simp] theorem startSlotRow_frame (r : SlotRow) (s : State) :
    (startSlotRow r s).cu.lineClock = s.cu.lineClock ∧
    (startSlotRow r s).cu.enables = s.cu.enables ∧
    (startSlotRow r s).cu.job = s.cu.job ∧
    (startSlotRow r s).cu.attnPending = s.cu.attnPending ∧
    (startSlotRow r s).om.deferred = s.om.deferred ∧
    (startSlotRow r s).om.queues = s.om.queues ∧
    (startSlotRow r s).om.seq = s.om.seq ∧
    (startSlotRow r s).rc.mask = s.rc.mask ∧
    (startSlotRow r s).rc.hot = s.rc.hot ∧
    (startSlotRow r s).rc.firstCal = s.rc.firstCal ∧
    (startSlotRow r s).rc.binWait = s.rc.binWait ∧
    (startSlotRow r s).ee.continuity = s.ee.continuity ∧
    (startSlotRow r s).ee.hot = s.ee.hot ∧
    (startSlotRow r s).ee.sample = s.ee.sample ∧
    (startSlotRow r s).ee.sampleAt = s.ee.sampleAt ∧
    (startSlotRow r s).ee.drive = s.ee.drive ∧
    (startSlotRow r s).ca.bal = s.ca.bal ∧
    (startSlotRow r s).ca.thetaCal = s.ca.thetaCal ∧
    (startSlotRow r s).wt.x = s.wt.x ∧
    (startSlotRow r s).wt.y = s.wt.y ∧
    (startSlotRow r s).wt.paperUsed = s.wt.paperUsed ∧
    (startSlotRow r s).wt.waste = s.wt.waste ∧
    (startSlotRow r s).wt.paperEnd = s.wt.paperEnd ∧
    (startSlotRow r s).ct.misses = s.ct.misses ∧
    (startSlotRow r s).su.late = s.su.late ∧
    (startSlotRow r s).pu.counter = s.pu.counter ∧
    (startSlotRow r s).mc = s.mc ∧
    (startSlotRow r s).conf = s.conf ∧
    (startSlotRow r s).pins = s.pins ∧
    (startSlotRow r s).pending = s.pending := by
  unfold startSlotRow
  dsimp only
  (repeat' split) <;> simp

@[simp] theorem startBlankRow_frame (s : State) :
    (startBlankRow s).cu.lineClock = s.cu.lineClock ∧
    (startBlankRow s).cu.enables = s.cu.enables ∧
    (startBlankRow s).cu.job = s.cu.job ∧
    (startBlankRow s).cu.attnPending = s.cu.attnPending ∧
    (startBlankRow s).om.deferred = s.om.deferred ∧
    (startBlankRow s).om.queues = s.om.queues ∧
    (startBlankRow s).om.seq = s.om.seq ∧
    (startBlankRow s).rc.slot = s.rc.slot ∧
    (startBlankRow s).rc.mask = s.rc.mask ∧
    (startBlankRow s).rc.hot = s.rc.hot ∧
    (startBlankRow s).rc.firstCal = s.rc.firstCal ∧
    (startBlankRow s).rc.binWait = s.rc.binWait ∧
    (startBlankRow s).ee.buffers = s.ee.buffers ∧
    (startBlankRow s).ee.continuity = s.ee.continuity ∧
    (startBlankRow s).ee.hot = s.ee.hot ∧
    (startBlankRow s).ee.sample = s.ee.sample ∧
    (startBlankRow s).ee.sampleAt = s.ee.sampleAt ∧
    (startBlankRow s).ee.maskInForce = s.ee.maskInForce ∧
    (startBlankRow s).ee.drive = s.ee.drive ∧
    (startBlankRow s).ca.bal = s.ca.bal ∧
    (startBlankRow s).ca.thetaCal = s.ca.thetaCal ∧
    (startBlankRow s).wt.x = s.wt.x ∧
    (startBlankRow s).wt.y = s.wt.y ∧
    (startBlankRow s).wt.paperUsed = s.wt.paperUsed ∧
    (startBlankRow s).wt.waste = s.wt.waste ∧
    (startBlankRow s).wt.paperEnd = s.wt.paperEnd ∧
    (startBlankRow s).ct.misses = s.ct.misses ∧
    (startBlankRow s).su.late = s.su.late ∧
    (startBlankRow s).pu.counter = s.pu.counter ∧
    (startBlankRow s).mc = s.mc ∧
    (startBlankRow s).conf = s.conf ∧
    (startBlankRow s).pins = s.pins ∧
    (startBlankRow s).pending = s.pending := by
  simp [startBlankRow]

@[simp] theorem extendBlank_frame (s : State) :
    (extendBlank s).cu = s.cu ∧
    (extendBlank s).om = s.om ∧
    (extendBlank s).rc = s.rc ∧
    (extendBlank s).ee.buffers = s.ee.buffers ∧
    (extendBlank s).ee.continuity = s.ee.continuity ∧
    (extendBlank s).ee.hot = s.ee.hot ∧
    (extendBlank s).ee.sample = s.ee.sample ∧
    (extendBlank s).ee.sampleAt = s.ee.sampleAt ∧
    (extendBlank s).ee.maskInForce = s.ee.maskInForce ∧
    (extendBlank s).ee.drive = s.ee.drive ∧
    (extendBlank s).ca = s.ca ∧
    (extendBlank s).wt.x = s.wt.x ∧
    (extendBlank s).wt.y = s.wt.y ∧
    (extendBlank s).wt.paperUsed = s.wt.paperUsed ∧
    (extendBlank s).wt.waste = s.wt.waste ∧
    (extendBlank s).wt.paperEnd = s.wt.paperEnd ∧
    (extendBlank s).ct = s.ct ∧
    (extendBlank s).su = s.su ∧
    (extendBlank s).pu = s.pu ∧
    (extendBlank s).mc = s.mc ∧
    (extendBlank s).conf = s.conf ∧
    (extendBlank s).pins = s.pins ∧
    (extendBlank s).pending = s.pending ∧
    (extendBlank s).store = s.store ∧
    (extendBlank s).work = s.work := by
  unfold extendBlank
  (repeat' split) <;> simp

@[simp] theorem requestBlank_frame (s : State) :
    (requestBlank s).cu.lineClock = s.cu.lineClock ∧
    (requestBlank s).cu.enables = s.cu.enables ∧
    (requestBlank s).cu.job = s.cu.job ∧
    (requestBlank s).cu.attnPending = s.cu.attnPending ∧
    (requestBlank s).om.deferred = s.om.deferred ∧
    (requestBlank s).om.queues = s.om.queues ∧
    (requestBlank s).om.seq = s.om.seq ∧
    (requestBlank s).rc.slot = s.rc.slot ∧
    (requestBlank s).rc.mask = s.rc.mask ∧
    (requestBlank s).rc.hot = s.rc.hot ∧
    (requestBlank s).rc.firstCal = s.rc.firstCal ∧
    (requestBlank s).rc.binWait = s.rc.binWait ∧
    (requestBlank s).ee.buffers = s.ee.buffers ∧
    (requestBlank s).ee.continuity = s.ee.continuity ∧
    (requestBlank s).ee.hot = s.ee.hot ∧
    (requestBlank s).ee.sample = s.ee.sample ∧
    (requestBlank s).ee.sampleAt = s.ee.sampleAt ∧
    (requestBlank s).ee.maskInForce = s.ee.maskInForce ∧
    (requestBlank s).ee.drive = s.ee.drive ∧
    (requestBlank s).ca.bal = s.ca.bal ∧
    (requestBlank s).ca.thetaCal = s.ca.thetaCal ∧
    (requestBlank s).wt.x = s.wt.x ∧
    (requestBlank s).wt.y = s.wt.y ∧
    (requestBlank s).wt.paperUsed = s.wt.paperUsed ∧
    (requestBlank s).wt.waste = s.wt.waste ∧
    (requestBlank s).wt.paperEnd = s.wt.paperEnd ∧
    (requestBlank s).ct.misses = s.ct.misses ∧
    (requestBlank s).su.late = s.su.late ∧
    (requestBlank s).pu.counter = s.pu.counter ∧
    (requestBlank s).mc = s.mc ∧
    (requestBlank s).conf = s.conf ∧
    (requestBlank s).pins = s.pins ∧
    (requestBlank s).pending = s.pending := by
  unfold requestBlank
  dsimp only
  (repeat' split) <;> simp

@[simp] theorem keepLoop_frame (s : State) :
    (keepLoop s).cu.lineClock = s.cu.lineClock ∧
    (keepLoop s).cu.enables = s.cu.enables ∧
    (keepLoop s).cu.job = s.cu.job ∧
    (keepLoop s).cu.attnPending = s.cu.attnPending ∧
    (keepLoop s).om.deferred = s.om.deferred ∧
    (keepLoop s).om.queues = s.om.queues ∧
    (keepLoop s).om.seq = s.om.seq ∧
    (keepLoop s).rc.slot = s.rc.slot ∧
    (keepLoop s).rc.mask = s.rc.mask ∧
    (keepLoop s).rc.hot = s.rc.hot ∧
    (keepLoop s).rc.firstCal = s.rc.firstCal ∧
    (keepLoop s).rc.binWait = s.rc.binWait ∧
    (keepLoop s).ee.buffers = s.ee.buffers ∧
    (keepLoop s).ee.continuity = s.ee.continuity ∧
    (keepLoop s).ee.hot = s.ee.hot ∧
    (keepLoop s).ee.sample = s.ee.sample ∧
    (keepLoop s).ee.sampleAt = s.ee.sampleAt ∧
    (keepLoop s).ee.maskInForce = s.ee.maskInForce ∧
    (keepLoop s).ee.drive = s.ee.drive ∧
    (keepLoop s).ca.bal = s.ca.bal ∧
    (keepLoop s).ca.thetaCal = s.ca.thetaCal ∧
    (keepLoop s).wt.x = s.wt.x ∧
    (keepLoop s).wt.y = s.wt.y ∧
    (keepLoop s).wt.paperUsed = s.wt.paperUsed ∧
    (keepLoop s).wt.waste = s.wt.waste ∧
    (keepLoop s).wt.paperEnd = s.wt.paperEnd ∧
    (keepLoop s).ct.misses = s.ct.misses ∧
    (keepLoop s).su.late = s.su.late ∧
    (keepLoop s).pu.counter = s.pu.counter ∧
    (keepLoop s).mc = s.mc ∧
    (keepLoop s).conf = s.conf ∧
    (keepLoop s).pins = s.pins ∧
    (keepLoop s).pending = s.pending := by
  unfold keepLoop
  split <;> simp

@[simp] theorem advanceX_frame (wasted : Bool) (s : State) :
    (advanceX wasted s).cu = s.cu ∧
    (advanceX wasted s).om = s.om ∧
    (advanceX wasted s).rc = s.rc ∧
    (advanceX wasted s).ee = s.ee ∧
    (advanceX wasted s).ca = s.ca ∧
    (advanceX wasted s).wt.y = s.wt.y ∧
    (advanceX wasted s).wt.paperEnd = s.wt.paperEnd ∧
    (advanceX wasted s).wt.track = s.wt.track ∧
    (advanceX wasted s).ct = s.ct ∧
    (advanceX wasted s).su = s.su ∧
    (advanceX wasted s).pu = s.pu ∧
    (advanceX wasted s).mc = s.mc ∧
    (advanceX wasted s).conf = s.conf ∧
    (advanceX wasted s).pins = s.pins ∧
    (advanceX wasted s).pending = s.pending ∧
    (advanceX wasted s).store = s.store ∧
    (advanceX wasted s).work = s.work := by
  simp [advanceX]

@[simp] theorem flagUnderrun_frame (x0 : Word) (l : Lane) (p : Option PrintRun) (s : State) :
    (flagUnderrun x0 l p s).cu = s.cu ∧
    (flagUnderrun x0 l p s).om = s.om ∧
    (flagUnderrun x0 l p s).rc = s.rc ∧
    (flagUnderrun x0 l p s).ee = s.ee ∧
    (flagUnderrun x0 l p s).ca = s.ca ∧
    (flagUnderrun x0 l p s).wt.x = s.wt.x ∧
    (flagUnderrun x0 l p s).wt.y = s.wt.y ∧
    (flagUnderrun x0 l p s).wt.paperUsed = s.wt.paperUsed ∧
    (flagUnderrun x0 l p s).wt.waste = s.wt.waste ∧
    (flagUnderrun x0 l p s).wt.paperEnd = s.wt.paperEnd ∧
    (flagUnderrun x0 l p s).ct = s.ct ∧
    (flagUnderrun x0 l p s).su = s.su ∧
    (flagUnderrun x0 l p s).pu = s.pu ∧
    (flagUnderrun x0 l p s).mc = s.mc ∧
    (flagUnderrun x0 l p s).conf = s.conf ∧
    (flagUnderrun x0 l p s).pins = s.pins ∧
    (flagUnderrun x0 l p s).pending = s.pending ∧
    (flagUnderrun x0 l p s).store = s.store ∧
    (flagUnderrun x0 l p s).work = s.work := by
  unfold flagUnderrun
  split <;> simp

@[simp] theorem exposeLine_frame (r : ExposingRow) (k : Nat) (s : State) :
    (exposeLine r k s).cu = s.cu ∧
    (exposeLine r k s).om = s.om ∧
    (exposeLine r k s).rc = s.rc ∧
    (exposeLine r k s).ee.continuity = s.ee.continuity ∧
    (exposeLine r k s).ee.hot = s.ee.hot ∧
    (exposeLine r k s).ee.sample = s.ee.sample ∧
    (exposeLine r k s).ee.sampleAt = s.ee.sampleAt ∧
    (exposeLine r k s).ee.maskInForce = s.ee.maskInForce ∧
    (exposeLine r k s).ca = s.ca ∧
    (exposeLine r k s).wt.y = s.wt.y ∧
    (exposeLine r k s).wt.paperEnd = s.wt.paperEnd ∧
    (exposeLine r k s).ct = s.ct ∧
    (exposeLine r k s).su = s.su ∧
    (exposeLine r k s).pu = s.pu ∧
    (exposeLine r k s).mc = s.mc ∧
    (exposeLine r k s).conf = s.conf ∧
    (exposeLine r k s).pins = s.pins ∧
    (exposeLine r k s).pending = s.pending ∧
    (exposeLine r k s).store = s.store ∧
    (exposeLine r k s).work = s.work := by
  simp [exposeLine]

@[simp] theorem exposeLeadIn_frame (done : Nat) (blank : Bool) (s : State) :
    (exposeLeadIn done blank s).cu = s.cu ∧
    (exposeLeadIn done blank s).om = s.om ∧
    (exposeLeadIn done blank s).rc = s.rc ∧
    (exposeLeadIn done blank s).ee.buffers = s.ee.buffers ∧
    (exposeLeadIn done blank s).ee.continuity = s.ee.continuity ∧
    (exposeLeadIn done blank s).ee.hot = s.ee.hot ∧
    (exposeLeadIn done blank s).ee.sample = s.ee.sample ∧
    (exposeLeadIn done blank s).ee.sampleAt = s.ee.sampleAt ∧
    (exposeLeadIn done blank s).ee.maskInForce = s.ee.maskInForce ∧
    (exposeLeadIn done blank s).ca = s.ca ∧
    (exposeLeadIn done blank s).wt.y = s.wt.y ∧
    (exposeLeadIn done blank s).wt.paperEnd = s.wt.paperEnd ∧
    (exposeLeadIn done blank s).wt.track = s.wt.track ∧
    (exposeLeadIn done blank s).ct = s.ct ∧
    (exposeLeadIn done blank s).su = s.su ∧
    (exposeLeadIn done blank s).pu = s.pu ∧
    (exposeLeadIn done blank s).mc = s.mc ∧
    (exposeLeadIn done blank s).conf = s.conf ∧
    (exposeLeadIn done blank s).pins = s.pins ∧
    (exposeLeadIn done blank s).pending = s.pending ∧
    (exposeLeadIn done blank s).store = s.store ∧
    (exposeLeadIn done blank s).work = s.work := by
  simp [exposeLeadIn]

@[simp] theorem endEntries_frame (x0 : Word) (s : State) :
    (endEntries x0 s).cu = s.cu ∧
    (endEntries x0 s).om = s.om ∧
    (endEntries x0 s).rc = s.rc ∧
    (endEntries x0 s).ee = s.ee ∧
    (endEntries x0 s).ca = s.ca ∧
    (endEntries x0 s).wt.x = s.wt.x ∧
    (endEntries x0 s).wt.y = s.wt.y ∧
    (endEntries x0 s).wt.paperUsed = s.wt.paperUsed ∧
    (endEntries x0 s).wt.waste = s.wt.waste ∧
    (endEntries x0 s).wt.paperEnd = s.wt.paperEnd ∧
    (endEntries x0 s).ct = s.ct ∧
    (endEntries x0 s).su = s.su ∧
    (endEntries x0 s).pu = s.pu ∧
    (endEntries x0 s).mc = s.mc ∧
    (endEntries x0 s).conf = s.conf ∧
    (endEntries x0 s).pins = s.pins ∧
    (endEntries x0 s).pending = s.pending ∧
    (endEntries x0 s).store = s.store ∧
    (endEntries x0 s).work = s.work := by
  simp [endEntries]

@[simp] theorem judgeClip_frame (x0 : Word) (l : Lane) (p : Option PrintRun) (s : State) :
    (judgeClip x0 l p s).cu = s.cu ∧
    (judgeClip x0 l p s).om = s.om ∧
    (judgeClip x0 l p s).rc = s.rc ∧
    (judgeClip x0 l p s).ee = s.ee ∧
    (judgeClip x0 l p s).ca = s.ca ∧
    (judgeClip x0 l p s).wt.x = s.wt.x ∧
    (judgeClip x0 l p s).wt.y = s.wt.y ∧
    (judgeClip x0 l p s).wt.paperUsed = s.wt.paperUsed ∧
    (judgeClip x0 l p s).wt.waste = s.wt.waste ∧
    (judgeClip x0 l p s).wt.paperEnd = s.wt.paperEnd ∧
    (judgeClip x0 l p s).ct = s.ct ∧
    (judgeClip x0 l p s).su = s.su ∧
    (judgeClip x0 l p s).pu = s.pu ∧
    (judgeClip x0 l p s).mc = s.mc ∧
    (judgeClip x0 l p s).conf = s.conf ∧
    (judgeClip x0 l p s).pins = s.pins ∧
    (judgeClip x0 l p s).pending = s.pending ∧
    (judgeClip x0 l p s).store = s.store ∧
    (judgeClip x0 l p s).work = s.work := by
  unfold judgeClip
  split <;> simp

@[simp] theorem judgeUnderrun_frame (x0 : Word) (l : Lane) (s : State) :
    (judgeUnderrun x0 l s).cu.lineClock = s.cu.lineClock ∧
    (judgeUnderrun x0 l s).cu.enables = s.cu.enables ∧
    (judgeUnderrun x0 l s).cu.job = s.cu.job ∧
    (judgeUnderrun x0 l s).cu.attnPending = s.cu.attnPending ∧
    (judgeUnderrun x0 l s).om.deferred = s.om.deferred ∧
    (judgeUnderrun x0 l s).om.queues = s.om.queues ∧
    (judgeUnderrun x0 l s).om.seq = s.om.seq ∧
    (judgeUnderrun x0 l s).rc.slot = s.rc.slot ∧
    (judgeUnderrun x0 l s).rc.mask = s.rc.mask ∧
    (judgeUnderrun x0 l s).rc.hot = s.rc.hot ∧
    (judgeUnderrun x0 l s).rc.firstCal = s.rc.firstCal ∧
    (judgeUnderrun x0 l s).rc.binWait = s.rc.binWait ∧
    (judgeUnderrun x0 l s).ee = s.ee ∧
    (judgeUnderrun x0 l s).ca = s.ca ∧
    (judgeUnderrun x0 l s).wt.x = s.wt.x ∧
    (judgeUnderrun x0 l s).wt.y = s.wt.y ∧
    (judgeUnderrun x0 l s).wt.paperUsed = s.wt.paperUsed ∧
    (judgeUnderrun x0 l s).wt.waste = s.wt.waste ∧
    (judgeUnderrun x0 l s).wt.paperEnd = s.wt.paperEnd ∧
    (judgeUnderrun x0 l s).ct.misses = s.ct.misses ∧
    (judgeUnderrun x0 l s).su.late = s.su.late ∧
    (judgeUnderrun x0 l s).pu.counter = s.pu.counter ∧
    (judgeUnderrun x0 l s).mc = s.mc ∧
    (judgeUnderrun x0 l s).conf = s.conf ∧
    (judgeUnderrun x0 l s).pins = s.pins ∧
    (judgeUnderrun x0 l s).pending = s.pending ∧
    (judgeUnderrun x0 l s).work.status = s.work.status := by
  unfold judgeUnderrun
  split
  · simp
  · split
    · rename_i e _ _
      cases h : e.ref <;> simp
    · simp


@[simp] theorem endRow_frame (s : State) :
    (endRow s).cu = s.cu ∧
    (endRow s).om = s.om ∧
    (endRow s).rc = s.rc ∧
    (endRow s).ee.hot = s.ee.hot ∧
    (endRow s).ee.sample = s.ee.sample ∧
    (endRow s).ee.sampleAt = s.ee.sampleAt ∧
    (endRow s).ee.maskInForce = s.ee.maskInForce ∧
    (endRow s).ca = s.ca ∧
    (endRow s).wt = s.wt ∧
    (endRow s).ct = s.ct ∧
    (endRow s).su = s.su ∧
    (endRow s).pu = s.pu ∧
    (endRow s).mc = s.mc ∧
    (endRow s).conf = s.conf ∧
    (endRow s).pins = s.pins ∧
    (endRow s).pending = s.pending ∧
    (endRow s).store = s.store ∧
    (endRow s).work = s.work := by
  simp [endRow]

@[simp] theorem judgePrints_frame (r : ExposingRow) (s : State) :
    (judgePrints r s).cu.lineClock = s.cu.lineClock ∧
    (judgePrints r s).cu.enables = s.cu.enables ∧
    (judgePrints r s).cu.job = s.cu.job ∧
    (judgePrints r s).cu.attnPending = s.cu.attnPending ∧
    (judgePrints r s).om.deferred = s.om.deferred ∧
    (judgePrints r s).om.queues = s.om.queues ∧
    (judgePrints r s).om.seq = s.om.seq ∧
    (judgePrints r s).rc.slot = s.rc.slot ∧
    (judgePrints r s).rc.mask = s.rc.mask ∧
    (judgePrints r s).rc.hot = s.rc.hot ∧
    (judgePrints r s).rc.firstCal = s.rc.firstCal ∧
    (judgePrints r s).rc.binWait = s.rc.binWait ∧
    (judgePrints r s).ee = s.ee ∧
    (judgePrints r s).ca = s.ca ∧
    (judgePrints r s).wt.x = s.wt.x ∧
    (judgePrints r s).wt.y = s.wt.y ∧
    (judgePrints r s).wt.paperUsed = s.wt.paperUsed ∧
    (judgePrints r s).wt.waste = s.wt.waste ∧
    (judgePrints r s).wt.paperEnd = s.wt.paperEnd ∧
    (judgePrints r s).ct.misses = s.ct.misses ∧
    (judgePrints r s).su.late = s.su.late ∧
    (judgePrints r s).pu.counter = s.pu.counter ∧
    (judgePrints r s).mc = s.mc ∧
    (judgePrints r s).conf = s.conf ∧
    (judgePrints r s).pins = s.pins ∧
    (judgePrints r s).pending = s.pending ∧
    (judgePrints r s).work.status = s.work.status := by
  simp [judgePrints]


@[simp] theorem abandonRow_frame (s : State) :
    (abandonRow s).cu.lineClock = s.cu.lineClock ∧
    (abandonRow s).cu.enables = s.cu.enables ∧
    (abandonRow s).cu.job = s.cu.job ∧
    (abandonRow s).cu.attnPending = s.cu.attnPending ∧
    (abandonRow s).om.deferred = s.om.deferred ∧
    (abandonRow s).om.queues = s.om.queues ∧
    (abandonRow s).om.seq = s.om.seq ∧
    (abandonRow s).rc = s.rc ∧
    (abandonRow s).ee.hot = s.ee.hot ∧
    (abandonRow s).ee.sample = s.ee.sample ∧
    (abandonRow s).ee.sampleAt = s.ee.sampleAt ∧
    (abandonRow s).ee.maskInForce = s.ee.maskInForce ∧
    (abandonRow s).ca = s.ca ∧
    (abandonRow s).wt.x = s.wt.x ∧
    (abandonRow s).wt.y = s.wt.y ∧
    (abandonRow s).wt.paperUsed = s.wt.paperUsed ∧
    (abandonRow s).wt.waste = s.wt.waste ∧
    (abandonRow s).wt.paperEnd = s.wt.paperEnd ∧
    (abandonRow s).ct.misses = s.ct.misses ∧
    (abandonRow s).su.late = s.su.late ∧
    (abandonRow s).pu.counter = s.pu.counter ∧
    (abandonRow s).mc = s.mc ∧
    (abandonRow s).conf = s.conf ∧
    (abandonRow s).pins = s.pins ∧
    (abandonRow s).pending = s.pending ∧
    (abandonRow s).work.status = s.work.status := by
  simp [abandonRow]

@[simp] theorem faultFates_frame (conveyorStops : Bool) (s : State) :
    (faultFates conveyorStops s).cu.lineClock = s.cu.lineClock ∧
    (faultFates conveyorStops s).cu.enables = s.cu.enables ∧
    (faultFates conveyorStops s).cu.job = s.cu.job ∧
    (faultFates conveyorStops s).cu.attnPending = s.cu.attnPending ∧
    (faultFates conveyorStops s).om.deferred = s.om.deferred ∧
    (faultFates conveyorStops s).om.queues = s.om.queues ∧
    (faultFates conveyorStops s).om.seq = s.om.seq ∧
    (faultFates conveyorStops s).rc.mask = s.rc.mask ∧
    (faultFates conveyorStops s).rc.hot = s.rc.hot ∧
    (faultFates conveyorStops s).rc.firstCal = s.rc.firstCal ∧
    (faultFates conveyorStops s).rc.binWait = s.rc.binWait ∧
    (faultFates conveyorStops s).ee = s.ee ∧
    (faultFates conveyorStops s).ca.bal = s.ca.bal ∧
    (faultFates conveyorStops s).ca.thetaCal = s.ca.thetaCal ∧
    (faultFates conveyorStops s).ca.invalid = s.ca.invalid ∧
    (faultFates conveyorStops s).wt.x = s.wt.x ∧
    (faultFates conveyorStops s).wt.y = s.wt.y ∧
    (faultFates conveyorStops s).wt.paperUsed = s.wt.paperUsed ∧
    (faultFates conveyorStops s).wt.waste = s.wt.waste ∧
    (faultFates conveyorStops s).wt.paperEnd = s.wt.paperEnd ∧
    (faultFates conveyorStops s).ct.misses = s.ct.misses ∧
    (faultFates conveyorStops s).pu.counter = s.pu.counter ∧
    (faultFates conveyorStops s).mc = s.mc ∧
    (faultFates conveyorStops s).conf = s.conf ∧
    (faultFates conveyorStops s).pins = s.pins ∧
    (faultFates conveyorStops s).pending = s.pending ∧
    (faultFates conveyorStops s).work.status = s.work.status := by
  unfold faultFates
  split <;> simp

@[simp] theorem enterFault_frame (c : FaultCause) (s : State) :
    (enterFault c s).cu.lineClock = s.cu.lineClock ∧
    (enterFault c s).cu.enables = s.cu.enables ∧
    (enterFault c s).cu.job = s.cu.job ∧
    (enterFault c s).cu.attnPending = s.cu.attnPending ∧
    (enterFault c s).om.deferred = s.om.deferred ∧
    (enterFault c s).om.queues = s.om.queues ∧
    (enterFault c s).om.seq = s.om.seq ∧
    (enterFault c s).rc.mask = s.rc.mask ∧
    (enterFault c s).rc.hot = s.rc.hot ∧
    (enterFault c s).rc.firstCal = s.rc.firstCal ∧
    (enterFault c s).rc.binWait = s.rc.binWait ∧
    (enterFault c s).ee.hot = s.ee.hot ∧
    (enterFault c s).ee.sample = s.ee.sample ∧
    (enterFault c s).ee.sampleAt = s.ee.sampleAt ∧
    (enterFault c s).ee.maskInForce = s.ee.maskInForce ∧
    (enterFault c s).ca.bal = s.ca.bal ∧
    (enterFault c s).ca.thetaCal = s.ca.thetaCal ∧
    (enterFault c s).ca.invalid = s.ca.invalid ∧
    (enterFault c s).wt.x = s.wt.x ∧
    (enterFault c s).wt.y = s.wt.y ∧
    (enterFault c s).wt.paperUsed = s.wt.paperUsed ∧
    (enterFault c s).wt.waste = s.wt.waste ∧
    (enterFault c s).wt.paperEnd = s.wt.paperEnd ∧
    (enterFault c s).ct.misses = s.ct.misses ∧
    (enterFault c s).pu.counter = s.pu.counter ∧
    (enterFault c s).conf = s.conf ∧
    (enterFault c s).pins = s.pins ∧
    (enterFault c s).pending = s.pending := by
  simp [enterFault]

@[simp] theorem furtherFault_frame (c : FaultCause) (s : State) :
    (furtherFault c s).cu.lineClock = s.cu.lineClock ∧
    (furtherFault c s).cu.enables = s.cu.enables ∧
    (furtherFault c s).cu.job = s.cu.job ∧
    (furtherFault c s).cu.attnPending = s.cu.attnPending ∧
    (furtherFault c s).om.deferred = s.om.deferred ∧
    (furtherFault c s).om.queues = s.om.queues ∧
    (furtherFault c s).om.seq = s.om.seq ∧
    (furtherFault c s).rc.slot = s.rc.slot ∧
    (furtherFault c s).rc.mask = s.rc.mask ∧
    (furtherFault c s).rc.hot = s.rc.hot ∧
    (furtherFault c s).rc.firstCal = s.rc.firstCal ∧
    (furtherFault c s).rc.binWait = s.rc.binWait ∧
    (furtherFault c s).ee = s.ee ∧
    (furtherFault c s).ca.bal = s.ca.bal ∧
    (furtherFault c s).ca.thetaCal = s.ca.thetaCal ∧
    (furtherFault c s).ca.invalid = s.ca.invalid ∧
    (furtherFault c s).wt.x = s.wt.x ∧
    (furtherFault c s).wt.y = s.wt.y ∧
    (furtherFault c s).wt.paperUsed = s.wt.paperUsed ∧
    (furtherFault c s).wt.waste = s.wt.waste ∧
    (furtherFault c s).wt.paperEnd = s.wt.paperEnd ∧
    (furtherFault c s).ct.misses = s.ct.misses ∧
    (furtherFault c s).pu.counter = s.pu.counter ∧
    (furtherFault c s).mc.state = s.mc.state ∧
    (furtherFault c s).conf = s.conf ∧
    (furtherFault c s).pins = s.pins ∧
    (furtherFault c s).pending = s.pending ∧
    (furtherFault c s).work.status = s.work.status := by
  unfold furtherFault
  (repeat' split) <;> simp

@[simp] theorem takeCondition_frame (c : FaultCause) (s : State) :
    (takeCondition c s).cu.lineClock = s.cu.lineClock ∧
    (takeCondition c s).cu.enables = s.cu.enables ∧
    (takeCondition c s).cu.job = s.cu.job ∧
    (takeCondition c s).cu.attnPending = s.cu.attnPending ∧
    (takeCondition c s).om.deferred = s.om.deferred ∧
    (takeCondition c s).om.queues = s.om.queues ∧
    (takeCondition c s).om.seq = s.om.seq ∧
    (takeCondition c s).rc.mask = s.rc.mask ∧
    (takeCondition c s).rc.hot = s.rc.hot ∧
    (takeCondition c s).rc.firstCal = s.rc.firstCal ∧
    (takeCondition c s).rc.binWait = s.rc.binWait ∧
    (takeCondition c s).ee.hot = s.ee.hot ∧
    (takeCondition c s).ee.sample = s.ee.sample ∧
    (takeCondition c s).ee.sampleAt = s.ee.sampleAt ∧
    (takeCondition c s).ee.maskInForce = s.ee.maskInForce ∧
    (takeCondition c s).ca.bal = s.ca.bal ∧
    (takeCondition c s).ca.thetaCal = s.ca.thetaCal ∧
    (takeCondition c s).ca.invalid = s.ca.invalid ∧
    (takeCondition c s).wt.x = s.wt.x ∧
    (takeCondition c s).wt.y = s.wt.y ∧
    (takeCondition c s).wt.paperUsed = s.wt.paperUsed ∧
    (takeCondition c s).wt.waste = s.wt.waste ∧
    (takeCondition c s).wt.paperEnd = s.wt.paperEnd ∧
    (takeCondition c s).ct.misses = s.ct.misses ∧
    (takeCondition c s).pu.counter = s.pu.counter ∧
    (takeCondition c s).conf = s.conf ∧
    (takeCondition c s).pins = s.pins ∧
    (takeCondition c s).pending = s.pending := by
  unfold takeCondition
  split <;> simp

@[simp] theorem judgeConditions_frame (s : State) :
    (judgeConditions s).cu.lineClock = s.cu.lineClock ∧
    (judgeConditions s).cu.enables = s.cu.enables ∧
    (judgeConditions s).cu.job = s.cu.job ∧
    (judgeConditions s).cu.attnPending = s.cu.attnPending ∧
    (judgeConditions s).om.deferred = s.om.deferred ∧
    (judgeConditions s).om.queues = s.om.queues ∧
    (judgeConditions s).om.seq = s.om.seq ∧
    (judgeConditions s).rc.mask = s.rc.mask ∧
    (judgeConditions s).rc.hot = s.rc.hot ∧
    (judgeConditions s).rc.firstCal = s.rc.firstCal ∧
    (judgeConditions s).rc.binWait = s.rc.binWait ∧
    (judgeConditions s).ee.hot = s.ee.hot ∧
    (judgeConditions s).ee.sample = s.ee.sample ∧
    (judgeConditions s).ee.sampleAt = s.ee.sampleAt ∧
    (judgeConditions s).ee.maskInForce = s.ee.maskInForce ∧
    (judgeConditions s).ca.bal = s.ca.bal ∧
    (judgeConditions s).ca.thetaCal = s.ca.thetaCal ∧
    (judgeConditions s).ca.invalid = s.ca.invalid ∧
    (judgeConditions s).wt.x = s.wt.x ∧
    (judgeConditions s).wt.y = s.wt.y ∧
    (judgeConditions s).wt.paperUsed = s.wt.paperUsed ∧
    (judgeConditions s).wt.waste = s.wt.waste ∧
    (judgeConditions s).wt.paperEnd = s.wt.paperEnd ∧
    (judgeConditions s).ct.misses = s.ct.misses ∧
    (judgeConditions s).pu.counter = s.pu.counter ∧
    (judgeConditions s).conf = s.conf ∧
    (judgeConditions s).pins = s.pins ∧
    (judgeConditions s).pending = s.pending := by
  unfold judgeConditions
  exact ⟨foldl_keeps (fun t : State => t.cu.lineClock) _ (by intros; split <;> simp) _ _,
    foldl_keeps (fun t : State => t.cu.enables) _ (by intros; split <;> simp) _ _,
    foldl_keeps (fun t : State => t.cu.job) _ (by intros; split <;> simp) _ _,
    foldl_keeps (fun t : State => t.cu.attnPending) _ (by intros; split <;> simp) _ _,
    foldl_keeps (fun t : State => t.om.deferred) _ (by intros; split <;> simp) _ _,
    foldl_keeps (fun t : State => t.om.queues) _ (by intros; split <;> simp) _ _,
    foldl_keeps (fun t : State => t.om.seq) _ (by intros; split <;> simp) _ _,
    foldl_keeps (fun t : State => t.rc.mask) _ (by intros; split <;> simp) _ _,
    foldl_keeps (fun t : State => t.rc.hot) _ (by intros; split <;> simp) _ _,
    foldl_keeps (fun t : State => t.rc.firstCal) _ (by intros; split <;> simp) _ _,
    foldl_keeps (fun t : State => t.rc.binWait) _ (by intros; split <;> simp) _ _,
    foldl_keeps (fun t : State => t.ee.hot) _ (by intros; split <;> simp) _ _,
    foldl_keeps (fun t : State => t.ee.sample) _ (by intros; split <;> simp) _ _,
    foldl_keeps (fun t : State => t.ee.sampleAt) _ (by intros; split <;> simp) _ _,
    foldl_keeps (fun t : State => t.ee.maskInForce) _ (by intros; split <;> simp) _ _,
    foldl_keeps (fun t : State => t.ca.bal) _ (by intros; split <;> simp) _ _,
    foldl_keeps (fun t : State => t.ca.thetaCal) _ (by intros; split <;> simp) _ _,
    foldl_keeps (fun t : State => t.ca.invalid) _ (by intros; split <;> simp) _ _,
    foldl_keeps (fun t : State => t.wt.x) _ (by intros; split <;> simp) _ _,
    foldl_keeps (fun t : State => t.wt.y) _ (by intros; split <;> simp) _ _,
    foldl_keeps (fun t : State => t.wt.paperUsed) _ (by intros; split <;> simp) _ _,
    foldl_keeps (fun t : State => t.wt.waste) _ (by intros; split <;> simp) _ _,
    foldl_keeps (fun t : State => t.wt.paperEnd) _ (by intros; split <;> simp) _ _,
    foldl_keeps (fun t : State => t.ct.misses) _ (by intros; split <;> simp) _ _,
    foldl_keeps (fun t : State => t.pu.counter) _ (by intros; split <;> simp) _ _,
    foldl_keeps (fun t : State => t.conf) _ (by intros; split <;> simp) _ _,
    foldl_keeps (fun t : State => t.pins) _ (by intros; split <;> simp) _ _,
    foldl_keeps (fun t : State => t.pending) _ (by intros; split <;> simp) _ _⟩


@[simp] theorem removeEach_frame (l : List EntryKey) (s : State) :
    (l.foldl (fun t k => removeEntry k t) s).cu.lineClock = s.cu.lineClock ∧
    (l.foldl (fun t k => removeEntry k t) s).cu.enables = s.cu.enables ∧
    (l.foldl (fun t k => removeEntry k t) s).cu.job = s.cu.job ∧
    (l.foldl (fun t k => removeEntry k t) s).cu.attnPending = s.cu.attnPending ∧
    (l.foldl (fun t k => removeEntry k t) s).om.deferred = s.om.deferred ∧
    (l.foldl (fun t k => removeEntry k t) s).om.queues = s.om.queues ∧
    (l.foldl (fun t k => removeEntry k t) s).om.seq = s.om.seq ∧
    (l.foldl (fun t k => removeEntry k t) s).rc = s.rc ∧
    (l.foldl (fun t k => removeEntry k t) s).ee = s.ee ∧
    (l.foldl (fun t k => removeEntry k t) s).ca = s.ca ∧
    (l.foldl (fun t k => removeEntry k t) s).wt.x = s.wt.x ∧
    (l.foldl (fun t k => removeEntry k t) s).wt.y = s.wt.y ∧
    (l.foldl (fun t k => removeEntry k t) s).wt.paperUsed = s.wt.paperUsed ∧
    (l.foldl (fun t k => removeEntry k t) s).wt.waste = s.wt.waste ∧
    (l.foldl (fun t k => removeEntry k t) s).wt.paperEnd = s.wt.paperEnd ∧
    (l.foldl (fun t k => removeEntry k t) s).ct.misses = s.ct.misses ∧
    (l.foldl (fun t k => removeEntry k t) s).su.late = s.su.late ∧
    (l.foldl (fun t k => removeEntry k t) s).pu.counter = s.pu.counter ∧
    (l.foldl (fun t k => removeEntry k t) s).mc = s.mc ∧
    (l.foldl (fun t k => removeEntry k t) s).conf = s.conf ∧
    (l.foldl (fun t k => removeEntry k t) s).pins = s.pins ∧
    (l.foldl (fun t k => removeEntry k t) s).pending = s.pending ∧
    (l.foldl (fun t k => removeEntry k t) s).work.status = s.work.status :=
  ⟨foldl_keeps (fun t : State => t.cu.lineClock) _ (by intros; simp) _ _,
    foldl_keeps (fun t : State => t.cu.enables) _ (by intros; simp) _ _,
    foldl_keeps (fun t : State => t.cu.job) _ (by intros; simp) _ _,
    foldl_keeps (fun t : State => t.cu.attnPending) _ (by intros; simp) _ _,
    foldl_keeps (fun t : State => t.om.deferred) _ (by intros; simp) _ _,
    foldl_keeps (fun t : State => t.om.queues) _ (by intros; simp) _ _,
    foldl_keeps (fun t : State => t.om.seq) _ (by intros; simp) _ _,
    foldl_keeps (fun t : State => t.rc) _ (by intros; simp) _ _,
    foldl_keeps (fun t : State => t.ee) _ (by intros; simp) _ _,
    foldl_keeps (fun t : State => t.ca) _ (by intros; simp) _ _,
    foldl_keeps (fun t : State => t.wt.x) _ (by intros; simp) _ _,
    foldl_keeps (fun t : State => t.wt.y) _ (by intros; simp) _ _,
    foldl_keeps (fun t : State => t.wt.paperUsed) _ (by intros; simp) _ _,
    foldl_keeps (fun t : State => t.wt.waste) _ (by intros; simp) _ _,
    foldl_keeps (fun t : State => t.wt.paperEnd) _ (by intros; simp) _ _,
    foldl_keeps (fun t : State => t.ct.misses) _ (by intros; simp) _ _,
    foldl_keeps (fun t : State => t.su.late) _ (by intros; simp) _ _,
    foldl_keeps (fun t : State => t.pu.counter) _ (by intros; simp) _ _,
    foldl_keeps (fun t : State => t.mc) _ (by intros; simp) _ _,
    foldl_keeps (fun t : State => t.conf) _ (by intros; simp) _ _,
    foldl_keeps (fun t : State => t.pins) _ (by intros; simp) _ _,
    foldl_keeps (fun t : State => t.pending) _ (by intros; simp) _ _,
    foldl_keeps (fun t : State => t.work.status) _ (by intros; simp) _ _⟩

@[simp] theorem enterPaused_frame (s : State) :
    (enterPaused s).cu.lineClock = s.cu.lineClock ∧
    (enterPaused s).cu.enables = s.cu.enables ∧
    (enterPaused s).cu.job = s.cu.job ∧
    (enterPaused s).cu.attnPending = s.cu.attnPending ∧
    (enterPaused s).om.deferred = s.om.deferred ∧
    (enterPaused s).om.queues = s.om.queues ∧
    (enterPaused s).om.seq = s.om.seq ∧
    (enterPaused s).rc.mask = s.rc.mask ∧
    (enterPaused s).rc.hot = s.rc.hot ∧
    (enterPaused s).rc.firstCal = s.rc.firstCal ∧
    (enterPaused s).rc.binWait = s.rc.binWait ∧
    (enterPaused s).ee.hot = s.ee.hot ∧
    (enterPaused s).ee.sample = s.ee.sample ∧
    (enterPaused s).ee.sampleAt = s.ee.sampleAt ∧
    (enterPaused s).ee.maskInForce = s.ee.maskInForce ∧
    (enterPaused s).ca.bal = s.ca.bal ∧
    (enterPaused s).ca.thetaCal = s.ca.thetaCal ∧
    (enterPaused s).ca.invalid = s.ca.invalid ∧
    (enterPaused s).wt.x = s.wt.x ∧
    (enterPaused s).wt.y = s.wt.y ∧
    (enterPaused s).wt.paperUsed = s.wt.paperUsed ∧
    (enterPaused s).wt.waste = s.wt.waste ∧
    (enterPaused s).wt.paperEnd = s.wt.paperEnd ∧
    (enterPaused s).ct.misses = s.ct.misses ∧
    (enterPaused s).pu.counter = s.pu.counter ∧
    (enterPaused s).conf = s.conf ∧
    (enterPaused s).pins = s.pins ∧
    (enterPaused s).pending = s.pending := by
  unfold enterPaused
  simp


@[simp] theorem enterPausing_frame (c : PauseCause) (s : State) :
    (enterPausing c s).cu.lineClock = s.cu.lineClock ∧
    (enterPausing c s).cu.enables = s.cu.enables ∧
    (enterPausing c s).cu.job = s.cu.job ∧
    (enterPausing c s).cu.attnPending = s.cu.attnPending ∧
    (enterPausing c s).om.deferred = s.om.deferred ∧
    (enterPausing c s).om.queues = s.om.queues ∧
    (enterPausing c s).om.seq = s.om.seq ∧
    (enterPausing c s).rc.mask = s.rc.mask ∧
    (enterPausing c s).rc.hot = s.rc.hot ∧
    (enterPausing c s).rc.firstCal = s.rc.firstCal ∧
    (enterPausing c s).rc.binWait = s.rc.binWait ∧
    (enterPausing c s).ee.hot = s.ee.hot ∧
    (enterPausing c s).ee.sample = s.ee.sample ∧
    (enterPausing c s).ee.sampleAt = s.ee.sampleAt ∧
    (enterPausing c s).ee.maskInForce = s.ee.maskInForce ∧
    (enterPausing c s).ca.bal = s.ca.bal ∧
    (enterPausing c s).ca.thetaCal = s.ca.thetaCal ∧
    (enterPausing c s).ca.invalid = s.ca.invalid ∧
    (enterPausing c s).wt.x = s.wt.x ∧
    (enterPausing c s).wt.y = s.wt.y ∧
    (enterPausing c s).wt.paperUsed = s.wt.paperUsed ∧
    (enterPausing c s).wt.waste = s.wt.waste ∧
    (enterPausing c s).wt.paperEnd = s.wt.paperEnd ∧
    (enterPausing c s).ct.misses = s.ct.misses ∧
    (enterPausing c s).pu.counter = s.pu.counter ∧
    (enterPausing c s).conf = s.conf ∧
    (enterPausing c s).pins = s.pins ∧
    (enterPausing c s).pending = s.pending := by
  unfold enterPausing
  dsimp only
  split <;> simp


@[simp] theorem requestPaperPause_frame (s : State) :
    (requestPaperPause s).cu.lineClock = s.cu.lineClock ∧
    (requestPaperPause s).cu.enables = s.cu.enables ∧
    (requestPaperPause s).cu.job = s.cu.job ∧
    (requestPaperPause s).cu.attnPending = s.cu.attnPending ∧
    (requestPaperPause s).om.deferred = s.om.deferred ∧
    (requestPaperPause s).om.queues = s.om.queues ∧
    (requestPaperPause s).om.seq = s.om.seq ∧
    (requestPaperPause s).rc.mask = s.rc.mask ∧
    (requestPaperPause s).rc.hot = s.rc.hot ∧
    (requestPaperPause s).rc.firstCal = s.rc.firstCal ∧
    (requestPaperPause s).rc.binWait = s.rc.binWait ∧
    (requestPaperPause s).ee.hot = s.ee.hot ∧
    (requestPaperPause s).ee.sample = s.ee.sample ∧
    (requestPaperPause s).ee.sampleAt = s.ee.sampleAt ∧
    (requestPaperPause s).ee.maskInForce = s.ee.maskInForce ∧
    (requestPaperPause s).ca.bal = s.ca.bal ∧
    (requestPaperPause s).ca.thetaCal = s.ca.thetaCal ∧
    (requestPaperPause s).ca.invalid = s.ca.invalid ∧
    (requestPaperPause s).wt.x = s.wt.x ∧
    (requestPaperPause s).wt.y = s.wt.y ∧
    (requestPaperPause s).wt.paperUsed = s.wt.paperUsed ∧
    (requestPaperPause s).wt.waste = s.wt.waste ∧
    (requestPaperPause s).wt.paperEnd = s.wt.paperEnd ∧
    (requestPaperPause s).ct.misses = s.ct.misses ∧
    (requestPaperPause s).pu.counter = s.pu.counter ∧
    (requestPaperPause s).conf = s.conf ∧
    (requestPaperPause s).pins = s.pins ∧
    (requestPaperPause s).pending = s.pending := by
  unfold requestPaperPause
  (repeat' split) <;> simp


@[simp] theorem judgePaperRequest_frame (s : State) :
    (judgePaperRequest s).cu.lineClock = s.cu.lineClock ∧
    (judgePaperRequest s).cu.enables = s.cu.enables ∧
    (judgePaperRequest s).cu.job = s.cu.job ∧
    (judgePaperRequest s).cu.attnPending = s.cu.attnPending ∧
    (judgePaperRequest s).om.deferred = s.om.deferred ∧
    (judgePaperRequest s).om.queues = s.om.queues ∧
    (judgePaperRequest s).om.seq = s.om.seq ∧
    (judgePaperRequest s).rc.mask = s.rc.mask ∧
    (judgePaperRequest s).rc.hot = s.rc.hot ∧
    (judgePaperRequest s).rc.firstCal = s.rc.firstCal ∧
    (judgePaperRequest s).rc.binWait = s.rc.binWait ∧
    (judgePaperRequest s).ee.hot = s.ee.hot ∧
    (judgePaperRequest s).ee.sample = s.ee.sample ∧
    (judgePaperRequest s).ee.sampleAt = s.ee.sampleAt ∧
    (judgePaperRequest s).ee.maskInForce = s.ee.maskInForce ∧
    (judgePaperRequest s).ca.bal = s.ca.bal ∧
    (judgePaperRequest s).ca.thetaCal = s.ca.thetaCal ∧
    (judgePaperRequest s).ca.invalid = s.ca.invalid ∧
    (judgePaperRequest s).wt.x = s.wt.x ∧
    (judgePaperRequest s).wt.y = s.wt.y ∧
    (judgePaperRequest s).wt.paperUsed = s.wt.paperUsed ∧
    (judgePaperRequest s).wt.waste = s.wt.waste ∧
    (judgePaperRequest s).wt.paperEnd = s.wt.paperEnd ∧
    (judgePaperRequest s).ct.misses = s.ct.misses ∧
    (judgePaperRequest s).pu.counter = s.pu.counter ∧
    (judgePaperRequest s).conf = s.conf ∧
    (judgePaperRequest s).pins = s.pins ∧
    (judgePaperRequest s).pending = s.pending := by
  unfold judgePaperRequest
  (repeat' split) <;> simp


@[simp] theorem chipClear_frame (s : State) :
    (chipClear s).pins = s.pins ∧
    (chipClear s).pending = s.pending ∧
    (chipClear s).store = s.store := by
  simp [chipClear]

@[simp] theorem settle_frame (s : State) :
    (settle s).cu.lineClock = s.cu.lineClock ∧
    (settle s).cu.enables = s.cu.enables ∧
    (settle s).cu.job = s.cu.job ∧
    (settle s).cu.attnPending = s.cu.attnPending ∧
    (settle s).rc.mask = s.rc.mask ∧
    (settle s).rc.hot = s.rc.hot ∧
    (settle s).rc.firstCal = s.rc.firstCal ∧
    (settle s).ee.expo = s.ee.expo ∧
    (settle s).ee.continuity = s.ee.continuity ∧
    (settle s).ee.hot = s.ee.hot ∧
    (settle s).ee.sample = s.ee.sample ∧
    (settle s).ee.sampleAt = s.ee.sampleAt ∧
    (settle s).ee.maskInForce = s.ee.maskInForce ∧
    (settle s).ee.drive = s.ee.drive ∧
    (settle s).ca = s.ca ∧
    (settle s).wt.x = s.wt.x ∧
    (settle s).wt.y = s.wt.y ∧
    (settle s).wt.paperUsed = s.wt.paperUsed ∧
    (settle s).wt.waste = s.wt.waste ∧
    (settle s).wt.paperEnd = s.wt.paperEnd ∧
    (settle s).ct = s.ct ∧
    (settle s).su.conveyor = s.su.conveyor ∧
    (settle s).su.awaiting = s.su.awaiting ∧
    (settle s).su.late = s.su.late ∧
    (settle s).pu.counter = s.pu.counter ∧
    (settle s).mc = s.mc ∧
    (settle s).conf = s.conf ∧
    (settle s).pins = s.pins ∧
    (settle s).pending = s.pending := by
  unfold settle
  dsimp only
  (repeat' split) <;> simp

@[simp] theorem writeControlBlocks_frame (s : State) :
    (writeControlBlocks s).cu = s.cu ∧
    (writeControlBlocks s).om = s.om ∧
    (writeControlBlocks s).rc = s.rc ∧
    (writeControlBlocks s).ee = s.ee ∧
    (writeControlBlocks s).ca = s.ca ∧
    (writeControlBlocks s).wt = s.wt ∧
    (writeControlBlocks s).ct = s.ct ∧
    (writeControlBlocks s).su = s.su ∧
    (writeControlBlocks s).pu = s.pu ∧
    (writeControlBlocks s).mc = s.mc ∧
    (writeControlBlocks s).conf = s.conf ∧
    (writeControlBlocks s).pins = s.pins ∧
    (writeControlBlocks s).pending = s.pending ∧
    (writeControlBlocks s).work = s.work := by
  unfold writeControlBlocks
  exact ⟨foldl_keeps (fun t : State => t.cu) _ (by intros; simp) _ _,
    foldl_keeps (fun t : State => t.om) _ (by intros; simp) _ _,
    foldl_keeps (fun t : State => t.rc) _ (by intros; simp) _ _,
    foldl_keeps (fun t : State => t.ee) _ (by intros; simp) _ _,
    foldl_keeps (fun t : State => t.ca) _ (by intros; simp) _ _,
    foldl_keeps (fun t : State => t.wt) _ (by intros; simp) _ _,
    foldl_keeps (fun t : State => t.ct) _ (by intros; simp) _ _,
    foldl_keeps (fun t : State => t.su) _ (by intros; simp) _ _,
    foldl_keeps (fun t : State => t.pu) _ (by intros; simp) _ _,
    foldl_keeps (fun t : State => t.mc) _ (by intros; simp) _ _,
    foldl_keeps (fun t : State => t.conf) _ (by intros; simp) _ _,
    foldl_keeps (fun t : State => t.pins) _ (by intros; simp) _ _,
    foldl_keeps (fun t : State => t.pending) _ (by intros; simp) _ _,
    foldl_keeps (fun t : State => t.work) _ (by intros; simp) _ _⟩

@[simp] theorem beginRun_frame (s : State) :
    (beginRun s).cu = s.cu ∧
    (beginRun s).om = s.om ∧
    (beginRun s).rc.slot = s.rc.slot ∧
    (beginRun s).rc.mask = s.rc.mask ∧
    (beginRun s).rc.remakes = s.rc.remakes ∧
    (beginRun s).rc.hot = s.rc.hot ∧
    (beginRun s).rc.binWait = s.rc.binWait ∧
    (beginRun s).ee.expo = s.ee.expo ∧
    (beginRun s).ee.buffers = s.ee.buffers ∧
    (beginRun s).ee.hot = s.ee.hot ∧
    (beginRun s).ee.sample = s.ee.sample ∧
    (beginRun s).ee.sampleAt = s.ee.sampleAt ∧
    (beginRun s).ee.maskInForce = s.ee.maskInForce ∧
    (beginRun s).ee.drive = s.ee.drive ∧
    (beginRun s).ca.bal = s.ca.bal ∧
    (beginRun s).ca.thetaCal = s.ca.thetaCal ∧
    (beginRun s).wt = s.wt ∧
    (beginRun s).ct = s.ct ∧
    (beginRun s).su = s.su ∧
    (beginRun s).pu = s.pu ∧
    (beginRun s).mc = s.mc ∧
    (beginRun s).conf = s.conf ∧
    (beginRun s).pins = s.pins ∧
    (beginRun s).pending = s.pending ∧
    (beginRun s).store = s.store ∧
    (beginRun s).work.status = s.work.status := by
  simp [beginRun]

@[simp] theorem composeNow_frame (s : State) :
    (composeNow s).cu.lineClock = s.cu.lineClock ∧
    (composeNow s).cu.enables = s.cu.enables ∧
    (composeNow s).cu.job = s.cu.job ∧
    (composeNow s).cu.attnPending = s.cu.attnPending ∧
    (composeNow s).rc.mask = s.rc.mask ∧
    (composeNow s).rc.hot = s.rc.hot ∧
    (composeNow s).rc.firstCal = s.rc.firstCal ∧
    (composeNow s).ee = s.ee ∧
    (composeNow s).ca = s.ca ∧
    (composeNow s).wt.x = s.wt.x ∧
    (composeNow s).wt.y = s.wt.y ∧
    (composeNow s).wt.paperUsed = s.wt.paperUsed ∧
    (composeNow s).wt.waste = s.wt.waste ∧
    (composeNow s).wt.paperEnd = s.wt.paperEnd ∧
    (composeNow s).ct = s.ct ∧
    (composeNow s).su.conveyor = s.su.conveyor ∧
    (composeNow s).su.awaiting = s.su.awaiting ∧
    (composeNow s).su.late = s.su.late ∧
    (composeNow s).pu.counter = s.pu.counter ∧
    (composeNow s).mc = s.mc ∧
    (composeNow s).conf = s.conf ∧
    (composeNow s).pins = s.pins ∧
    (composeNow s).pending = s.pending ∧
    (composeNow s).work.status = s.work.status := by
  simp [composeNow]

@[simp] theorem leaveFault_frame (s : State) :
    (leaveFault s).cu = s.cu ∧
    (leaveFault s).om = s.om ∧
    (leaveFault s).rc = s.rc ∧
    (leaveFault s).ee = s.ee ∧
    (leaveFault s).ca = s.ca ∧
    (leaveFault s).wt = s.wt ∧
    (leaveFault s).ct = s.ct ∧
    (leaveFault s).su.conveyor = s.su.conveyor ∧
    (leaveFault s).su.awaiting = s.su.awaiting ∧
    (leaveFault s).su.bins = s.su.bins ∧
    (leaveFault s).pu = s.pu ∧
    (leaveFault s).conf = s.conf ∧
    (leaveFault s).pins = s.pins ∧
    (leaveFault s).pending = s.pending ∧
    (leaveFault s).store = s.store := by
  unfold leaveFault
  dsimp only
  split <;> simp


@[simp] theorem withdrawDeferred_frame (d : Deferred) (s : State) :
    (withdrawDeferred d s).cu.lineClock = s.cu.lineClock ∧
    (withdrawDeferred d s).cu.enables = s.cu.enables ∧
    (withdrawDeferred d s).cu.job = s.cu.job ∧
    (withdrawDeferred d s).cu.attnPending = s.cu.attnPending ∧
    (withdrawDeferred d s).om.table = s.om.table ∧
    (withdrawDeferred d s).om.seq = s.om.seq ∧
    (withdrawDeferred d s).rc = s.rc ∧
    (withdrawDeferred d s).ee = s.ee ∧
    (withdrawDeferred d s).ca = s.ca ∧
    (withdrawDeferred d s).wt = s.wt ∧
    (withdrawDeferred d s).ct = s.ct ∧
    (withdrawDeferred d s).su = s.su ∧
    (withdrawDeferred d s).pu = s.pu ∧
    (withdrawDeferred d s).mc = s.mc ∧
    (withdrawDeferred d s).conf = s.conf ∧
    (withdrawDeferred d s).pins = s.pins ∧
    (withdrawDeferred d s).pending = s.pending ∧
    (withdrawDeferred d s).work.status = s.work.status := by
  simp [withdrawDeferred]

@[simp] theorem withdrawOpen_frame (i : Fin 8) (o : OpenOrder) (charge : Bool) (s : State) :
    (withdrawOpen i o charge s).cu.lineClock = s.cu.lineClock ∧
    (withdrawOpen i o charge s).cu.enables = s.cu.enables ∧
    (withdrawOpen i o charge s).cu.job = s.cu.job ∧
    (withdrawOpen i o charge s).cu.attnPending = s.cu.attnPending ∧
    (withdrawOpen i o charge s).om.deferred = s.om.deferred ∧
    (withdrawOpen i o charge s).om.queues = s.om.queues ∧
    (withdrawOpen i o charge s).om.seq = s.om.seq ∧
    (withdrawOpen i o charge s).rc.slot = s.rc.slot ∧
    (withdrawOpen i o charge s).rc.mask = s.rc.mask ∧
    (withdrawOpen i o charge s).rc.hot = s.rc.hot ∧
    (withdrawOpen i o charge s).rc.firstCal = s.rc.firstCal ∧
    (withdrawOpen i o charge s).rc.binWait = s.rc.binWait ∧
    (withdrawOpen i o charge s).ee = s.ee ∧
    (withdrawOpen i o charge s).ca = s.ca ∧
    (withdrawOpen i o charge s).wt.x = s.wt.x ∧
    (withdrawOpen i o charge s).wt.y = s.wt.y ∧
    (withdrawOpen i o charge s).wt.paperUsed = s.wt.paperUsed ∧
    (withdrawOpen i o charge s).wt.waste = s.wt.waste ∧
    (withdrawOpen i o charge s).wt.paperEnd = s.wt.paperEnd ∧
    (withdrawOpen i o charge s).ct = s.ct ∧
    (withdrawOpen i o charge s).su.conveyor = s.su.conveyor ∧
    (withdrawOpen i o charge s).su.awaiting = s.su.awaiting ∧
    (withdrawOpen i o charge s).su.late = s.su.late ∧
    (withdrawOpen i o charge s).pu.counter = s.pu.counter ∧
    (withdrawOpen i o charge s).mc = s.mc ∧
    (withdrawOpen i o charge s).conf = s.conf ∧
    (withdrawOpen i o charge s).pins = s.pins ∧
    (withdrawOpen i o charge s).pending = s.pending ∧
    (withdrawOpen i o charge s).work.status = s.work.status := by
  simp [withdrawOpen]

@[simp] theorem resetExposure_frame (s : State) :
    (resetExposure s).cu = s.cu ∧
    (resetExposure s).om = s.om ∧
    (resetExposure s).rc.slot = s.rc.slot ∧
    (resetExposure s).rc.remakes = s.rc.remakes ∧
    (resetExposure s).rc.firstCal = s.rc.firstCal ∧
    (resetExposure s).rc.binWait = s.rc.binWait ∧
    (resetExposure s).ee.expo = s.ee.expo ∧
    (resetExposure s).ee.continuity = s.ee.continuity ∧
    (resetExposure s).ee.sample = s.ee.sample ∧
    (resetExposure s).ee.sampleAt = s.ee.sampleAt ∧
    (resetExposure s).ee.maskInForce = s.ee.maskInForce ∧
    (resetExposure s).ee.drive = s.ee.drive ∧
    (resetExposure s).ca = s.ca ∧
    (resetExposure s).wt = s.wt ∧
    (resetExposure s).ct = s.ct ∧
    (resetExposure s).su = s.su ∧
    (resetExposure s).pu = s.pu ∧
    (resetExposure s).mc = s.mc ∧
    (resetExposure s).conf = s.conf ∧
    (resetExposure s).pins = s.pins ∧
    (resetExposure s).pending = s.pending ∧
    (resetExposure s).store = s.store ∧
    (resetExposure s).work = s.work := by
  simp [resetExposure]

@[simp] theorem resetCutter_frame (s : State) :
    (resetCutter s).cu = s.cu ∧
    (resetCutter s).om = s.om ∧
    (resetCutter s).rc = s.rc ∧
    (resetCutter s).ee = s.ee ∧
    (resetCutter s).ca = s.ca ∧
    (resetCutter s).wt = s.wt ∧
    (resetCutter s).su = s.su ∧
    (resetCutter s).pu = s.pu ∧
    (resetCutter s).mc = s.mc ∧
    (resetCutter s).conf = s.conf ∧
    (resetCutter s).pins = s.pins ∧
    (resetCutter s).pending = s.pending ∧
    (resetCutter s).store = s.store ∧
    (resetCutter s).work = s.work := by
  simp [resetCutter]

@[simp] theorem resetSorter_frame (s : State) :
    (resetSorter s).cu.lineClock = s.cu.lineClock ∧
    (resetSorter s).cu.enables = s.cu.enables ∧
    (resetSorter s).cu.job = s.cu.job ∧
    (resetSorter s).cu.attnPending = s.cu.attnPending ∧
    (resetSorter s).om.deferred = s.om.deferred ∧
    (resetSorter s).om.queues = s.om.queues ∧
    (resetSorter s).om.seq = s.om.seq ∧
    (resetSorter s).rc.slot = s.rc.slot ∧
    (resetSorter s).rc.mask = s.rc.mask ∧
    (resetSorter s).rc.hot = s.rc.hot ∧
    (resetSorter s).rc.firstCal = s.rc.firstCal ∧
    (resetSorter s).rc.binWait = s.rc.binWait ∧
    (resetSorter s).ee = s.ee ∧
    (resetSorter s).ca.bal = s.ca.bal ∧
    (resetSorter s).ca.thetaCal = s.ca.thetaCal ∧
    (resetSorter s).ca.invalid = s.ca.invalid ∧
    (resetSorter s).wt.x = s.wt.x ∧
    (resetSorter s).wt.y = s.wt.y ∧
    (resetSorter s).wt.paperUsed = s.wt.paperUsed ∧
    (resetSorter s).wt.waste = s.wt.waste ∧
    (resetSorter s).wt.paperEnd = s.wt.paperEnd ∧
    (resetSorter s).ct.misses = s.ct.misses ∧
    (resetSorter s).pu.counter = s.pu.counter ∧
    (resetSorter s).mc = s.mc ∧
    (resetSorter s).conf = s.conf ∧
    (resetSorter s).pins = s.pins ∧
    (resetSorter s).pending = s.pending ∧
    (resetSorter s).work.status = s.work.status := by
  simp [resetSorter]

@[simp] theorem complete_frame (code : Nat) (rc : ReplyCode) (data : Nat) (s : State) :
    (complete code rc data s).cu.lineClock = s.cu.lineClock ∧
    (complete code rc data s).cu.enables = s.cu.enables ∧
    (complete code rc data s).cu.attnPending = s.cu.attnPending ∧
    (complete code rc data s).cu.classes = s.cu.classes ∧
    (complete code rc data s).cu.irq = s.cu.irq ∧
    (complete code rc data s).om = s.om ∧
    (complete code rc data s).rc = s.rc ∧
    (complete code rc data s).ee = s.ee ∧
    (complete code rc data s).ca = s.ca ∧
    (complete code rc data s).wt = s.wt ∧
    (complete code rc data s).ct = s.ct ∧
    (complete code rc data s).su = s.su ∧
    (complete code rc data s).pu = s.pu ∧
    (complete code rc data s).mc = s.mc ∧
    (complete code rc data s).conf = s.conf ∧
    (complete code rc data s).pins = s.pins ∧
    (complete code rc data s).pending = s.pending ∧
    (complete code rc data s).work = s.work := by
  simp [complete]

@[simp] theorem postWord0_frame (c : Command) (s : State) :
    (postWord0 c s).cu = s.cu ∧
    (postWord0 c s).om = s.om ∧
    (postWord0 c s).rc = s.rc ∧
    (postWord0 c s).ee = s.ee ∧
    (postWord0 c s).ca = s.ca ∧
    (postWord0 c s).wt = s.wt ∧
    (postWord0 c s).ct = s.ct ∧
    (postWord0 c s).su = s.su ∧
    (postWord0 c s).pu = s.pu ∧
    (postWord0 c s).mc = s.mc ∧
    (postWord0 c s).conf = s.conf ∧
    (postWord0 c s).pins = s.pins ∧
    (postWord0 c s).pending = s.pending ∧
    (postWord0 c s).work = s.work := by
  simp [postWord0]

@[simp] theorem postWord1_frame (w : Word) (s : State) :
    (postWord1 w s).cu = s.cu ∧
    (postWord1 w s).om = s.om ∧
    (postWord1 w s).rc = s.rc ∧
    (postWord1 w s).ee = s.ee ∧
    (postWord1 w s).ca = s.ca ∧
    (postWord1 w s).wt = s.wt ∧
    (postWord1 w s).ct = s.ct ∧
    (postWord1 w s).su = s.su ∧
    (postWord1 w s).pu = s.pu ∧
    (postWord1 w s).mc = s.mc ∧
    (postWord1 w s).conf = s.conf ∧
    (postWord1 w s).pins = s.pins ∧
    (postWord1 w s).pending = s.pending ∧
    (postWord1 w s).work = s.work := by
  simp [postWord1]

@[simp] theorem postWord2_frame (w : Word) (s : State) :
    (postWord2 w s).cu = s.cu ∧
    (postWord2 w s).om = s.om ∧
    (postWord2 w s).rc = s.rc ∧
    (postWord2 w s).ee = s.ee ∧
    (postWord2 w s).ca = s.ca ∧
    (postWord2 w s).wt = s.wt ∧
    (postWord2 w s).ct = s.ct ∧
    (postWord2 w s).su = s.su ∧
    (postWord2 w s).pu = s.pu ∧
    (postWord2 w s).mc = s.mc ∧
    (postWord2 w s).conf = s.conf ∧
    (postWord2 w s).pins = s.pins ∧
    (postWord2 w s).pending = s.pending ∧
    (postWord2 w s).work = s.work := by
  simp [postWord2]

@[simp] theorem lineArrives_frame (lane : Lane) (r : LineRead) (s : State) :
    (lineArrives lane r s).cu = s.cu ∧
    (lineArrives lane r s).om = s.om ∧
    (lineArrives lane r s).rc = s.rc ∧
    (lineArrives lane r s).ee.expo = s.ee.expo ∧
    (lineArrives lane r s).ee.continuity = s.ee.continuity ∧
    (lineArrives lane r s).ee.hot = s.ee.hot ∧
    (lineArrives lane r s).ee.sample = s.ee.sample ∧
    (lineArrives lane r s).ee.sampleAt = s.ee.sampleAt ∧
    (lineArrives lane r s).ee.maskInForce = s.ee.maskInForce ∧
    (lineArrives lane r s).ee.drive = s.ee.drive ∧
    (lineArrives lane r s).ca = s.ca ∧
    (lineArrives lane r s).wt = s.wt ∧
    (lineArrives lane r s).ct = s.ct ∧
    (lineArrives lane r s).su = s.su ∧
    (lineArrives lane r s).pu = s.pu ∧
    (lineArrives lane r s).mc = s.mc ∧
    (lineArrives lane r s).conf = s.conf ∧
    (lineArrives lane r s).pins = s.pins ∧
    (lineArrives lane r s).pending = s.pending ∧
    (lineArrives lane r s).store = s.store ∧
    (lineArrives lane r s).work = s.work := by
  simp [lineArrives]

@[simp] theorem beginLeadIn_frame (s : State) :
    (beginLeadIn s).cu.lineClock = s.cu.lineClock ∧
    (beginLeadIn s).cu.enables = s.cu.enables ∧
    (beginLeadIn s).cu.job = s.cu.job ∧
    (beginLeadIn s).cu.attnPending = s.cu.attnPending ∧
    (beginLeadIn s).om.deferred = s.om.deferred ∧
    (beginLeadIn s).om.queues = s.om.queues ∧
    (beginLeadIn s).om.seq = s.om.seq ∧
    (beginLeadIn s).rc.slot = s.rc.slot ∧
    (beginLeadIn s).rc.mask = s.rc.mask ∧
    (beginLeadIn s).rc.hot = s.rc.hot ∧
    (beginLeadIn s).rc.firstCal = s.rc.firstCal ∧
    (beginLeadIn s).rc.binWait = s.rc.binWait ∧
    (beginLeadIn s).ee.buffers = s.ee.buffers ∧
    (beginLeadIn s).ee.continuity = s.ee.continuity ∧
    (beginLeadIn s).ee.hot = s.ee.hot ∧
    (beginLeadIn s).ee.sample = s.ee.sample ∧
    (beginLeadIn s).ee.sampleAt = s.ee.sampleAt ∧
    (beginLeadIn s).ee.maskInForce = s.ee.maskInForce ∧
    (beginLeadIn s).ee.drive = s.ee.drive ∧
    (beginLeadIn s).ca.bal = s.ca.bal ∧
    (beginLeadIn s).ca.thetaCal = s.ca.thetaCal ∧
    (beginLeadIn s).wt.x = s.wt.x ∧
    (beginLeadIn s).wt.y = s.wt.y ∧
    (beginLeadIn s).wt.paperUsed = s.wt.paperUsed ∧
    (beginLeadIn s).wt.waste = s.wt.waste ∧
    (beginLeadIn s).wt.paperEnd = s.wt.paperEnd ∧
    (beginLeadIn s).ct.misses = s.ct.misses ∧
    (beginLeadIn s).su.late = s.su.late ∧
    (beginLeadIn s).pu.counter = s.pu.counter ∧
    (beginLeadIn s).mc = s.mc ∧
    (beginLeadIn s).conf = s.conf ∧
    (beginLeadIn s).pins = s.pins ∧
    (beginLeadIn s).pending = s.pending := by
  unfold beginLeadIn
  split <;> simp

@[simp] theorem endLeadIn_frame (s : State) :
    (endLeadIn s).cu.lineClock = s.cu.lineClock ∧
    (endLeadIn s).cu.enables = s.cu.enables ∧
    (endLeadIn s).cu.job = s.cu.job ∧
    (endLeadIn s).cu.attnPending = s.cu.attnPending ∧
    (endLeadIn s).om.deferred = s.om.deferred ∧
    (endLeadIn s).om.queues = s.om.queues ∧
    (endLeadIn s).om.seq = s.om.seq ∧
    (endLeadIn s).rc.mask = s.rc.mask ∧
    (endLeadIn s).rc.hot = s.rc.hot ∧
    (endLeadIn s).rc.firstCal = s.rc.firstCal ∧
    (endLeadIn s).rc.binWait = s.rc.binWait ∧
    (endLeadIn s).ee.hot = s.ee.hot ∧
    (endLeadIn s).ee.sample = s.ee.sample ∧
    (endLeadIn s).ee.sampleAt = s.ee.sampleAt ∧
    (endLeadIn s).ee.maskInForce = s.ee.maskInForce ∧
    (endLeadIn s).ca.bal = s.ca.bal ∧
    (endLeadIn s).ca.thetaCal = s.ca.thetaCal ∧
    (endLeadIn s).wt.x = s.wt.x ∧
    (endLeadIn s).wt.y = s.wt.y ∧
    (endLeadIn s).wt.paperUsed = s.wt.paperUsed ∧
    (endLeadIn s).wt.waste = s.wt.waste ∧
    (endLeadIn s).wt.paperEnd = s.wt.paperEnd ∧
    (endLeadIn s).ct.misses = s.ct.misses ∧
    (endLeadIn s).pu.counter = s.pu.counter ∧
    (endLeadIn s).conf = s.conf ∧
    (endLeadIn s).pins = s.pins ∧
    (endLeadIn s).pending = s.pending := by
  unfold endLeadIn
  dsimp only
  (repeat' split) <;> simp


@[simp] theorem startRow_frame (s : State) :
    (startRow s).cu.lineClock = s.cu.lineClock ∧
    (startRow s).cu.enables = s.cu.enables ∧
    (startRow s).cu.job = s.cu.job ∧
    (startRow s).cu.attnPending = s.cu.attnPending ∧
    (startRow s).om.deferred = s.om.deferred ∧
    (startRow s).om.queues = s.om.queues ∧
    (startRow s).om.seq = s.om.seq ∧
    (startRow s).rc.mask = s.rc.mask ∧
    (startRow s).rc.hot = s.rc.hot ∧
    (startRow s).rc.firstCal = s.rc.firstCal ∧
    (startRow s).rc.binWait = s.rc.binWait ∧
    (startRow s).ee.continuity = s.ee.continuity ∧
    (startRow s).ee.hot = s.ee.hot ∧
    (startRow s).ee.sample = s.ee.sample ∧
    (startRow s).ee.sampleAt = s.ee.sampleAt ∧
    (startRow s).ee.drive = s.ee.drive ∧
    (startRow s).ca.bal = s.ca.bal ∧
    (startRow s).ca.thetaCal = s.ca.thetaCal ∧
    (startRow s).wt.x = s.wt.x ∧
    (startRow s).wt.y = s.wt.y ∧
    (startRow s).wt.paperUsed = s.wt.paperUsed ∧
    (startRow s).wt.waste = s.wt.waste ∧
    (startRow s).wt.paperEnd = s.wt.paperEnd ∧
    (startRow s).ct.misses = s.ct.misses ∧
    (startRow s).su.late = s.su.late ∧
    (startRow s).pu.counter = s.pu.counter ∧
    (startRow s).mc = s.mc ∧
    (startRow s).conf = s.conf ∧
    (startRow s).pins = s.pins ∧
    (startRow s).pending = s.pending := by
  unfold startRow
  split <;> simp

@[simp] theorem feedStep_frame (s : State) :
    (feedStep s).cu = s.cu ∧
    (feedStep s).om = s.om ∧
    (feedStep s).rc = s.rc ∧
    (feedStep s).ee.continuity = s.ee.continuity ∧
    (feedStep s).ee.hot = s.ee.hot ∧
    (feedStep s).ee.sample = s.ee.sample ∧
    (feedStep s).ee.sampleAt = s.ee.sampleAt ∧
    (feedStep s).ee.maskInForce = s.ee.maskInForce ∧
    (feedStep s).ca = s.ca ∧
    (feedStep s).wt.y = s.wt.y ∧
    (feedStep s).wt.paperEnd = s.wt.paperEnd ∧
    (feedStep s).ct = s.ct ∧
    (feedStep s).su = s.su ∧
    (feedStep s).pu = s.pu ∧
    (feedStep s).mc = s.mc ∧
    (feedStep s).conf = s.conf ∧
    (feedStep s).pins = s.pins ∧
    (feedStep s).pending = s.pending ∧
    (feedStep s).store = s.store ∧
    (feedStep s).work = s.work := by
  unfold feedStep
  split <;> simp

@[simp] theorem passRow_frame (r : ExposingRow) (s : State) :
    (passRow r s).cu.lineClock = s.cu.lineClock ∧
    (passRow r s).cu.enables = s.cu.enables ∧
    (passRow r s).cu.job = s.cu.job ∧
    (passRow r s).cu.attnPending = s.cu.attnPending ∧
    (passRow r s).om.deferred = s.om.deferred ∧
    (passRow r s).om.queues = s.om.queues ∧
    (passRow r s).om.seq = s.om.seq ∧
    (passRow r s).rc.mask = s.rc.mask ∧
    (passRow r s).rc.hot = s.rc.hot ∧
    (passRow r s).rc.firstCal = s.rc.firstCal ∧
    (passRow r s).rc.binWait = s.rc.binWait ∧
    (passRow r s).ee.hot = s.ee.hot ∧
    (passRow r s).ee.sample = s.ee.sample ∧
    (passRow r s).ee.sampleAt = s.ee.sampleAt ∧
    (passRow r s).ee.maskInForce = s.ee.maskInForce ∧
    (passRow r s).ca.bal = s.ca.bal ∧
    (passRow r s).ca.thetaCal = s.ca.thetaCal ∧
    (passRow r s).wt.x = s.wt.x ∧
    (passRow r s).wt.y = s.wt.y ∧
    (passRow r s).wt.paperUsed = s.wt.paperUsed ∧
    (passRow r s).wt.waste = s.wt.waste ∧
    (passRow r s).wt.paperEnd = s.wt.paperEnd ∧
    (passRow r s).ct.misses = s.ct.misses ∧
    (passRow r s).pu.counter = s.pu.counter ∧
    (passRow r s).conf = s.conf ∧
    (passRow r s).pins = s.pins ∧
    (passRow r s).pending = s.pending := by
  simp [passRow]


@[simp] theorem setHot_frame (v : Bool) (s : State) :
    (setHot v s).cu = s.cu ∧
    (setHot v s).om = s.om ∧
    (setHot v s).rc.slot = s.rc.slot ∧
    (setHot v s).rc.mask = s.rc.mask ∧
    (setHot v s).rc.remakes = s.rc.remakes ∧
    (setHot v s).rc.firstCal = s.rc.firstCal ∧
    (setHot v s).rc.binWait = s.rc.binWait ∧
    (setHot v s).ee.expo = s.ee.expo ∧
    (setHot v s).ee.buffers = s.ee.buffers ∧
    (setHot v s).ee.continuity = s.ee.continuity ∧
    (setHot v s).ee.sample = s.ee.sample ∧
    (setHot v s).ee.sampleAt = s.ee.sampleAt ∧
    (setHot v s).ee.maskInForce = s.ee.maskInForce ∧
    (setHot v s).ee.drive = s.ee.drive ∧
    (setHot v s).ca = s.ca ∧
    (setHot v s).wt = s.wt ∧
    (setHot v s).ct = s.ct ∧
    (setHot v s).su = s.su ∧
    (setHot v s).pu = s.pu ∧
    (setHot v s).mc = s.mc ∧
    (setHot v s).conf = s.conf ∧
    (setHot v s).pins = s.pins ∧
    (setHot v s).pending = s.pending ∧
    (setHot v s).store = s.store ∧
    (setHot v s).work = s.work := by
  simp [setHot]

@[simp] theorem judgeSample_frame (q : Nat) (s : State) :
    (judgeSample q s).cu.lineClock = s.cu.lineClock ∧
    (judgeSample q s).cu.enables = s.cu.enables ∧
    (judgeSample q s).cu.job = s.cu.job ∧
    (judgeSample q s).cu.attnPending = s.cu.attnPending ∧
    (judgeSample q s).om = s.om ∧
    (judgeSample q s).rc.slot = s.rc.slot ∧
    (judgeSample q s).rc.mask = s.rc.mask ∧
    (judgeSample q s).rc.remakes = s.rc.remakes ∧
    (judgeSample q s).rc.firstCal = s.rc.firstCal ∧
    (judgeSample q s).rc.binWait = s.rc.binWait ∧
    (judgeSample q s).ee.expo = s.ee.expo ∧
    (judgeSample q s).ee.buffers = s.ee.buffers ∧
    (judgeSample q s).ee.continuity = s.ee.continuity ∧
    (judgeSample q s).ee.sample = s.ee.sample ∧
    (judgeSample q s).ee.sampleAt = s.ee.sampleAt ∧
    (judgeSample q s).ee.maskInForce = s.ee.maskInForce ∧
    (judgeSample q s).ee.drive = s.ee.drive ∧
    (judgeSample q s).ca = s.ca ∧
    (judgeSample q s).wt = s.wt ∧
    (judgeSample q s).ct = s.ct ∧
    (judgeSample q s).su = s.su ∧
    (judgeSample q s).pu = s.pu ∧
    (judgeSample q s).mc = s.mc ∧
    (judgeSample q s).conf = s.conf ∧
    (judgeSample q s).pins = s.pins ∧
    (judgeSample q s).pending = s.pending ∧
    (judgeSample q s).work.status = s.work.status := by
  unfold judgeSample
  (repeat' split) <;> simp

@[simp] theorem takeSample_frame (q : Nat) (s : State) :
    (takeSample q s).cu.lineClock = s.cu.lineClock ∧
    (takeSample q s).cu.enables = s.cu.enables ∧
    (takeSample q s).cu.job = s.cu.job ∧
    (takeSample q s).cu.attnPending = s.cu.attnPending ∧
    (takeSample q s).om = s.om ∧
    (takeSample q s).rc.slot = s.rc.slot ∧
    (takeSample q s).rc.mask = s.rc.mask ∧
    (takeSample q s).rc.remakes = s.rc.remakes ∧
    (takeSample q s).rc.firstCal = s.rc.firstCal ∧
    (takeSample q s).rc.binWait = s.rc.binWait ∧
    (takeSample q s).ee.expo = s.ee.expo ∧
    (takeSample q s).ee.buffers = s.ee.buffers ∧
    (takeSample q s).ee.continuity = s.ee.continuity ∧
    (takeSample q s).ee.maskInForce = s.ee.maskInForce ∧
    (takeSample q s).ee.drive = s.ee.drive ∧
    (takeSample q s).ca = s.ca ∧
    (takeSample q s).wt = s.wt ∧
    (takeSample q s).ct = s.ct ∧
    (takeSample q s).su = s.su ∧
    (takeSample q s).pu = s.pu ∧
    (takeSample q s).mc = s.mc ∧
    (takeSample q s).conf = s.conf ∧
    (takeSample q s).pins = s.pins ∧
    (takeSample q s).pending = s.pending ∧
    (takeSample q s).work.status = s.work.status := by
  simp [takeSample]

@[simp] theorem enterDrum_frame (s : State) :
    (enterDrum s).cu = s.cu ∧
    (enterDrum s).om = s.om ∧
    (enterDrum s).rc = s.rc ∧
    (enterDrum s).ee = s.ee ∧
    (enterDrum s).ca = s.ca ∧
    (enterDrum s).wt.x = s.wt.x ∧
    (enterDrum s).wt.y = s.wt.y ∧
    (enterDrum s).wt.paperUsed = s.wt.paperUsed ∧
    (enterDrum s).wt.waste = s.wt.waste ∧
    (enterDrum s).wt.paperEnd = s.wt.paperEnd ∧
    (enterDrum s).ct = s.ct ∧
    (enterDrum s).su = s.su ∧
    (enterDrum s).pu = s.pu ∧
    (enterDrum s).mc = s.mc ∧
    (enterDrum s).conf = s.conf ∧
    (enterDrum s).pins = s.pins ∧
    (enterDrum s).pending = s.pending ∧
    (enterDrum s).store = s.store ∧
    (enterDrum s).work = s.work := by
  simp [enterDrum]

@[simp] theorem advanceY_frame (s : State) :
    (advanceY s).cu = s.cu ∧
    (advanceY s).om = s.om ∧
    (advanceY s).rc = s.rc ∧
    (advanceY s).ee = s.ee ∧
    (advanceY s).ca = s.ca ∧
    (advanceY s).wt.x = s.wt.x ∧
    (advanceY s).wt.paperUsed = s.wt.paperUsed ∧
    (advanceY s).wt.waste = s.wt.waste ∧
    (advanceY s).wt.paperEnd = s.wt.paperEnd ∧
    (advanceY s).ct = s.ct ∧
    (advanceY s).su = s.su ∧
    (advanceY s).pu = s.pu ∧
    (advanceY s).mc = s.mc ∧
    (advanceY s).conf = s.conf ∧
    (advanceY s).pins = s.pins ∧
    (advanceY s).pending = s.pending ∧
    (advanceY s).store = s.store ∧
    (advanceY s).work = s.work := by
  unfold advanceY
  split <;> simp

@[simp] theorem endFirstCal_frame (s : State) :
    (endFirstCal s).cu = s.cu ∧
    (endFirstCal s).om = s.om ∧
    (endFirstCal s).rc.slot = s.rc.slot ∧
    (endFirstCal s).rc.mask = s.rc.mask ∧
    (endFirstCal s).rc.remakes = s.rc.remakes ∧
    (endFirstCal s).rc.hot = s.rc.hot ∧
    (endFirstCal s).rc.binWait = s.rc.binWait ∧
    (endFirstCal s).ee = s.ee ∧
    (endFirstCal s).ca = s.ca ∧
    (endFirstCal s).wt = s.wt ∧
    (endFirstCal s).ct = s.ct ∧
    (endFirstCal s).su = s.su ∧
    (endFirstCal s).pu = s.pu ∧
    (endFirstCal s).mc = s.mc ∧
    (endFirstCal s).conf = s.conf ∧
    (endFirstCal s).pins = s.pins ∧
    (endFirstCal s).pending = s.pending ∧
    (endFirstCal s).store = s.store ∧
    (endFirstCal s).work.status = s.work.status := by
  unfold endFirstCal
  split <;> simp

@[simp] theorem applyReading_frame (p : Patch) (m : PerChan Nat) (s : State) :
    (applyReading p m s).cu = s.cu ∧
    (applyReading p m s).om = s.om ∧
    (applyReading p m s).rc.slot = s.rc.slot ∧
    (applyReading p m s).rc.mask = s.rc.mask ∧
    (applyReading p m s).rc.remakes = s.rc.remakes ∧
    (applyReading p m s).rc.hot = s.rc.hot ∧
    (applyReading p m s).rc.binWait = s.rc.binWait ∧
    (applyReading p m s).ee = s.ee ∧
    (applyReading p m s).wt = s.wt ∧
    (applyReading p m s).ct = s.ct ∧
    (applyReading p m s).su = s.su ∧
    (applyReading p m s).pu = s.pu ∧
    (applyReading p m s).mc = s.mc ∧
    (applyReading p m s).conf = s.conf ∧
    (applyReading p m s).pins = s.pins ∧
    (applyReading p m s).pending = s.pending ∧
    (applyReading p m s).store = s.store ∧
    (applyReading p m s).work.status = s.work.status := by
  simp [applyReading]

@[simp] theorem failReading_frame (p : Patch) (s : State) :
    (failReading p s).cu.lineClock = s.cu.lineClock ∧
    (failReading p s).cu.enables = s.cu.enables ∧
    (failReading p s).cu.job = s.cu.job ∧
    (failReading p s).cu.attnPending = s.cu.attnPending ∧
    (failReading p s).om = s.om ∧
    (failReading p s).rc.slot = s.rc.slot ∧
    (failReading p s).rc.mask = s.rc.mask ∧
    (failReading p s).rc.remakes = s.rc.remakes ∧
    (failReading p s).rc.hot = s.rc.hot ∧
    (failReading p s).rc.binWait = s.rc.binWait ∧
    (failReading p s).ee = s.ee ∧
    (failReading p s).ca.bal = s.ca.bal ∧
    (failReading p s).wt = s.wt ∧
    (failReading p s).ct = s.ct ∧
    (failReading p s).su = s.su ∧
    (failReading p s).pu = s.pu ∧
    (failReading p s).mc = s.mc ∧
    (failReading p s).conf = s.conf ∧
    (failReading p s).pins = s.pins ∧
    (failReading p s).pending = s.pending ∧
    (failReading p s).work.status = s.work.status := by
  unfold failReading
  split <;> simp

@[simp] theorem judgeReading_frame (p : Patch) (m : PerChan Nat) (s : State) :
    (judgeReading p m s).cu.lineClock = s.cu.lineClock ∧
    (judgeReading p m s).cu.enables = s.cu.enables ∧
    (judgeReading p m s).cu.job = s.cu.job ∧
    (judgeReading p m s).cu.attnPending = s.cu.attnPending ∧
    (judgeReading p m s).om = s.om ∧
    (judgeReading p m s).rc.slot = s.rc.slot ∧
    (judgeReading p m s).rc.mask = s.rc.mask ∧
    (judgeReading p m s).rc.remakes = s.rc.remakes ∧
    (judgeReading p m s).rc.hot = s.rc.hot ∧
    (judgeReading p m s).rc.binWait = s.rc.binWait ∧
    (judgeReading p m s).ee = s.ee ∧
    (judgeReading p m s).wt = s.wt ∧
    (judgeReading p m s).ct = s.ct ∧
    (judgeReading p m s).su = s.su ∧
    (judgeReading p m s).pu = s.pu ∧
    (judgeReading p m s).mc = s.mc ∧
    (judgeReading p m s).conf = s.conf ∧
    (judgeReading p m s).pins = s.pins ∧
    (judgeReading p m s).pending = s.pending ∧
    (judgeReading p m s).work.status = s.work.status := by
  unfold judgeReading
  split <;> simp

@[simp] theorem setBoundary_frame (i : Nat) (b : Boundary) (s : State) :
    (setBoundary i b s).cu = s.cu ∧
    (setBoundary i b s).om = s.om ∧
    (setBoundary i b s).rc = s.rc ∧
    (setBoundary i b s).ee = s.ee ∧
    (setBoundary i b s).ca = s.ca ∧
    (setBoundary i b s).wt = s.wt ∧
    (setBoundary i b s).ct.misses = s.ct.misses ∧
    (setBoundary i b s).su = s.su ∧
    (setBoundary i b s).pu = s.pu ∧
    (setBoundary i b s).mc = s.mc ∧
    (setBoundary i b s).conf = s.conf ∧
    (setBoundary i b s).pins = s.pins ∧
    (setBoundary i b s).pending = s.pending ∧
    (setBoundary i b s).store = s.store ∧
    (setBoundary i b s).work = s.work := by
  simp [setBoundary]

@[simp] theorem seeMark_frame (i : Nat) (b : Boundary) (yObs : Word) (s : State) :
    (seeMark i b yObs s).cu = s.cu ∧
    (seeMark i b yObs s).om = s.om ∧
    (seeMark i b yObs s).rc = s.rc ∧
    (seeMark i b yObs s).ee = s.ee ∧
    (seeMark i b yObs s).ca = s.ca ∧
    (seeMark i b yObs s).wt = s.wt ∧
    (seeMark i b yObs s).su = s.su ∧
    (seeMark i b yObs s).pu = s.pu ∧
    (seeMark i b yObs s).mc = s.mc ∧
    (seeMark i b yObs s).conf = s.conf ∧
    (seeMark i b yObs s).pins = s.pins ∧
    (seeMark i b yObs s).pending = s.pending ∧
    (seeMark i b yObs s).store = s.store ∧
    (seeMark i b yObs s).work = s.work := by
  simp [seeMark]

@[simp] theorem flagMarkMissed_frame (rowAfter : Option Word) (s : State) :
    (flagMarkMissed rowAfter s).cu = s.cu ∧
    (flagMarkMissed rowAfter s).om = s.om ∧
    (flagMarkMissed rowAfter s).rc = s.rc ∧
    (flagMarkMissed rowAfter s).ee = s.ee ∧
    (flagMarkMissed rowAfter s).ca = s.ca ∧
    (flagMarkMissed rowAfter s).wt.x = s.wt.x ∧
    (flagMarkMissed rowAfter s).wt.y = s.wt.y ∧
    (flagMarkMissed rowAfter s).wt.paperUsed = s.wt.paperUsed ∧
    (flagMarkMissed rowAfter s).wt.waste = s.wt.waste ∧
    (flagMarkMissed rowAfter s).wt.paperEnd = s.wt.paperEnd ∧
    (flagMarkMissed rowAfter s).ct = s.ct ∧
    (flagMarkMissed rowAfter s).su = s.su ∧
    (flagMarkMissed rowAfter s).pu = s.pu ∧
    (flagMarkMissed rowAfter s).mc = s.mc ∧
    (flagMarkMissed rowAfter s).conf = s.conf ∧
    (flagMarkMissed rowAfter s).pins = s.pins ∧
    (flagMarkMissed rowAfter s).pending = s.pending ∧
    (flagMarkMissed rowAfter s).store = s.store ∧
    (flagMarkMissed rowAfter s).work = s.work := by
  simp [flagMarkMissed]

@[simp] theorem missMark_frame (i : Nat) (b : Boundary) (s : State) :
    (missMark i b s).cu.lineClock = s.cu.lineClock ∧
    (missMark i b s).cu.enables = s.cu.enables ∧
    (missMark i b s).cu.job = s.cu.job ∧
    (missMark i b s).cu.attnPending = s.cu.attnPending ∧
    (missMark i b s).om.deferred = s.om.deferred ∧
    (missMark i b s).om.queues = s.om.queues ∧
    (missMark i b s).om.seq = s.om.seq ∧
    (missMark i b s).rc.mask = s.rc.mask ∧
    (missMark i b s).rc.hot = s.rc.hot ∧
    (missMark i b s).rc.firstCal = s.rc.firstCal ∧
    (missMark i b s).rc.binWait = s.rc.binWait ∧
    (missMark i b s).ee.hot = s.ee.hot ∧
    (missMark i b s).ee.sample = s.ee.sample ∧
    (missMark i b s).ee.sampleAt = s.ee.sampleAt ∧
    (missMark i b s).ee.maskInForce = s.ee.maskInForce ∧
    (missMark i b s).ca.bal = s.ca.bal ∧
    (missMark i b s).ca.thetaCal = s.ca.thetaCal ∧
    (missMark i b s).ca.invalid = s.ca.invalid ∧
    (missMark i b s).wt.x = s.wt.x ∧
    (missMark i b s).wt.y = s.wt.y ∧
    (missMark i b s).wt.paperUsed = s.wt.paperUsed ∧
    (missMark i b s).wt.waste = s.wt.waste ∧
    (missMark i b s).wt.paperEnd = s.wt.paperEnd ∧
    (missMark i b s).pu.counter = s.pu.counter ∧
    (missMark i b s).conf = s.conf ∧
    (missMark i b s).pins = s.pins ∧
    (missMark i b s).pending = s.pending := by
  unfold missMark
  dsimp only
  split <;> simp

@[simp] theorem cutEntry_frame (s : State) (e : Entry) :
    (cutEntry s e).cu.lineClock = s.cu.lineClock ∧
    (cutEntry s e).cu.enables = s.cu.enables ∧
    (cutEntry s e).cu.job = s.cu.job ∧
    (cutEntry s e).cu.attnPending = s.cu.attnPending ∧
    (cutEntry s e).om.deferred = s.om.deferred ∧
    (cutEntry s e).om.queues = s.om.queues ∧
    (cutEntry s e).om.seq = s.om.seq ∧
    (cutEntry s e).rc = s.rc ∧
    (cutEntry s e).ee = s.ee ∧
    (cutEntry s e).ca = s.ca ∧
    (cutEntry s e).wt.x = s.wt.x ∧
    (cutEntry s e).wt.y = s.wt.y ∧
    (cutEntry s e).wt.paperUsed = s.wt.paperUsed ∧
    (cutEntry s e).wt.waste = s.wt.waste ∧
    (cutEntry s e).wt.paperEnd = s.wt.paperEnd ∧
    (cutEntry s e).ct.misses = s.ct.misses ∧
    (cutEntry s e).su.late = s.su.late ∧
    (cutEntry s e).pu.counter = s.pu.counter ∧
    (cutEntry s e).mc = s.mc ∧
    (cutEntry s e).conf = s.conf ∧
    (cutEntry s e).pins = s.pins ∧
    (cutEntry s e).pending = s.pending ∧
    (cutEntry s e).work.status = s.work.status := by
  unfold cutEntry
  split <;> simp

@[simp] theorem cutEach_frame (l : List Entry) (s : State) :
    (l.foldl cutEntry s).cu.lineClock = s.cu.lineClock ∧
    (l.foldl cutEntry s).cu.enables = s.cu.enables ∧
    (l.foldl cutEntry s).cu.job = s.cu.job ∧
    (l.foldl cutEntry s).cu.attnPending = s.cu.attnPending ∧
    (l.foldl cutEntry s).om.deferred = s.om.deferred ∧
    (l.foldl cutEntry s).om.queues = s.om.queues ∧
    (l.foldl cutEntry s).om.seq = s.om.seq ∧
    (l.foldl cutEntry s).rc = s.rc ∧
    (l.foldl cutEntry s).ee = s.ee ∧
    (l.foldl cutEntry s).ca = s.ca ∧
    (l.foldl cutEntry s).wt.x = s.wt.x ∧
    (l.foldl cutEntry s).wt.y = s.wt.y ∧
    (l.foldl cutEntry s).wt.paperUsed = s.wt.paperUsed ∧
    (l.foldl cutEntry s).wt.waste = s.wt.waste ∧
    (l.foldl cutEntry s).wt.paperEnd = s.wt.paperEnd ∧
    (l.foldl cutEntry s).ct.misses = s.ct.misses ∧
    (l.foldl cutEntry s).su.late = s.su.late ∧
    (l.foldl cutEntry s).pu.counter = s.pu.counter ∧
    (l.foldl cutEntry s).mc = s.mc ∧
    (l.foldl cutEntry s).conf = s.conf ∧
    (l.foldl cutEntry s).pins = s.pins ∧
    (l.foldl cutEntry s).pending = s.pending ∧
    (l.foldl cutEntry s).work.status = s.work.status :=
  ⟨foldl_keeps (fun t : State => t.cu.lineClock) _ (by intros; simp) _ _,
    foldl_keeps (fun t : State => t.cu.enables) _ (by intros; simp) _ _,
    foldl_keeps (fun t : State => t.cu.job) _ (by intros; simp) _ _,
    foldl_keeps (fun t : State => t.cu.attnPending) _ (by intros; simp) _ _,
    foldl_keeps (fun t : State => t.om.deferred) _ (by intros; simp) _ _,
    foldl_keeps (fun t : State => t.om.queues) _ (by intros; simp) _ _,
    foldl_keeps (fun t : State => t.om.seq) _ (by intros; simp) _ _,
    foldl_keeps (fun t : State => t.rc) _ (by intros; simp) _ _,
    foldl_keeps (fun t : State => t.ee) _ (by intros; simp) _ _,
    foldl_keeps (fun t : State => t.ca) _ (by intros; simp) _ _,
    foldl_keeps (fun t : State => t.wt.x) _ (by intros; simp) _ _,
    foldl_keeps (fun t : State => t.wt.y) _ (by intros; simp) _ _,
    foldl_keeps (fun t : State => t.wt.paperUsed) _ (by intros; simp) _ _,
    foldl_keeps (fun t : State => t.wt.waste) _ (by intros; simp) _ _,
    foldl_keeps (fun t : State => t.wt.paperEnd) _ (by intros; simp) _ _,
    foldl_keeps (fun t : State => t.ct.misses) _ (by intros; simp) _ _,
    foldl_keeps (fun t : State => t.su.late) _ (by intros; simp) _ _,
    foldl_keeps (fun t : State => t.pu.counter) _ (by intros; simp) _ _,
    foldl_keeps (fun t : State => t.mc) _ (by intros; simp) _ _,
    foldl_keeps (fun t : State => t.conf) _ (by intros; simp) _ _,
    foldl_keeps (fun t : State => t.pins) _ (by intros; simp) _ _,
    foldl_keeps (fun t : State => t.pending) _ (by intros; simp) _ _,
    foldl_keeps (fun t : State => t.work.status) _ (by intros; simp) _ _⟩

@[simp] theorem fireKnife_frame (b : Boundary) (s : State) :
    (fireKnife b s).cu.lineClock = s.cu.lineClock ∧
    (fireKnife b s).cu.enables = s.cu.enables ∧
    (fireKnife b s).cu.job = s.cu.job ∧
    (fireKnife b s).cu.attnPending = s.cu.attnPending ∧
    (fireKnife b s).om.deferred = s.om.deferred ∧
    (fireKnife b s).om.queues = s.om.queues ∧
    (fireKnife b s).om.seq = s.om.seq ∧
    (fireKnife b s).rc = s.rc ∧
    (fireKnife b s).ee = s.ee ∧
    (fireKnife b s).ca = s.ca ∧
    (fireKnife b s).wt.x = s.wt.x ∧
    (fireKnife b s).wt.y = s.wt.y ∧
    (fireKnife b s).wt.paperUsed = s.wt.paperUsed ∧
    (fireKnife b s).wt.waste = s.wt.waste ∧
    (fireKnife b s).wt.paperEnd = s.wt.paperEnd ∧
    (fireKnife b s).ct.misses = s.ct.misses ∧
    (fireKnife b s).su.late = s.su.late ∧
    (fireKnife b s).pu.counter = s.pu.counter ∧
    (fireKnife b s).mc = s.mc ∧
    (fireKnife b s).conf = s.conf ∧
    (fireKnife b s).pins = s.pins ∧
    (fireKnife b s).pending = s.pending ∧
    (fireKnife b s).work.status = s.work.status := by
  simp [fireKnife]


@[simp] theorem raiseRouted_frame (d : Fin 34) (s : State) :
    (raiseRouted d s).cu = s.cu ∧
    (raiseRouted d s).om = s.om ∧
    (raiseRouted d s).rc = s.rc ∧
    (raiseRouted d s).ee = s.ee ∧
    (raiseRouted d s).ca = s.ca ∧
    (raiseRouted d s).wt = s.wt ∧
    (raiseRouted d s).ct = s.ct ∧
    (raiseRouted d s).su.conveyor = s.su.conveyor ∧
    (raiseRouted d s).su.awaiting = s.su.awaiting ∧
    (raiseRouted d s).su.late = s.su.late ∧
    (raiseRouted d s).pu = s.pu ∧
    (raiseRouted d s).mc = s.mc ∧
    (raiseRouted d s).conf = s.conf ∧
    (raiseRouted d s).pins = s.pins ∧
    (raiseRouted d s).pending = s.pending ∧
    (raiseRouted d s).store = s.store ∧
    (raiseRouted d s).work = s.work := by
  unfold raiseRouted
  split <;> simp

@[simp] theorem splitPiece_frame (k : EntryKey) (r : Routing) (s : State) :
    (splitPiece k r s).cu.lineClock = s.cu.lineClock ∧
    (splitPiece k r s).cu.enables = s.cu.enables ∧
    (splitPiece k r s).cu.job = s.cu.job ∧
    (splitPiece k r s).cu.attnPending = s.cu.attnPending ∧
    (splitPiece k r s).om = s.om ∧
    (splitPiece k r s).rc = s.rc ∧
    (splitPiece k r s).ee = s.ee ∧
    (splitPiece k r s).ca = s.ca ∧
    (splitPiece k r s).wt.x = s.wt.x ∧
    (splitPiece k r s).wt.y = s.wt.y ∧
    (splitPiece k r s).wt.paperUsed = s.wt.paperUsed ∧
    (splitPiece k r s).wt.waste = s.wt.waste ∧
    (splitPiece k r s).wt.paperEnd = s.wt.paperEnd ∧
    (splitPiece k r s).ct = s.ct ∧
    (splitPiece k r s).su = s.su ∧
    (splitPiece k r s).pu = s.pu ∧
    (splitPiece k r s).mc = s.mc ∧
    (splitPiece k r s).conf = s.conf ∧
    (splitPiece k r s).pins = s.pins ∧
    (splitPiece k r s).pending = s.pending ∧
    (splitPiece k r s).work = s.work := by
  unfold splitPiece
  split <;> simp

@[simp] theorem placePiece_frame (e : Entry) (r : Routing) (s : State) :
    (placePiece e r s).cu.lineClock = s.cu.lineClock ∧
    (placePiece e r s).cu.enables = s.cu.enables ∧
    (placePiece e r s).cu.job = s.cu.job ∧
    (placePiece e r s).cu.attnPending = s.cu.attnPending ∧
    (placePiece e r s).om = s.om ∧
    (placePiece e r s).rc = s.rc ∧
    (placePiece e r s).ee = s.ee ∧
    (placePiece e r s).ca = s.ca ∧
    (placePiece e r s).wt.x = s.wt.x ∧
    (placePiece e r s).wt.y = s.wt.y ∧
    (placePiece e r s).wt.paperUsed = s.wt.paperUsed ∧
    (placePiece e r s).wt.waste = s.wt.waste ∧
    (placePiece e r s).wt.paperEnd = s.wt.paperEnd ∧
    (placePiece e r s).ct = s.ct ∧
    (placePiece e r s).su.awaiting = s.su.awaiting ∧
    (placePiece e r s).su.late = s.su.late ∧
    (placePiece e r s).pu = s.pu ∧
    (placePiece e r s).mc = s.mc ∧
    (placePiece e r s).conf = s.conf ∧
    (placePiece e r s).pins = s.pins ∧
    (placePiece e r s).pending = s.pending ∧
    (placePiece e r s).work = s.work := by
  simp [placePiece]

@[simp] theorem overflowPiece_frame (e : Entry) (r : Routing) (s : State) :
    (overflowPiece e r s).cu.lineClock = s.cu.lineClock ∧
    (overflowPiece e r s).cu.enables = s.cu.enables ∧
    (overflowPiece e r s).cu.job = s.cu.job ∧
    (overflowPiece e r s).cu.attnPending = s.cu.attnPending ∧
    (overflowPiece e r s).om.deferred = s.om.deferred ∧
    (overflowPiece e r s).om.queues = s.om.queues ∧
    (overflowPiece e r s).om.seq = s.om.seq ∧
    (overflowPiece e r s).rc.slot = s.rc.slot ∧
    (overflowPiece e r s).rc.mask = s.rc.mask ∧
    (overflowPiece e r s).rc.hot = s.rc.hot ∧
    (overflowPiece e r s).rc.firstCal = s.rc.firstCal ∧
    (overflowPiece e r s).rc.binWait = s.rc.binWait ∧
    (overflowPiece e r s).ee = s.ee ∧
    (overflowPiece e r s).ca.bal = s.ca.bal ∧
    (overflowPiece e r s).ca.thetaCal = s.ca.thetaCal ∧
    (overflowPiece e r s).ca.invalid = s.ca.invalid ∧
    (overflowPiece e r s).wt.x = s.wt.x ∧
    (overflowPiece e r s).wt.y = s.wt.y ∧
    (overflowPiece e r s).wt.paperUsed = s.wt.paperUsed ∧
    (overflowPiece e r s).wt.waste = s.wt.waste ∧
    (overflowPiece e r s).wt.paperEnd = s.wt.paperEnd ∧
    (overflowPiece e r s).ct.misses = s.ct.misses ∧
    (overflowPiece e r s).su.late = s.su.late ∧
    (overflowPiece e r s).pu.counter = s.pu.counter ∧
    (overflowPiece e r s).mc = s.mc ∧
    (overflowPiece e r s).conf = s.conf ∧
    (overflowPiece e r s).pins = s.pins ∧
    (overflowPiece e r s).pending = s.pending ∧
    (overflowPiece e r s).work.status = s.work.status := by
  simp [overflowPiece]

@[simp] theorem divertPiece_frame (k : EntryKey) (s : State) :
    (divertPiece k s).cu.lineClock = s.cu.lineClock ∧
    (divertPiece k s).cu.enables = s.cu.enables ∧
    (divertPiece k s).cu.job = s.cu.job ∧
    (divertPiece k s).cu.attnPending = s.cu.attnPending ∧
    (divertPiece k s).om.deferred = s.om.deferred ∧
    (divertPiece k s).om.queues = s.om.queues ∧
    (divertPiece k s).om.seq = s.om.seq ∧
    (divertPiece k s).rc.slot = s.rc.slot ∧
    (divertPiece k s).rc.mask = s.rc.mask ∧
    (divertPiece k s).rc.hot = s.rc.hot ∧
    (divertPiece k s).rc.firstCal = s.rc.firstCal ∧
    (divertPiece k s).rc.binWait = s.rc.binWait ∧
    (divertPiece k s).ee = s.ee ∧
    (divertPiece k s).ca.bal = s.ca.bal ∧
    (divertPiece k s).ca.thetaCal = s.ca.thetaCal ∧
    (divertPiece k s).ca.invalid = s.ca.invalid ∧
    (divertPiece k s).wt.x = s.wt.x ∧
    (divertPiece k s).wt.y = s.wt.y ∧
    (divertPiece k s).wt.paperUsed = s.wt.paperUsed ∧
    (divertPiece k s).wt.waste = s.wt.waste ∧
    (divertPiece k s).wt.paperEnd = s.wt.paperEnd ∧
    (divertPiece k s).ct.misses = s.ct.misses ∧
    (divertPiece k s).su.late = s.su.late ∧
    (divertPiece k s).pu.counter = s.pu.counter ∧
    (divertPiece k s).mc = s.mc ∧
    (divertPiece k s).conf = s.conf ∧
    (divertPiece k s).pins = s.pins ∧
    (divertPiece k s).pending = s.pending ∧
    (divertPiece k s).work.status = s.work.status := by
  unfold divertPiece
  dsimp only
  (repeat' split) <;> simp

@[simp] theorem stray_frame (d : Fin 34) (s : State) :
    (stray d s).cu.lineClock = s.cu.lineClock ∧
    (stray d s).cu.enables = s.cu.enables ∧
    (stray d s).cu.job = s.cu.job ∧
    (stray d s).cu.attnPending = s.cu.attnPending ∧
    (stray d s).om = s.om ∧
    (stray d s).rc = s.rc ∧
    (stray d s).ee = s.ee ∧
    (stray d s).ca = s.ca ∧
    (stray d s).wt = s.wt ∧
    (stray d s).ct = s.ct ∧
    (stray d s).su = s.su ∧
    (stray d s).pu = s.pu ∧
    (stray d s).mc = s.mc ∧
    (stray d s).conf = s.conf ∧
    (stray d s).pins = s.pins ∧
    (stray d s).pending = s.pending ∧
    (stray d s).work = s.work := by
  simp [stray]

@[simp] theorem leaveConveyor_frame (c : ConvEntry) (s : State) :
    (leaveConveyor c s).cu = s.cu ∧
    (leaveConveyor c s).om = s.om ∧
    (leaveConveyor c s).rc = s.rc ∧
    (leaveConveyor c s).ee = s.ee ∧
    (leaveConveyor c s).ca = s.ca ∧
    (leaveConveyor c s).wt = s.wt ∧
    (leaveConveyor c s).ct = s.ct ∧
    (leaveConveyor c s).su.awaiting = s.su.awaiting ∧
    (leaveConveyor c s).su.late = s.su.late ∧
    (leaveConveyor c s).su.bins = s.su.bins ∧
    (leaveConveyor c s).pu = s.pu ∧
    (leaveConveyor c s).mc = s.mc ∧
    (leaveConveyor c s).conf = s.conf ∧
    (leaveConveyor c s).pins = s.pins ∧
    (leaveConveyor c s).pending = s.pending ∧
    (leaveConveyor c s).store = s.store ∧
    (leaveConveyor c s).work = s.work := by
  simp [leaveConveyor]

@[simp] theorem deliver_frame (k : EntryKey) (toCatch : Bool) (s : State) :
    (deliver k toCatch s).cu.lineClock = s.cu.lineClock ∧
    (deliver k toCatch s).cu.enables = s.cu.enables ∧
    (deliver k toCatch s).cu.job = s.cu.job ∧
    (deliver k toCatch s).cu.attnPending = s.cu.attnPending ∧
    (deliver k toCatch s).om.deferred = s.om.deferred ∧
    (deliver k toCatch s).om.queues = s.om.queues ∧
    (deliver k toCatch s).om.seq = s.om.seq ∧
    (deliver k toCatch s).rc = s.rc ∧
    (deliver k toCatch s).ee = s.ee ∧
    (deliver k toCatch s).ca = s.ca ∧
    (deliver k toCatch s).wt = s.wt ∧
    (deliver k toCatch s).ct = s.ct ∧
    (deliver k toCatch s).su.conveyor = s.su.conveyor ∧
    (deliver k toCatch s).su.awaiting = s.su.awaiting ∧
    (deliver k toCatch s).su.late = s.su.late ∧
    (deliver k toCatch s).pu.counter = s.pu.counter ∧
    (deliver k toCatch s).mc = s.mc ∧
    (deliver k toCatch s).conf = s.conf ∧
    (deliver k toCatch s).pins = s.pins ∧
    (deliver k toCatch s).pending = s.pending ∧
    (deliver k toCatch s).work.status = s.work.status := by
  unfold deliver
  split
  · rename_i e _
    cases h : e.ref <;> simp
  · simp


@[simp] theorem applyArrival_frame (c : ConvEntry) (s : State) :
    (applyArrival c s).cu.lineClock = s.cu.lineClock ∧
    (applyArrival c s).cu.enables = s.cu.enables ∧
    (applyArrival c s).cu.job = s.cu.job ∧
    (applyArrival c s).cu.attnPending = s.cu.attnPending ∧
    (applyArrival c s).om.deferred = s.om.deferred ∧
    (applyArrival c s).om.queues = s.om.queues ∧
    (applyArrival c s).om.seq = s.om.seq ∧
    (applyArrival c s).rc = s.rc ∧
    (applyArrival c s).ee = s.ee ∧
    (applyArrival c s).ca = s.ca ∧
    (applyArrival c s).wt.x = s.wt.x ∧
    (applyArrival c s).wt.y = s.wt.y ∧
    (applyArrival c s).wt.paperUsed = s.wt.paperUsed ∧
    (applyArrival c s).wt.waste = s.wt.waste ∧
    (applyArrival c s).wt.paperEnd = s.wt.paperEnd ∧
    (applyArrival c s).ct.misses = s.ct.misses ∧
    (applyArrival c s).su.late = s.su.late ∧
    (applyArrival c s).pu.counter = s.pu.counter ∧
    (applyArrival c s).mc = s.mc ∧
    (applyArrival c s).conf = s.conf ∧
    (applyArrival c s).pins = s.pins ∧
    (applyArrival c s).pending = s.pending ∧
    (applyArrival c s).work.status = s.work.status := by
  unfold applyArrival
  dsimp only
  split
  · simp
  · split <;> simp


@[simp] theorem arrive_frame (d : Fin 34) (s : State) :
    (arrive d s).cu.lineClock = s.cu.lineClock ∧
    (arrive d s).cu.enables = s.cu.enables ∧
    (arrive d s).cu.job = s.cu.job ∧
    (arrive d s).cu.attnPending = s.cu.attnPending ∧
    (arrive d s).om.deferred = s.om.deferred ∧
    (arrive d s).om.queues = s.om.queues ∧
    (arrive d s).om.seq = s.om.seq ∧
    (arrive d s).rc = s.rc ∧
    (arrive d s).ee = s.ee ∧
    (arrive d s).ca = s.ca ∧
    (arrive d s).wt.x = s.wt.x ∧
    (arrive d s).wt.y = s.wt.y ∧
    (arrive d s).wt.paperUsed = s.wt.paperUsed ∧
    (arrive d s).wt.waste = s.wt.waste ∧
    (arrive d s).wt.paperEnd = s.wt.paperEnd ∧
    (arrive d s).ct.misses = s.ct.misses ∧
    (arrive d s).pu.counter = s.pu.counter ∧
    (arrive d s).mc = s.mc ∧
    (arrive d s).conf = s.conf ∧
    (arrive d s).pins = s.pins ∧
    (arrive d s).pending = s.pending ∧
    (arrive d s).work.status = s.work.status := by
  unfold arrive
  dsimp only
  split
  · simp
  · split <;> simp


@[simp] theorem misroute_frame (c : ConvEntry) (s : State) :
    (misroute c s).cu.lineClock = s.cu.lineClock ∧
    (misroute c s).cu.enables = s.cu.enables ∧
    (misroute c s).cu.job = s.cu.job ∧
    (misroute c s).cu.attnPending = s.cu.attnPending ∧
    (misroute c s).om.deferred = s.om.deferred ∧
    (misroute c s).om.queues = s.om.queues ∧
    (misroute c s).om.seq = s.om.seq ∧
    (misroute c s).rc.slot = s.rc.slot ∧
    (misroute c s).rc.mask = s.rc.mask ∧
    (misroute c s).rc.hot = s.rc.hot ∧
    (misroute c s).rc.firstCal = s.rc.firstCal ∧
    (misroute c s).rc.binWait = s.rc.binWait ∧
    (misroute c s).ee = s.ee ∧
    (misroute c s).ca.bal = s.ca.bal ∧
    (misroute c s).ca.thetaCal = s.ca.thetaCal ∧
    (misroute c s).ca.invalid = s.ca.invalid ∧
    (misroute c s).wt.x = s.wt.x ∧
    (misroute c s).wt.y = s.wt.y ∧
    (misroute c s).wt.paperUsed = s.wt.paperUsed ∧
    (misroute c s).wt.waste = s.wt.waste ∧
    (misroute c s).wt.paperEnd = s.wt.paperEnd ∧
    (misroute c s).ct.misses = s.ct.misses ∧
    (misroute c s).pu.counter = s.pu.counter ∧
    (misroute c s).mc = s.mc ∧
    (misroute c s).conf = s.conf ∧
    (misroute c s).pins = s.pins ∧
    (misroute c s).pending = s.pending ∧
    (misroute c s).work.status = s.work.status := by
  simp [misroute]

@[simp] theorem expireLate_frame (d : Fin 34) (s : State) :
    (expireLate d s).cu = s.cu ∧
    (expireLate d s).om = s.om ∧
    (expireLate d s).rc = s.rc ∧
    (expireLate d s).ee = s.ee ∧
    (expireLate d s).ca = s.ca ∧
    (expireLate d s).wt = s.wt ∧
    (expireLate d s).ct = s.ct ∧
    (expireLate d s).su.conveyor = s.su.conveyor ∧
    (expireLate d s).su.awaiting = s.su.awaiting ∧
    (expireLate d s).su.bins = s.su.bins ∧
    (expireLate d s).pu = s.pu ∧
    (expireLate d s).mc = s.mc ∧
    (expireLate d s).conf = s.conf ∧
    (expireLate d s).pins = s.pins ∧
    (expireLate d s).pending = s.pending ∧
    (expireLate d s).store = s.store ∧
    (expireLate d s).work = s.work := by
  simp [expireLate]

@[simp] theorem expireCountdown_frame (i : Fin 32) (s : State) :
    (expireCountdown i s).cu.lineClock = s.cu.lineClock ∧
    (expireCountdown i s).cu.enables = s.cu.enables ∧
    (expireCountdown i s).cu.job = s.cu.job ∧
    (expireCountdown i s).cu.attnPending = s.cu.attnPending ∧
    (expireCountdown i s).om = s.om ∧
    (expireCountdown i s).rc = s.rc ∧
    (expireCountdown i s).ee = s.ee ∧
    (expireCountdown i s).ca = s.ca ∧
    (expireCountdown i s).wt = s.wt ∧
    (expireCountdown i s).ct = s.ct ∧
    (expireCountdown i s).su.conveyor = s.su.conveyor ∧
    (expireCountdown i s).su.awaiting = s.su.awaiting ∧
    (expireCountdown i s).su.late = s.su.late ∧
    (expireCountdown i s).pu = s.pu ∧
    (expireCountdown i s).mc = s.mc ∧
    (expireCountdown i s).conf = s.conf ∧
    (expireCountdown i s).pins = s.pins ∧
    (expireCountdown i s).pending = s.pending ∧
    (expireCountdown i s).work = s.work := by
  simp [expireCountdown]

@[simp] theorem setDoorPin_frame (i : Fin 32) (v : Bool) (s : State) :
    (setDoorPin i v s).cu = s.cu ∧
    (setDoorPin i v s).om = s.om ∧
    (setDoorPin i v s).rc = s.rc ∧
    (setDoorPin i v s).ee = s.ee ∧
    (setDoorPin i v s).ca = s.ca ∧
    (setDoorPin i v s).wt = s.wt ∧
    (setDoorPin i v s).ct = s.ct ∧
    (setDoorPin i v s).su = s.su ∧
    (setDoorPin i v s).pu = s.pu ∧
    (setDoorPin i v s).mc = s.mc ∧
    (setDoorPin i v s).conf = s.conf ∧
    (setDoorPin i v s).pending = s.pending ∧
    (setDoorPin i v s).store = s.store ∧
    (setDoorPin i v s).work = s.work := by
  simp [setDoorPin]

@[simp] theorem openDoor_frame (i : Fin 32) (s : State) :
    (openDoor i s).cu.lineClock = s.cu.lineClock ∧
    (openDoor i s).cu.enables = s.cu.enables ∧
    (openDoor i s).cu.job = s.cu.job ∧
    (openDoor i s).cu.attnPending = s.cu.attnPending ∧
    (openDoor i s).om = s.om ∧
    (openDoor i s).rc = s.rc ∧
    (openDoor i s).ee = s.ee ∧
    (openDoor i s).ca = s.ca ∧
    (openDoor i s).wt = s.wt ∧
    (openDoor i s).ct = s.ct ∧
    (openDoor i s).su.conveyor = s.su.conveyor ∧
    (openDoor i s).su.awaiting = s.su.awaiting ∧
    (openDoor i s).su.late = s.su.late ∧
    (openDoor i s).pu = s.pu ∧
    (openDoor i s).mc = s.mc ∧
    (openDoor i s).conf = s.conf ∧
    (openDoor i s).pending = s.pending ∧
    (openDoor i s).work = s.work := by
  unfold openDoor
  dsimp only
  split <;> simp

@[simp] theorem unloadEarly_frame (i : Fin 32) (s : State) :
    (unloadEarly i s).cu = s.cu ∧
    (unloadEarly i s).om.deferred = s.om.deferred ∧
    (unloadEarly i s).om.queues = s.om.queues ∧
    (unloadEarly i s).om.seq = s.om.seq ∧
    (unloadEarly i s).rc = s.rc ∧
    (unloadEarly i s).ee = s.ee ∧
    (unloadEarly i s).ca = s.ca ∧
    (unloadEarly i s).wt = s.wt ∧
    (unloadEarly i s).ct = s.ct ∧
    (unloadEarly i s).su.conveyor = s.su.conveyor ∧
    (unloadEarly i s).su.awaiting = s.su.awaiting ∧
    (unloadEarly i s).su.late = s.su.late ∧
    (unloadEarly i s).pu = s.pu ∧
    (unloadEarly i s).mc = s.mc ∧
    (unloadEarly i s).conf = s.conf ∧
    (unloadEarly i s).pins = s.pins ∧
    (unloadEarly i s).pending = s.pending ∧
    (unloadEarly i s).work.status = s.work.status := by
  unfold unloadEarly
  dsimp only
  cases (s.su.bins[i]).owner <;> simp


@[simp] theorem closeDoor_frame (i : Fin 32) (s : State) :
    (closeDoor i s).cu = s.cu ∧
    (closeDoor i s).om.deferred = s.om.deferred ∧
    (closeDoor i s).om.queues = s.om.queues ∧
    (closeDoor i s).om.seq = s.om.seq ∧
    (closeDoor i s).rc = s.rc ∧
    (closeDoor i s).ee = s.ee ∧
    (closeDoor i s).ca = s.ca ∧
    (closeDoor i s).wt = s.wt ∧
    (closeDoor i s).ct = s.ct ∧
    (closeDoor i s).su.conveyor = s.su.conveyor ∧
    (closeDoor i s).su.awaiting = s.su.awaiting ∧
    (closeDoor i s).su.late = s.su.late ∧
    (closeDoor i s).pu = s.pu ∧
    (closeDoor i s).mc = s.mc ∧
    (closeDoor i s).conf = s.conf ∧
    (closeDoor i s).pending = s.pending ∧
    (closeDoor i s).work.status = s.work.status := by
  unfold closeDoor
  dsimp only
  split <;> simp


@[simp] theorem changePaper_frame (isEnd : Bool) (s : State) :
    (changePaper isEnd s).cu.lineClock = s.cu.lineClock ∧
    (changePaper isEnd s).cu.enables = s.cu.enables ∧
    (changePaper isEnd s).cu.job = s.cu.job ∧
    (changePaper isEnd s).cu.attnPending = s.cu.attnPending ∧
    (changePaper isEnd s).om.deferred = s.om.deferred ∧
    (changePaper isEnd s).om.queues = s.om.queues ∧
    (changePaper isEnd s).om.seq = s.om.seq ∧
    (changePaper isEnd s).rc.mask = s.rc.mask ∧
    (changePaper isEnd s).rc.hot = s.rc.hot ∧
    (changePaper isEnd s).rc.firstCal = s.rc.firstCal ∧
    (changePaper isEnd s).rc.binWait = s.rc.binWait ∧
    (changePaper isEnd s).ee.hot = s.ee.hot ∧
    (changePaper isEnd s).ee.sample = s.ee.sample ∧
    (changePaper isEnd s).ee.sampleAt = s.ee.sampleAt ∧
    (changePaper isEnd s).ee.maskInForce = s.ee.maskInForce ∧
    (changePaper isEnd s).ca.bal = s.ca.bal ∧
    (changePaper isEnd s).ca.thetaCal = s.ca.thetaCal ∧
    (changePaper isEnd s).ca.invalid = s.ca.invalid ∧
    (changePaper isEnd s).wt.x = s.wt.x ∧
    (changePaper isEnd s).wt.y = s.wt.y ∧
    (changePaper isEnd s).wt.paperUsed = s.wt.paperUsed ∧
    (changePaper isEnd s).wt.waste = s.wt.waste ∧
    (changePaper isEnd s).ct.misses = s.ct.misses ∧
    (changePaper isEnd s).pu.counter = s.pu.counter ∧
    (changePaper isEnd s).conf = s.conf ∧
    (changePaper isEnd s).pending = s.pending := by
  unfold changePaper
  dsimp only
  split <;> simp


@[simp] theorem changeLineStop_frame (v : Bool) (s : State) :
    (changeLineStop v s).cu.lineClock = s.cu.lineClock ∧
    (changeLineStop v s).cu.enables = s.cu.enables ∧
    (changeLineStop v s).cu.job = s.cu.job ∧
    (changeLineStop v s).cu.attnPending = s.cu.attnPending ∧
    (changeLineStop v s).om.deferred = s.om.deferred ∧
    (changeLineStop v s).om.queues = s.om.queues ∧
    (changeLineStop v s).om.seq = s.om.seq ∧
    (changeLineStop v s).rc.mask = s.rc.mask ∧
    (changeLineStop v s).rc.hot = s.rc.hot ∧
    (changeLineStop v s).rc.firstCal = s.rc.firstCal ∧
    (changeLineStop v s).rc.binWait = s.rc.binWait ∧
    (changeLineStop v s).ee.hot = s.ee.hot ∧
    (changeLineStop v s).ee.sample = s.ee.sample ∧
    (changeLineStop v s).ee.sampleAt = s.ee.sampleAt ∧
    (changeLineStop v s).ee.maskInForce = s.ee.maskInForce ∧
    (changeLineStop v s).ca.bal = s.ca.bal ∧
    (changeLineStop v s).ca.thetaCal = s.ca.thetaCal ∧
    (changeLineStop v s).ca.invalid = s.ca.invalid ∧
    (changeLineStop v s).wt.x = s.wt.x ∧
    (changeLineStop v s).wt.y = s.wt.y ∧
    (changeLineStop v s).wt.paperUsed = s.wt.paperUsed ∧
    (changeLineStop v s).wt.waste = s.wt.waste ∧
    (changeLineStop v s).wt.paperEnd = s.wt.paperEnd ∧
    (changeLineStop v s).ct.misses = s.ct.misses ∧
    (changeLineStop v s).pu.counter = s.pu.counter ∧
    (changeLineStop v s).conf = s.conf ∧
    (changeLineStop v s).pending = s.pending := by
  unfold changeLineStop
  split <;> simp

@[simp] theorem changeWebJam_frame (v : Bool) (s : State) :
    (changeWebJam v s).cu.lineClock = s.cu.lineClock ∧
    (changeWebJam v s).cu.enables = s.cu.enables ∧
    (changeWebJam v s).cu.job = s.cu.job ∧
    (changeWebJam v s).cu.attnPending = s.cu.attnPending ∧
    (changeWebJam v s).om.deferred = s.om.deferred ∧
    (changeWebJam v s).om.queues = s.om.queues ∧
    (changeWebJam v s).om.seq = s.om.seq ∧
    (changeWebJam v s).rc.mask = s.rc.mask ∧
    (changeWebJam v s).rc.hot = s.rc.hot ∧
    (changeWebJam v s).rc.firstCal = s.rc.firstCal ∧
    (changeWebJam v s).rc.binWait = s.rc.binWait ∧
    (changeWebJam v s).ee.hot = s.ee.hot ∧
    (changeWebJam v s).ee.sample = s.ee.sample ∧
    (changeWebJam v s).ee.sampleAt = s.ee.sampleAt ∧
    (changeWebJam v s).ee.maskInForce = s.ee.maskInForce ∧
    (changeWebJam v s).ca.bal = s.ca.bal ∧
    (changeWebJam v s).ca.thetaCal = s.ca.thetaCal ∧
    (changeWebJam v s).ca.invalid = s.ca.invalid ∧
    (changeWebJam v s).wt.x = s.wt.x ∧
    (changeWebJam v s).wt.y = s.wt.y ∧
    (changeWebJam v s).wt.paperUsed = s.wt.paperUsed ∧
    (changeWebJam v s).wt.waste = s.wt.waste ∧
    (changeWebJam v s).wt.paperEnd = s.wt.paperEnd ∧
    (changeWebJam v s).ct.misses = s.ct.misses ∧
    (changeWebJam v s).pu.counter = s.pu.counter ∧
    (changeWebJam v s).conf = s.conf ∧
    (changeWebJam v s).pending = s.pending := by
  unfold changeWebJam
  split <;> simp

@[simp] theorem changeConvJam_frame (v : Bool) (s : State) :
    (changeConvJam v s).cu.lineClock = s.cu.lineClock ∧
    (changeConvJam v s).cu.enables = s.cu.enables ∧
    (changeConvJam v s).cu.job = s.cu.job ∧
    (changeConvJam v s).cu.attnPending = s.cu.attnPending ∧
    (changeConvJam v s).om.deferred = s.om.deferred ∧
    (changeConvJam v s).om.queues = s.om.queues ∧
    (changeConvJam v s).om.seq = s.om.seq ∧
    (changeConvJam v s).rc.mask = s.rc.mask ∧
    (changeConvJam v s).rc.hot = s.rc.hot ∧
    (changeConvJam v s).rc.firstCal = s.rc.firstCal ∧
    (changeConvJam v s).rc.binWait = s.rc.binWait ∧
    (changeConvJam v s).ee.hot = s.ee.hot ∧
    (changeConvJam v s).ee.sample = s.ee.sample ∧
    (changeConvJam v s).ee.sampleAt = s.ee.sampleAt ∧
    (changeConvJam v s).ee.maskInForce = s.ee.maskInForce ∧
    (changeConvJam v s).ca.bal = s.ca.bal ∧
    (changeConvJam v s).ca.thetaCal = s.ca.thetaCal ∧
    (changeConvJam v s).ca.invalid = s.ca.invalid ∧
    (changeConvJam v s).wt.x = s.wt.x ∧
    (changeConvJam v s).wt.y = s.wt.y ∧
    (changeConvJam v s).wt.paperUsed = s.wt.paperUsed ∧
    (changeConvJam v s).wt.waste = s.wt.waste ∧
    (changeConvJam v s).wt.paperEnd = s.wt.paperEnd ∧
    (changeConvJam v s).ct.misses = s.ct.misses ∧
    (changeConvJam v s).pu.counter = s.pu.counter ∧
    (changeConvJam v s).conf = s.conf ∧
    (changeConvJam v s).pending = s.pending := by
  unfold changeConvJam
  split <;> simp

@[simp] theorem tick_frame (s : State) :
    (tick s).cu.enables = s.cu.enables ∧
    (tick s).cu.job = s.cu.job ∧
    (tick s).cu.attnPending = s.cu.attnPending ∧
    (tick s).cu.classes = s.cu.classes ∧
    (tick s).cu.irq = s.cu.irq ∧
    (tick s).om = s.om ∧
    (tick s).rc = s.rc ∧
    (tick s).ee = s.ee ∧
    (tick s).ca = s.ca ∧
    (tick s).wt = s.wt ∧
    (tick s).ct = s.ct ∧
    (tick s).su = s.su ∧
    (tick s).pu = s.pu ∧
    (tick s).mc = s.mc ∧
    (tick s).conf = s.conf ∧
    (tick s).pins = s.pins ∧
    (tick s).pending = s.pending ∧
    (tick s).store = s.store ∧
    (tick s).work = s.work := by
  simp [tick]

end Sys2Proof.Machine
end

