-- ==== Sys2Proof/Laws/Blocks.lean ====
section
/-! SUPPORT. The blocks the part writes in the store: each writing keeps the canonical form, stays in its place, and reads
back. -/

namespace Sys2Proof.Machine

/-! ## Reads of the sizes in use -/

theorem Memory.read8_congr {m n : Memory} {a : Nat} (h : ∀ b, a ≤ b → b < a + 1 → Memory.read m b = Memory.read n b) :
    Memory.read8 m a = Memory.read8 n a := Memory.readNat_congr 1 h

theorem Memory.read16_congr {m n : Memory} {a : Nat} (h : ∀ b, a ≤ b → b < a + 2 → Memory.read m b = Memory.read n b) :
    Memory.read16 m a = Memory.read16 n a := Memory.readNat_congr 2 h

theorem Memory.read32_congr {m n : Memory} {a : Nat} (h : ∀ b, a ≤ b → b < a + 4 → Memory.read m b = Memory.read n b) :
    Memory.read32 m a = Memory.read32 n a := Memory.readNat_congr 4 h

theorem Memory.readWord_congr {m n : Memory} {a : Nat} (h : ∀ b, a ≤ b → b < a + 4 → Memory.read m b = Memory.read n b) :
    Memory.readWord m a = Memory.readWord n a := by rw [Memory.readWord, Memory.readWord, Memory.read32_congr h]

/-- A word written reads back. -/
theorem Memory.readWord_writeWord {m : Memory} (h : Memory.wf m) (a : Nat) (w : Word) :
    Memory.readWord (Memory.writeWord m a w) a = w := by
  rw [Memory.readWord, Memory.read32, Memory.writeWord, Memory.readNat_writeNat_self h]
  exact BitVec.eq_of_toNat_eq (by rw [BitVec.toNat_ofNat, show (256 : Nat) ^ 4 = 2 ^ 32 from rfl,
    Nat.mod_mod, Nat.mod_eq_of_lt w.isLt])

/-- A number written in four bytes reads back, cut to 32 bits. -/
theorem Memory.read32_write32 {m : Memory} (h : Memory.wf m) (a n : Nat) :
    Memory.read32 (Memory.write32 m a n) a = n % 4294967296 := Memory.readNat_writeNat_self h a 4 n

theorem Memory.read16_write16 {m : Memory} (h : Memory.wf m) (a n : Nat) :
    Memory.read16 (Memory.write16 m a n) a = n % 65536 := Memory.readNat_writeNat_self h a 2 n

theorem Memory.read8_write8 {m : Memory} (h : Memory.wf m) (a n : Nat) :
    Memory.read8 (Memory.write8 m a n) a = n % 256 := Memory.readNat_writeNat_self h a 1 n

/-- The first byte of a word written. -/
theorem Memory.read8_write32 {m : Memory} (h : Memory.wf m) (a n : Nat) :
    Memory.read8 (Memory.write32 m a n) a = n % 256 := by
  rw [Memory.write32, Memory.read8, Memory.readNat, Memory.writeNat, Memory.read_writeNat _ _ _ (by omega),
    Memory.read_write_self h]
  simp [Memory.readNat]

/-- The second byte of a word written. -/
theorem Memory.read8_write32_one {m : Memory} (h : Memory.wf m) (a n : Nat) :
    Memory.read8 (Memory.write32 m a n) (a + 1) = n / 256 % 256 := by
  rw [Memory.write32, Memory.read8, Memory.readNat, Memory.writeNat, Memory.writeNat,
    Memory.read_writeNat _ _ _ (by omega), Memory.read_write_self (Memory.wf_write h _ _)]
  simp [Memory.readNat]

/-! ## Every writing keeps the canonical form -/

theorem wf_writeSlot {m : Memory} (h : Memory.wf m) (k : NoticeClass) (n : Notice) : Memory.wf (writeSlot k n m) := by
  unfold writeSlot
  with_reducible exact
    Memory.wf_write32 (Memory.wf_write32 (Memory.wf_writeWord (Memory.wf_writeWord h _ _) _ _) _ _) _ _

theorem wf_writeStatus {s : State} (h : Memory.wf s.store) : Memory.wf (writeStatus s).store := by
  unfold writeStatus
  dsimp only
  repeat' first
    | with_reducible exact h
    | with_reducible apply Memory.wf_writeWord
    | with_reducible apply Memory.wf_write8
    | with_reducible apply Memory.wf_write16
    | with_reducible apply Memory.wf_write32

theorem wf_writeControlBlock {s : State} (h : Memory.wf s.store) (q : QueueId) :
    Memory.wf (writeControlBlock q s).store :=
  Memory.wf_writeWord (Memory.wf_writeWord (Memory.wf_writeWord (Memory.wf_write8 (Memory.wf_write8 h _ _) _ _) _ _) _ _)
    _ _

theorem wf_writeItems {m : Memory} (h : Memory.wf m) (a n : Nat) (l : List ItemProgress) :
    Memory.wf (writeItems a n l m) := by
  induction l generalizing m n with
  | nil => exact h
  | cons i l ih => exact ih (Memory.wf_write8 (Memory.wf_write16 (Memory.wf_write16 h _ _) _ _) _ _) (n + 1)

theorem wf_writeProgress {m : Memory} (h : Memory.wf m) (a : Nat) (p : Progress) : Memory.wf (writeProgress a p m) := by
  have h := wf_writeItems h a 0 p.items
  unfold writeProgress
  dsimp only
  cases p.stamp <;> dsimp only
  all_goals
    repeat' first
      | with_reducible exact h
      | with_reducible apply Memory.wf_writeWord
      | with_reducible apply Memory.wf_write8
      | with_reducible apply Memory.wf_write16
      | with_reducible apply Memory.wf_write32

/-! ## Notice slots -/

theorem occupy_store (k : NoticeClass) (n : Notice) (held : List Notice) (s : State) :
    (occupy k n held s).store = writeSlot k n s.store := rfl

/-- A slot's writing stays in the slot. -/
theorem read_writeSlot (k : NoticeClass) (n : Notice) (m : Memory) {a : Nat} (h : a < k.slotAddr ∨ k.slotAddr + 16 ≤ a) :
    Memory.read (writeSlot k n m) a = Memory.read m a := by
  simp only [writeSlot, Memory.write32, Memory.writeWord]
  rw [Memory.read_writeNat _ _ _ (by omega), Memory.read_writeNat _ _ _ (by omega),
    Memory.read_writeNat _ _ _ (by omega), Memory.read_writeNat _ _ _ (by omega)]

theorem Notice.word0_lt (n : Notice) : n.word0 < 4294967296 := by
  unfold Notice.word0
  cases n.cause <;> simp only [Cause.cls, NoticeClass.code, Cause.code] <;> split <;> omega

/-- What a slot shows of the notice written into it (R182, R188). -/
theorem writeSlot_words {m : Memory} (h : Memory.wf m) (k : NoticeClass) (n : Notice) :
    Memory.read32 (writeSlot k n m) k.slotAddr = n.word0 ∧
      Memory.readWord (writeSlot k n m) (k.slotAddr + 4) = n.subject ∧
      Memory.readWord (writeSlot k n m) (k.slotAddr + 8) = n.stamp := by
  have h1 := Memory.wf_writeWord h (k.slotAddr + 4) n.subject
  refine ⟨?_, ?_, ?_⟩
  · rw [writeSlot, Memory.read32_write32 (Memory.wf_write32 (Memory.wf_writeWord h1 _ _) _ _),
      Nat.mod_eq_of_lt n.word0_lt]
  · rw [Memory.readWord_congr (n := Memory.writeWord m (k.slotAddr + 4) n.subject), Memory.readWord_writeWord h]
    intro b hb hb'
    simp only [writeSlot, Memory.write32]
    rw [Memory.read_writeNat _ _ _ (by omega), Memory.read_writeNat _ _ _ (by omega), Memory.writeWord,
      Memory.read_writeNat _ _ _ (by omega)]
  · rw [Memory.readWord_congr (n := Memory.writeWord (Memory.writeWord m (k.slotAddr + 4) n.subject) (k.slotAddr + 8)
      n.stamp), Memory.readWord_writeWord h1]
    intro b hb hb'
    simp only [writeSlot, Memory.write32]
    rw [Memory.read_writeNat _ _ _ (by omega), Memory.read_writeNat _ _ _ (by omega)]

/-- Every byte outside a class's slot reads as before when the slot is read at an attention. -/
theorem freeSlot_read (k : NoticeClass) (s : State) {a : Nat} (h : a < k.slotAddr ∨ k.slotAddr + 16 ≤ a) :
    Memory.read (freeSlot k s).store a = Memory.read s.store a := by
  unfold freeSlot
  split
  · split
    · rw [occupy_store, read_writeSlot _ _ _ h]
    · rfl
  · rfl

theorem freeSlot_wf (k : NoticeClass) {s : State} (h : Memory.wf s.store) : Memory.wf (freeSlot k s).store := by
  unfold freeSlot
  split
  · split
    · rw [occupy_store]
      with_reducible exact wf_writeSlot h _ _
    · rw [judgeLine]
      with_reducible exact h
  · with_reducible exact h

theorem NoticeClass.slotAddr_bounds (k : NoticeClass) : 64 ≤ k.slotAddr ∧ k.slotAddr + 16 ≤ 112 := by
  cases k <;> decide

/-- The reading of the slots at an attention keeps every byte outside the three slots. -/
theorem readSlots_read (s : State) {a : Nat} (h : ¬inSlots a) : Memory.read (readSlots s).store a = Memory.read s.store a := by
  have out (k : NoticeClass) : a < k.slotAddr ∨ k.slotAddr + 16 ≤ a := by
    have := k.slotAddr_bounds
    simp only [inSlots] at h
    omega
  rw [readSlots, freeSlot_read _ _ (out .c), freeSlot_read _ _ (out .b), freeSlot_read _ _ (out .a)]

theorem readSlots_wf {s : State} (h : Memory.wf s.store) : Memory.wf (readSlots s).store :=
  freeSlot_wf _ (freeSlot_wf _ (freeSlot_wf _ h))

/-- A notice raised keeps every byte outside its class's slot. -/
theorem post_read (c : Cause) (w : Word) (s : State) {a : Nat} (h : a < c.cls.slotAddr ∨ c.cls.slotAddr + 16 ≤ a) :
    Memory.read (post c w s).store a = Memory.read s.store a := by
  rw [post]
  dsimp only
  split
  · rfl
  · split
    · rw [occupy_store, read_writeSlot _ _ _ h]
    · rfl

theorem post_wf (c : Cause) (w : Word) {s : State} (h : Memory.wf s.store) : Memory.wf (post c w s).store := by
  rw [post]
  dsimp only
  split
  · exact h
  · split
    · rw [occupy_store]
      with_reducible exact wf_writeSlot h _ _
    · with_reducible exact h

/-! ## The command cell -/

/-- What the cell shows after a completion (R178). -/
theorem complete_words (c : Command) (rc : ReplyCode) (data : Nat) {s : State} (h : Memory.wf s.store)
    (hd : data < 65536) :
    Memory.read32 (complete c.code rc data s).store 12 = rc.code + 65536 * data ∧
      Memory.read32 (complete c.code rc data s).store 0 = 2 + 256 * c.code ∧
      (∀ a, 16 ≤ a → Memory.read (complete c.code rc data s).store a = Memory.read s.store a) := by
  have hw := Memory.wf_write32 h 12 (rc.code + 65536 * data)
  refine ⟨?_, ?_, fun a ha => ?_⟩
  · rw [complete, Memory.read32_congr (n := Memory.write32 s.store 12 (rc.code + 65536 * data)),
      Memory.read32_write32 h, Nat.mod_eq_of_lt]
    · cases rc <;> simp only [ReplyCode.code] <;> omega
    · intro b hb hb'
      simp only [Memory.write32]
      rw [Memory.read_writeNat _ _ _ (by omega)]
  · rw [complete, Memory.read32_write32 hw, Nat.mod_eq_of_lt]
    cases c <;> simp only [Command.code] <;> omega
  · simp only [complete, Memory.write32]
    rw [Memory.read_writeNat _ _ _ (by omega), Memory.read_writeNat _ _ _ (by omega)]

theorem complete_wf (code : Nat) (rc : ReplyCode) (data : Nat) {s : State} (h : Memory.wf s.store) :
    Memory.wf (complete code rc data s).store := Memory.wf_write32 (Memory.wf_write32 h _ _) _ _

/-- After a completion the cell is not POSTED, whatever list the store is (R178). -/
theorem complete_not_posted (c : Command) (rc : ReplyCode) (data : Nat) (s : State) :
    cellPosted (complete c.code rc data s).store = false := by
  have h : BitVec.ofNat 8 (2 + 256 * c.code) = 2 := by cases c <;> rfl
  rw [cellPosted, complete, Memory.write32, Memory.read8, Memory.readNat, Memory.writeNat,
    Memory.read_writeNat _ _ _ (by omega), h, Memory.read_write_self_ne _ _ (by decide)]
  rfl

theorem commandOf_code (c : Command) : commandOf c.code = some c := by cases c <;> rfl

end Sys2Proof.Machine
end

