-- ==== Sys2Proof/Laws/State.lean ====
section
/-! SUPPORT. What each accessor reads after each update, so that no proof unfolds a record. -/

namespace Sys2Proof.Machine

/-! ## Lanes, channels, queues, classes -/

@[simp] theorem PerLane.get_set_self {α : Type} (p : PerLane α) (l : Lane) (v : α) : (p.set l v).get l = v := by
  cases l <;> rfl

theorem PerLane.get_set_ne {α : Type} (p : PerLane α) {l m : Lane} (v : α) (h : m ≠ l) : (p.set l v).get m = p.get m := by
  cases l <;> cases m <;> first | rfl | exact absurd rfl h

@[simp] theorem PerQueue.get_set_self {α : Type} (p : PerQueue α) (q : QueueId) (v : α) : (p.set q v).get q = v := by
  cases q <;> rfl

theorem PerQueue.get_set_ne {α : Type} (p : PerQueue α) {q r : QueueId} (v : α) (h : r ≠ q) :
    (p.set q v).get r = p.get r := by
  cases q <;> cases r <;> first | rfl | exact absurd rfl h

@[simp] theorem PerClass.get_set_self {α : Type} (p : PerClass α) (k : NoticeClass) (v : α) : (p.set k v).get k = v := by
  cases k <;> rfl

theorem PerClass.get_set_ne {α : Type} (p : PerClass α) {k j : NoticeClass} (v : α) (h : j ≠ k) :
    (p.set k v).get j = p.get j := by
  cases k <;> cases j <;> first | rfl | exact absurd rfl h

@[simp] theorem PerChan.get_ofFn {α : Type} (f : Chan → α) (k : Chan) : (PerChan.ofFn f).get k = f k := by cases k <;> rfl

/-- A queue number names the queue with that index, and three or more names none. -/
theorem QueueId.ofWord_index (w : Word) (q : QueueId) : QueueId.ofWord w = some q ↔ w.toNat = q.index := by
  constructor
  · intro h
    simp only [QueueId.ofWord] at h
    split at h
    · cases h; subst w; rfl
    · split at h
      · cases h; subst w; rfl
      · split at h
        · cases h; subst w; rfl
        · cases h
  · intro h
    cases q <;> simp only [QueueId.index] at h
    · rw [show w = 0 from BitVec.eq_of_toNat_eq h]; rfl
    · rw [show w = 1 from BitVec.eq_of_toNat_eq h]; rfl
    · rw [show w = 2 from BitVec.eq_of_toNat_eq h]; rfl

theorem QueueId.ofWord_none (w : Word) (h : 3 ≤ w.toNat) : QueueId.ofWord w = none := by
  cases h' : QueueId.ofWord w with
  | none => rfl
  | some q =>
    have := (QueueId.ofWord_index w q).1 h'
    cases q <;> simp only [QueueId.index] at this <;> omega

/-! ## Fields after an update -/

@[simp] theorem setBuffer_buffers (l : Lane) (b : LineBuffer) (s : State) :
    (setBuffer l b s).ee.buffers = s.ee.buffers.set l b := rfl

@[simp] theorem setBuffer_expo (l : Lane) (b : LineBuffer) (s : State) : (setBuffer l b s).ee.expo = s.ee.expo := rfl

@[simp] theorem setBin_bins (i : Fin 32) (b : Bin) (s : State) : (setBin i b s).su.bins = s.su.bins.set i.1 b i.2 := rfl

@[simp] theorem setBin_conveyor (i : Fin 32) (b : Bin) (s : State) : (setBin i b s).su.conveyor = s.su.conveyor := rfl

@[simp] theorem setLate_late (d : Fin 34) (v : Late) (s : State) : (setLate d v s).su.late = s.su.late.set d.1 v d.2 := rfl

@[simp] theorem setLate_bins (d : Fin 34) (v : Late) (s : State) : (setLate d v s).su.bins = s.su.bins := rfl

@[simp] theorem judgeLine_irq (s : State) : (judgeLine s).cu.irq = s.cu.lineLevel := rfl

@[simp] theorem judgeLine_classes (s : State) : (judgeLine s).cu.classes = s.cu.classes := rfl

@[simp] theorem occupy_classes (k : NoticeClass) (n : Notice) (held : List Notice) (s : State) :
    (occupy k n held s).cu.classes = s.cu.classes.set k { posted := some n, held := held } := rfl

@[simp] theorem setQueue_queues (q : QueueId) (c : QueueCtx) (s : State) :
    (setQueue q c s).om.queues = s.om.queues.set q c := rfl

@[simp] theorem askAttempt_attempt (s : State) : (askAttempt s).work.attempt = true := rfl

@[simp] theorem askStatus_status (s : State) : (askStatus s).work.status = true := rfl

@[simp] theorem State.readRegister_summary (s : State) : s.readRegister .summary = s.summary := rfl

@[simp] theorem State.readRegister_attn (s : State) : s.readRegister .attn = 0 := rfl

@[simp] theorem State.readRegister_clear (s : State) : s.readRegister .clear = 0 := rfl

@[simp] theorem State.readRegister_none (s : State) : s.readRegister .none = 0 := rfl

/-- Staging a mask changes the staged mask, and an attempt is owed besides where room comes to hold. -/
theorem stageMask_eq (m : LaneMask) (s : State) :
    let t : State := { s with rc := { s.rc with mask := m } }
    ((roomHolds s = true ∨ roomHolds t = false) → stageMask m s = t) ∧
      (roomHolds s = false → roomHolds t = true → stageMask m s = askAttempt t) := by
  refine ⟨fun h => if_neg ?_, fun h h' => if_pos (by simp [h, h'])⟩
  rcases h with h | h <;> simp [h]

/-- Room for the next row, as R31 counts it. -/
theorem roomHolds_iff (s : State) :
    roomHolds s = true ↔ s.wt.track.length + (if s.ca.state ≠ .due ∧ s.cfg.laneMode = .twoUp ∧ s.rc.mask = .both then 2 else 1)
      + 1 ≤ 64 := by
  simp only [roomHolds, roomFor, entriesNeeded, twoLanes, Bool.and_eq_true, decide_eq_true_eq]
  by_cases h : s.ca.state = .due <;> simp [h]

end Sys2Proof.Machine
end

