-- ==== Sys2Proof/Laws/Cell.lean ====
section
/-! SUPPORT. The command cell, the end of an event and the status block: what each shared operation comes to, said once. -/

namespace Sys2Proof.Machine

/-! ## The end of an event -/

/-- What `settle` does once a composition attempt is made and the reads have begun. -/
def settled (t : State) : State := { (if t.work.status then writeStatus t else t) with work := {} }

theorem settle_eq (s : State) : settle s = settled (startReads (if s.work.attempt then compose s else s)) := rfl

theorem settled_idle (t : State) (h : t.work = {}) : settled t = t := by
  rw [settled, if_neg (by simp [h])]
  cases t
  simp_all

/-- With nothing owed, an event ends with the line reads that can begin. -/
theorem settle_idle (s : State) (h : s.work = {}) : settle s = startReads s := by
  rw [settle_eq, if_neg (by simp [h]), settled_idle _ (by simp [h])]

theorem startRead_shape (l : Lane) (s : State) :
    startRead l s = { s with ee := { s.ee with buffers := (startRead l s).ee.buffers } } := by
  unfold startRead
  dsimp only
  split
  · rfl
  · split <;> rfl

/-- Line reads change the line buffers alone. -/
theorem startReads_shape (s : State) :
    startReads s = { s with ee := { s.ee with buffers := (startReads s).ee.buffers } } := by
  rw [startReads, startRead_shape .b, startRead_shape .a]

theorem startRead_congr (l : Lane) {s t : State} (h : t.ee = s.ee) (g : t.rc = s.rc) :
    (startRead l t).ee = (startRead l s).ee := by
  have e : nextRead t l = nextRead s l := by simp only [nextRead, exposingPrint, slotPrint, h, g]
  unfold startRead
  rw [e, h]
  dsimp only
  split
  · exact h
  · split
    · exact h
    · simp only [setBuffer, h]

/-- Line reads depend on the Exposure Engine and the slot row alone. -/
theorem startReads_congr {s t : State} (h : t.ee = s.ee) (g : t.rc = s.rc) : (startReads t).ee = (startReads s).ee :=
  have rc (u : State) : (startRead .a u).rc = u.rc := by rw [startRead_shape]
  startRead_congr .b (startRead_congr .a h g) (by rw [rc, rc, g])

/-! ## Attentions -/

/-- The pending flag at a value. -/
def setAttn (v : Bool) (s : State) : State := { s with cu := { s.cu with attnPending := v } }

theorem freeSlot_attn (k : NoticeClass) (s : State) (v : Bool) : freeSlot k (setAttn v s) = setAttn v (freeSlot k s) := by
  have e : (setAttn v s).cu.classes = s.cu.classes := rfl
  have e' : (setAttn v s).store = s.store := rfl
  unfold freeSlot
  rw [e, e']
  split
  · split <;> rfl
  · rfl

theorem readSlots_attn (s : State) (v : Bool) : readSlots (setAttn v s) = setAttn v (readSlots s) := by
  rw [readSlots, freeSlot_attn, freeSlot_attn, freeSlot_attn]
  rfl

theorem attention_eq (s : State) :
    attention s =
      if (readSlots (setAttn true s)).cu.job.isNone then serve (readSlots (setAttn true s)) else readSlots (setAttn true s) :=
  rfl

theorem serve_setAttn (s : State) (v : Bool) :
    serve (setAttn v s) = if cellPosted s.store then takeCommand (setAttn false s) else setAttn false s := rfl

/-- An attention at an idle cell: the slots are read, and a POSTED command is taken (R176, R183). -/
theorem attention_idle (s : State) (h : s.cu.job = none) :
    attention s = if cellPosted (attended s).store then takeCommand (attended s) else attended s := by
  rw [attention_eq, readSlots_attn]
  have : (setAttn true (readSlots s)).cu.job = none := by
    change (readSlots s).cu.job = none
    rw [(readSlots_frame s).2.2.1, h]
  rw [this, Option.isNone_none, if_pos rfl, serve_setAttn]
  rfl

/-- An attention at a busy cell: the slots are read, and the attention waits (R176, R183). -/
theorem attention_busy (s : State) (h : s.cu.job ≠ none) : attention s = setAttn true (attended s) := by
  rw [attention_eq, readSlots_attn]
  have : (setAttn true (readSlots s)).cu.job = s.cu.job := (readSlots_frame s).2.2.1
  rw [this, if_neg (by cases hj : s.cu.job <;> simp_all)]
  rfl

theorem freeSlot_shape (k : NoticeClass) (s : State) :
    freeSlot k s =
      { s with
        cu := { s.cu with classes := (freeSlot k s).cu.classes, irq := (freeSlot k s).cu.irq }
        store := (freeSlot k s).store } := by
  unfold freeSlot
  split
  · split <;> rfl
  · rfl

/-- The reading of the slots changes the classes, the interrupt line and the slots alone (R183). -/
theorem readSlots_shape (s : State) :
    ∃ cl irq st, readSlots s = { s with cu := { s.cu with classes := cl, irq := irq }, store := st } := by
  rw [readSlots, freeSlot_shape, freeSlot_shape .b, freeSlot_shape .a]
  exact ⟨_, _, _, rfl⟩

theorem attended_read (s : State) {a : Nat} (h : ¬inSlots a) :
    Memory.read (attended s).store a = Memory.read s.store a := readSlots_read s h

theorem attended_wf {s : State} (h : Memory.wf s.store) : Memory.wf (attended s).store := readSlots_wf h

/-- A POSTED cell with a command's code hands the command to its owner (R177). -/
theorem takeCommand_eq (u : State) (c : Command) (h : cellCode u.store = c.code) :
    takeCommand u = answered c (runCommand c (cellWord1 u.store) (cellWord2 u.store) u) := by
  unfold takeCommand
  rw [h, commandOf_code]
  dsimp only
  cases runCommand c (cellWord1 u.store) (cellWord2 u.store) u <;> rfl

/-! ## The machine status block -/

theorem openCount_lt (s : State) : openCount s < 256 := by
  have h : openCount s ≤ 8 := by
    rw [openCount]
    exact (List.length_filter_le _ _).trans (by simp)
  omega

/-- What the status block shows after a writing (R185). -/
theorem writeStatus_words {t : State} (h : Memory.wf t.store) :
    let m := (writeStatus t).store
    Memory.read8 m 0x200 = t.mc.state.code ∧ Memory.read8 m 0x201 = t.mc.faultCause.code ∧
      Memory.read8 m 0x202 = t.mc.pauseCause.code ∧ Memory.read8 m 0x203 = t.ca.state.code ∧
      Memory.readWord m 0x204 = t.wt.x ∧ Memory.readWord m 0x208 = t.wt.y ∧
      Memory.readWord m 0x20C = t.wt.x - t.wt.y ∧ Memory.read16 m 0x210 = t.ee.sample % 65536 ∧
      Memory.read8 m 0x212 = t.ee.maskInForce.code ∧ Memory.read8 m 0x213 = t.rc.mask.code ∧
      (∀ b, t.ca.bal = some b → Memory.read16 m 0x214 = b.red % 65536 ∧ Memory.read16 m 0x216 = b.green % 65536 ∧
        Memory.read16 m 0x218 = b.blue % 65536) ∧
      Memory.read8 m 0x21A = openCount t ∧ Memory.read8 m 0x21B = t.wt.track.length % 256 ∧
      Memory.readWord m 0x21C = t.wt.paperUsed ∧ Memory.readWord m 0x220 = t.wt.waste ∧
      Memory.readWord m 0x224 = currentGen t ∧ Memory.readWord m 0x228 = heldGen t ∧
      Memory.readWord m 0x22C = t.cu.lineClock := by
  intro m
  have word (w : Word) : w.toNat % 256 ^ 4 = w.toNat := Nat.mod_eq_of_lt w.isLt
  have skip (m : Memory) (a b len n k : Nat) (h : b + k ≤ a ∨ a + len ≤ b) :
      Memory.readNat (Memory.writeNat m a len n) b k = Memory.readNat m b k := Memory.readNat_writeNat m len n k h
  have c1 (x : MachineState) : x.code < 256 := by cases x <;> decide
  have c2 (x : FaultCause) : x.code < 256 := by cases x <;> decide
  have c3 (x : PauseCause) : x.code < 256 := by cases x <;> decide
  have c4 (x : CalState) : x.code < 256 := by cases x <;> decide
  have c5 (x : LaneMask) : x.code < 256 := by cases x <;> decide
  refine ⟨?_, ?_, ?_, ?_, ?_, ?_, ?_, ?_, ?_, ?_, fun b hb => ⟨?_, ?_, ?_⟩, ?_, ?_, ?_, ?_, ?_, ?_, ?_⟩
  all_goals
    simp only [m, writeStatus, Memory.read8, Memory.read16, Memory.readWord, Memory.read32, Memory.write8,
      Memory.write16, Memory.write32, Memory.writeWord]
    try simp (disch := omega) only [skip]
    rw [Memory.readNat_writeNat_self (by
      repeat' first | with_reducible exact h | with_reducible apply Memory.wf_writeNat)]
    first
      | rw [Nat.mod_eq_of_lt (by first | exact c1 _ | exact c2 _ | exact c3 _ | exact c4 _ | exact c5 _ | exact openCount_lt _)]
      | exact (congrArg _ (word _)).trans (BitVec.eq_of_toNat_eq (by simp))
      | (rw [hb]; rfl)
      | rfl

end Sys2Proof.Machine
end

