-- ==== Sys2Proof/Tests/Slice0.lean ====
section
/-! SUPPORT. Tests: ill-formed commands are refused, the spec's worked examples come out as the spec prints them, and every
statement's hypotheses are met by a state shown here. -/

namespace Sys2Proof.Tests

open Sys2Proof Sys2Proof.Machine

/-! ## Helpers -/

/-- What a next state shows; false after a fault or a refusal. -/
def shows (o : Outcome) (p : State → Bool) : Bool :=
  match o with
  | .next t => p t
  | .fault _ | .refused _ => false

/-- Whether an outcome is a refusal. -/
def isRefused (o : Outcome) : Bool :=
  match o with
  | .refused _ => true
  | .next _ | .fault _ => false

/-- A two-up configuration on paper 2100 tenths wide, with the stations of the worked example in spec/07. -/
def lab : Conf :=
  { paperWidth := 2100, laneMode := .twoUp, initMask := .both, markWin := 40, clipLimit := 5, loopMax := 6000
    minPiece := 600, lDens := 1000, lMk := 2400, lCut := 2600, thetaRef := 140, thetaMax := 200, calDrift := 8
    binCount := 8, pMin := 40, binCap := 25, confirmLimit := 1500, unloadLimit := 600
    sizes := [none, some ⟨1020, 1520, 1⟩, some ⟨1020, 1270, 1⟩]
    initBal := ⟨4096, 4096, 4096⟩, target := ⟨1000, 1000, 1000⟩ }

/-- The part configured and in a machine state. -/
def inState (m : MachineState) : State := { conf := some lab, mc := { state := m } }

/-- A store that holds words at rising addresses. -/
def words (l : List (Nat × Nat)) : Memory := l.foldl (fun m w => Memory.write32 m w.1 w.2) []

/-- A print entry of lane A or B. -/
def printAt (x0 : Word) (l : Lane) (number : Word) (slot : Fin 8) (stage : Stage) (len : Nat := 1524) : Entry :=
  { kind := .print, lane := l, ref := some ⟨slot, number, 0, 1, 1⟩, x0 := some x0, length := len, stage := stage }

/-- An open order of one item with no bins. -/
def order (number : Word) (n : Nat) : OpenOrder :=
  { addr := 65536, number := number, queue := .standard, seq := 0, cursor := none, nPrints := n, composed := n, bins := []
    gen := none, tier := 0, promo := 0, phase := .composed, items := [{}] }

/-- An open-order table with one order. -/
def tableWith (i : Fin 8) (o : OpenOrder) : Vector (Option OpenOrder) 8 := (Vector.replicate 8 none).set i.1 (some o) i.2

/-! ## Ill-formed commands -/

theorem smoke_attn_store : (Instr.attn 0 [⟨268435456, 1⟩]).wellFormed = false := by decide
theorem smoke_temperature : (Instr.headTemperatureSample 401).wellFormed = false := by decide
theorem smoke_density : (Instr.densitometerReading 0 4096 0).wellFormed = false := by decide
theorem smoke_refused :
    isRefused (exec (.attn 0 [⟨268435456, 1⟩]) State.reset) ∧ isRefused (exec (.headTemperatureSample 401) State.reset) ∧
      isRefused (exec (.densitometerReading 0 4096 0) State.reset) := by decide
theorem smoke_bounds :
    (Instr.attn 0 [⟨268435455, 1⟩]).wellFormed ∧ (Instr.headTemperatureSample 400).wellFormed ∧
      (Instr.densitometerReading 4095 0 4095).wellFormed := by decide

/-- The table gives no row any bits. -/
theorem decode_none : decodeTableWord 8 0 = none := rfl

/-! ## Arithmetic: spec/03, spec/05, spec/09, R26 -/

/-- The green knots of "one green value". -/
def greenCurve : List Nat := [0, 0, 0, 0, 0, 0, 1180, 1052]

/-- The exposure knots of the two green examples. -/
def greenTable : List Nat := [0, 0, 0, 0, 0, 0, 0, 5800, 6400, 7040, 7720, 8420]

/-- The configuration of "one green value" with a temperature coefficient: element 0 has the green gain 4300. -/
def greenConf (k : Int) : Conf :=
  { tempCoef := ⟨0, k, 0⟩, pMin := 40, thetaRef := 140, curve := ⟨[], greenCurve, []⟩, table := ⟨[], greenTable, []⟩
    gains := [(7328, 0xCC), (7329, 0x10)] }

/-- A row context at temperature 180 and the green balance 4500. -/
def greenCtx (k : Int) : RowContext :=
  { theta := 180, phi := ⟨0, tempFactor k 180 140, 0⟩, bal := some ⟨0, 4500, 0⟩, mask := none, stale := false }

theorem test_oneGreenValue :
    density greenCurve 100 = 1148 ∧ exposure greenTable 1148 = 7020 ∧ scale 7020 4300 = 7370 ∧
      tempFactor (-12) 180 140 = 3616 ∧ driveValue (greenConf (-12)) (greenCtx (-12)) .green 0 100 = 447 := by decide

theorem test_factorAtItsLimit :
    tempFactor (-40) 180 140 = 3072 ∧ driveValue (greenConf (-40)) (greenCtx (-40)) .green 0 100 = 380 := by decide

theorem test_shortPulses :
    shortPulse 40 (ticks 300) = 0 ∧ shortPulse 40 (ticks 320) = 40 ∧ shortPulse 40 (ticks 400) = 40 ∧
      shortPulse 40 (ticks 632) = 40 := by decide

theorem test_balances :
    exposure greenTable 1000 = 6288 ∧ exposure greenTable 1060 = 6580 ∧ exposure greenTable 1300 = 7829 ∧
      newBalance 4500 6288 6580 = 4300 ∧ newBalance 4500 6288 7829 = 3938 ∧ newBalance 2200 1 1000 = 2048 := by decide

/-- R26: a lane's span and the first element of a print 1020 tenths wide. -/
theorem test_lanes :
    paperFirst lab = 572 ∧ laneWidth lab = 1030 ∧ printFirst lab .a 1020 = 590 ∧ printFirst lab .b 1020 = 1850 := by decide

/-- The generation of "one order priced", with the promotion given. -/
def priced (p : Promotion) : PriceTable :=
  { lines := [⟨1, none, none, 35, [⟨25, 30⟩, ⟨100, 25⟩]⟩, ⟨3, none, none, 90, []⟩], promos := [p], minCharge := 500 }

/-- The tally of "one order priced". -/
def tally48 : List TallyEntry := [⟨⟨1, 2⟩, 48⟩, ⟨⟨3, 2⟩, 5⟩]

theorem test_onePriced :
    priceTally (priced ⟨410, .percent, 10, 8, 1000⟩) 0 410 tally48 = { subtotal := 1890, discount := 45, total := 1845 } ∧
      (priceTally (priced ⟨410, .freeNth, 10, 2, 1000⟩) 0 410 tally48).total = 1770 ∧
      (priceTally (priced ⟨410, .fixedOff, 600, 8, 1000⟩) 0 410 tally48).total = 1440 := by decide

theorem test_notMet :
    priceTally (priced ⟨410, .percent, 10, 8, 1000⟩) 0 410 [⟨⟨3, 2⟩, 5⟩] =
      { subtotal := 450, total := 500, promoNotMet := true, minCharge := true } := by decide

/-- "Matching by specificity". -/
def specific : List PriceLine :=
  [⟨1, none, none, 40, []⟩, ⟨1, none, some 2, 36, []⟩, ⟨1, some 3, none, 38, []⟩, ⟨3, none, none, 90, []⟩,
   ⟨1, some 3, none, 33, []⟩]

theorem test_specific :
    (lineFor specific ⟨1, 3⟩ 2).map (·.base) = some 38 ∧ (lineFor specific ⟨3, 3⟩ 2).map (·.base) = some 90 ∧
      lineFor specific ⟨5, 3⟩ 2 = none := by decide

/-! ## The host's commands -/

theorem test_attn_idle : shows (exec (.attn 7 [⟨0, 1⟩, ⟨1, 77⟩]) State.reset) fun t =>
    Memory.read32 t.store 12 = 11 ∧ Memory.read32 t.store 0 = 2 + 256 * 77 := by decide

theorem test_clear : shows (exec (.clear 5) { inState .running with cu := { lineClock := 9 }, store := [(4096, 1)] }) fun t =>
    t.summary = 0 ∧ t.cu.lineClock = 0 ∧ t.conf = none ∧ t.store = [(4096, 1)] := by decide

theorem test_powerUp : shows (exec .powerUp (inState .faulted)) fun t => t.mc.state = .cleared ∧ t.pu.counter = 1 := by decide

theorem test_registerWriteIgnored :
    shows (exec (.registerWriteIgnored 12 3) (inState .running)) fun t => t = inState .running := by decide

theorem test_readRegister :
    let s : State := { inState .faulted with cu := { irq := true } }
    s.readRegister .summary = 0x105 ∧ s.readRegister .attn = 0 ∧ s.readRegister .clear = 0 ∧ s.readRegister .none = 0 := by decide

theorem test_configure_address : shows (exec (.configure 4097) State.reset) fun t =>
    Memory.read32 t.store 12 = 3 ∧ t.cu.job = none := by decide

theorem test_configure_reads : shows (exec (.configure 4096) State.reset) fun t =>
    t.cu.job = some (.configure 4096) ∧ Memory.read8 t.store 0 = 1 := by decide

/-- "A refused configuration": MARK_WIN 150 is named, offset 6. -/
theorem test_configureComplete_refused :
    shows (exec .configureComplete
      { cu := { job := some (.configure 4096) }, store := words [(4096, 2100 + 65536 * 512), (4100, 1 + 65536 * 150)] })
      fun t => Memory.read32 t.store 12 = 4 + 65536 * 6 := by decide

theorem test_start : shows (exec .start (inState .ready)) fun t =>
    t.mc.state = .running ∧ t.ca.state = .due ∧ t.rc.firstCal ∧ (t.rc.slot.any fun r => r.kind = .calib) ∧
      Memory.read8 t.store 0x200 = 2 := by decide

theorem test_start_refused : shows (exec .start State.reset) fun t =>
    t.mc.state = .cleared ∧ Memory.read32 t.store 12 = 2 := by decide

theorem test_pause : shows (exec .pause { inState .running with wt := { track := [printAt 0 .a 9 0 .inLoop] } }) fun t =>
    t.mc.state = .pausing ∧ t.mc.pauseCause = .host := by decide

set_option maxRecDepth 4000 in
theorem test_clearFault : shows (exec .clearFault
    { inState .faulted with mc := { state := .faulted, faultCause := .jamWeb, convStop := true } }) fun t =>
    t.mc = { state := .paused, pauseCause := .faultCleared } := by decide

theorem test_clearFault_present : shows (exec .clearFault { inState .faulted with pins := { webJam := true } }) fun t =>
    t.mc.state = .faulted ∧ Memory.read32 t.store 12 = 10 + 65536 * 2 := by decide

/-- "Starting a queue and lengthening it", step 4. -/
theorem test_initiate : shows (exec (.initiate 1 0x10000) (inState .paused)) fun t =>
    t.om.queues.standard.state = .active ∧ t.om.queues.standard.next = 0x10000 ∧ Memory.read32 t.store 12 = 1 ∧
      Memory.read8 t.store 0x120 = 1 := by decide

theorem test_initiate_refused : shows (exec (.initiate 3 0x10000) (inState .paused)) fun t =>
    Memory.read32 t.store 12 = 3 := by decide

/-- The standard queue parked at 0x10400, whose link is given. -/
def parkedAt (link : Nat) : State :=
  { inState .paused with
    om := { queues := ⟨{}, { state := .parked, tail := 0x10400 }, {}⟩ }, store := words [(0x10400, link)] }

theorem test_resume : shows (exec (.resume 1) (parkedAt 0x10800)) fun t =>
    t.om.queues.standard.state = .active ∧ t.om.queues.standard.next = 0x10800 ∧ Memory.read32 t.store 12 = 1 := by decide

theorem test_resume_end : shows (exec (.resume 1) (parkedAt 0)) fun t =>
    t.om.queues.standard.state = .parked ∧ Memory.read32 t.store 12 = 7 := by decide

theorem test_releaseQueue : shows (exec (.releaseQueue 1) (parkedAt 0)) fun t =>
    t.om.queues.standard = { state := .idle, tail := 0x10400 } := by decide

/-- "Withdrawal with prints in flight": order 5120 in slot 3. -/
def order5120 : OpenOrder :=
  { addr := 65536, number := 5120, queue := .standard, seq := 0, cursor := some ⟨1, 2⟩, nPrints := 6, composed := 5
    good := 2, rejected := 1, bins := [⟨7, false⟩], gen := none, tier := 0, promo := 0, items := [{ good := 2 }, {}] }

def withdrawing : State :=
  { inState .running with
    om := { table := tableWith 3 order5120 }
    rc := { remakes := [⟨3, 5120, 1, 1, 2⟩], slot := some { kind := .calib, length := 240, mask := .both } }
    wt := { track := [
      { printAt 0 .a 5120 3 .processing with ref := some ⟨3, 5120, 0, 3, 1⟩ },
      { printAt 1524 .a 5120 3 .conveyor with ref := some ⟨3, 5120, 0, 4, 1⟩ },
      { printAt 3048 .a 5120 3 .inLoop with ref := some ⟨3, 5120, 1, 1, 1⟩, flags := { underrun := true, reject := true } }] }
    store := words [(65608, 4 * 65536 + 1), (65640, 2 * 65536 + 1)] }

theorem test_withdraw : shows (exec (.withdraw 5120 1) withdrawing) fun t =>
    (t.om.table[3].any fun o => o.dropped = 3 ∧ o.good = 2 ∧ o.phase = .withdrawing true ∧ o.cursor = none) ∧
      t.rc.remakes = [] ∧ (t.wt.track.map (·.flags.withdrawn)) = [true, false, false] := by decide

theorem test_withdraw_refused : shows (exec (.withdraw 5121 1) withdrawing) fun t => Memory.read32 t.store 12 = 8 := by decide

theorem test_setLanes :
    (shows (exec (.setLanes 2) (inState .paused)) fun t => t.rc.mask = .bOnly) ∧
    shows (exec (.setLanes 4) (inState .paused)) fun t => t.rc.mask = .aOnly ∧ Memory.read32 t.store 12 = 3 := by decide

theorem test_recalibrate : shows (exec .recalibrate { inState .paused with ca := { state := .stale, invalid := 3 } }) fun t =>
    t.ca.state = .due ∧ t.ca.invalid = 0 := by decide

theorem test_loadPrices_busy : shows (exec (.loadPrices 4096)
    { inState .ready with pu := { gens := Vector.replicate 2 (some ⟨true, 1, priced ⟨410, .percent, 10, 8, 0⟩, 1⟩) } }) fun t =>
    Memory.read32 t.store 12 = 9 := by decide

/-- "Three loads in a day": a table of one line is loaded while generation 1 is held twice. -/
theorem test_loadPricesComplete : shows (exec .loadPricesComplete
    { inState .ready with
      cu := { job := some (.loadPrices 4096) }
      pu := { gens := (Vector.replicate 2 none).set 0 (some ⟨true, 1, priced ⟨410, .percent, 10, 8, 0⟩, 2⟩), counter := 2 }
      store := words [(4096, 1)] }) fun t =>
    t.pu.counter = 3 ∧ (t.pu.gens[0].any fun g => !g.current ∧ g.hold = 2) ∧
      (t.pu.gens[1].any fun g => g.current ∧ g.number = 2 ∧ g.hold = 0) := by decide

/-- Bin `i` at a state, all others free. -/
def binsWith (i : Fin 32) (b : Bin) : Vector Bin 32 := (Vector.replicate 32 {}).set i.1 b i.2

theorem test_releaseBin : shows (exec (.releaseBin 6)
    { inState .paused with su := { bins := binsWith 6 { state := .complete, delivered := 14, doorOpen := true } } }) fun t =>
    t.su.bins[6] = { doorOpen := true } := by decide

theorem test_sectionResetExposure : shows (exec .sectionResetExposure
    { inState .paused with ee := { hot := true }, rc := { hot := true } }) fun t =>
    !t.ee.hot ∧ !t.rc.hot ∧ t.rc.mask = .both := by decide

theorem test_sectionResetCutter : shows (exec .sectionResetCutter { inState .faulted with ct := { misses := 2 } }) fun t =>
    t.ct.misses = 0 := by decide

theorem test_sectionResetSorter : shows (exec .sectionResetSorter
    { inState .paused with
      wt := { track := [printAt 0 .a 9 0 .conveyor] }
      su := { conveyor := [⟨⟨some 0, .a, .print⟩, 6, 0⟩], bins := binsWith 6 { routed := 1 } } }) fun t =>
    t.wt.track = [] ∧ t.su.conveyor = [] ∧ t.su.bins[6].routed = 0 ∧ t.su.late[6].count = 1 := by decide

/-! ## The head -/

/-- A print of 2 elements in lane A. -/
def smallPrint : PrintSpec := { ref := ⟨0, 9, 0, 1, 1⟩, image := 65536, width := 2, height := 8, stride := 64, first := 590 }

/-- A print row that exposes from `x0` with nothing fetched. -/
def exposing (x0 : Word) (len : Nat) : Exposing :=
  .row { kind := .print, x0 := x0, length := len, ctx := none, prints := ⟨some { spec := smallPrint }, none⟩ }

theorem test_imageLineReadComplete : shows (exec (.imageLineReadComplete .a)
    { inState .running with
      store := [(65537, 7)], ee := { buffers := ⟨{ reading := some ⟨.exposing, 0, 65536, 6⟩ }, {}⟩, expo := some (exposing 0 8) } })
    fun t => (t.ee.buffers.a.lines.map (·.data)) = [[0, 7, 0, 0, 0, 0]] := by decide

/-- A green value clamped beneath the boundary mark is sent as the mark's value and is counted for its print (R55, R69). -/
theorem test_clipUnderMark :
    let c : Conf := { lab with paperWidth := 3050, table := ⟨[], List.replicate 33 65535, []⟩, gains := [(7332, 0xFF), (7333, 0x17)] }
    underMark c 2 = true ∧ clipsOfLine c (greenCtx 0) { smallPrint with first := 2, width := 1 } [0, 9, 0] = 1 := by decide

/-- The slot row of a calibration patch. -/
def calibSlot : SlotRow := { kind := .calib, length := 240, mask := .both }

theorem test_leadInStart : shows (exec .leadInStart { inState .running with rc := { slot := some calibSlot } }) fun t =>
    t.ee.expo = some (.leadIn 0 false) := by decide

theorem test_leadInEnd : shows (exec .leadInEnd
    { inState .running with wt := { x := 4 }, rc := { slot := some calibSlot }, ee := { expo := some (.leadIn 4 false) } }) fun t =>
    t.ee.expo = none ∧ t.ee.continuity := by decide

theorem test_rowStart : shows (exec .rowStart
    { inState .running with
      wt := { x := 4, track := [{ kind := .calib, lane := .a, length := 240 }] }, rc := { slot := some calibSlot }
      ee := { continuity := true, sample := 150 }, ca := { state := .due, bal := some ⟨4096, 4096, 4096⟩ } }) fun t =>
    t.ca.patch = some ⟨4, 150, some ⟨4096, 4096, 4096⟩⟩ ∧ t.ca.state = .inFlight ∧ t.rc.slot = none ∧
      (t.ct.queue.map (·.pos)) = [4] ∧ (t.wt.track.map (·.x0)) = [some 4] := by decide

theorem test_exposureFeedStep_leadIn : shows (exec .exposureFeedStep
    { inState .running with ee := { expo := some (.leadIn 3 false) } }) fun t =>
    t.wt.x = 1 ∧ t.wt.waste = 1 ∧ t.ee.expo = some (.leadIn 4 false) := by decide

/-- An underrun at line 1 of a one-sided two-up row, which counts as waste (R72, R105). -/
theorem test_exposureFeedStep_underrun : shows (exec .exposureFeedStep
    { inState .running with wt := { x := 101, track := [printAt 100 .a 9 0 .exposing] }, ee := { expo := some (exposing 100 8) } })
    fun t => t.wt.x = 102 ∧ t.wt.waste = 1 ∧ (t.wt.track.map (·.flags.underrun)) = [true] := by decide

/-- "An underrun in lane B" in lane A: the print is rejected, and its copy joins the remake list with attempt 2 (R73, R42). -/
theorem test_rowEnd : shows (exec .rowEnd
    { inState .running with
      om := { table := tableWith 0 (order 9 1) }
      rc := { slot := some calibSlot }
      wt := { x := 108, y := 50, track := [{ printAt 100 .a 9 0 .exposing with flags := { underrun := true } }] }
      ee := { expo := some (exposing 100 8) } }) fun t =>
    t.rc.remakes = [⟨0, 9, 0, 1, 2⟩] ∧ (t.wt.track.map fun e => (e.flags.reject, e.stage)) = [(true, .inLoop)] ∧
      (t.om.table[0].any fun o => o.rejected = 1) := by decide

theorem test_calibOrBlankRowEnd : shows (exec .calibOrBlankRowEnd
    { inState .running with
      wt := { x := 340, y := 200, track := [{ kind := .calib, lane := .a, x0 := some 100, length := 240, stage := .exposing }] }
      ee := { expo := some (.row { kind := .calib, x0 := 100, length := 240, ctx := none }) } }) fun t =>
    t.ee.expo = none ∧ (t.wt.track.map (·.stage)) = [.processing] := by decide

theorem test_headTemperatureSample : shows (exec (.headTemperatureSample 201) { inState .running with cu := { lineClock := 250 } })
    fun t => t.ee.hot ∧ t.rc.hot ∧ t.ee.sample = 201 ∧ Memory.read32 t.store 0x40 = 1 + 256 * 3 := by decide

/-! ## The web, the patch and the knife -/

theorem test_processFeedStep : shows (exec .processFeedStep
    { inState .running with wt := { x := 200, y := 99, track := [printAt 100 .a 9 0 .inLoop] } }) fun t =>
    t.wt.y = 100 ∧ (t.wt.track.map (·.stage)) = [.processing] := by decide

/-- "A balance update" in all three channels. -/
theorem test_densitometerReading : shows (exec (.densitometerReading 1060 1060 1300)
    { inState .running with
      conf := some { lab with table := ⟨greenTable, greenTable, greenTable⟩ }
      wt := { x := 2000, y := 1100 }
      ca := { state := .inFlight, bal := some ⟨4500, 4500, 4500⟩, patch := some ⟨100, 150, none⟩ } }) fun t =>
    t.ca = { state := .valid, bal := some ⟨4300, 4300, 3938⟩, thetaCal := 150 } := by decide

/-- "Four cuts with a missed mark": rows R1, R2 and R3 with their boundaries, and Y. -/
def fourCuts (y : Word) (queue : List Boundary) : State :=
  { inState .running with
    ct := { queue := queue }
    wt := {
      x := 57000, y := y
      track := [
        printAt 50000 .a 850 0 .processing, printAt 50000 .b 851 1 .processing,
        { kind := .blank, lane := .a, x0 := some 51524, length := 600, stage := .processing },
        printAt 52124 .a 852 2 .processing] } }

def boundary1 : Boundary := { pos := 51524, rowAfter := some 51524, rowBefore := some 50000 }
def boundary2 : Boundary := { pos := 52124, rowAfter := some 52124, rowBefore := some 51524 }

theorem test_markWindowOpen :
    (shows (exec .markWindowOpen (fourCuts 53884 [boundary1, boundary2])) fun t =>
      (t.ct.queue.map (·.window)) = [.opened, .ahead]) ∧
    shows (exec .markWindowOpen (fourCuts 53883 [boundary1, boundary2])) fun t =>
      (t.ct.queue.map (·.window)) = [.ahead, .ahead] := by decide

theorem test_markReport : shows (exec (.markReport 53927) (fourCuts 53930 [{ boundary1 with window := .opened }])) fun t =>
    (t.ct.queue.map fun b => (b.mark, b.delta, b.window)) = [(.seen, 3, .closed)] := by decide

theorem test_knifeFire : shows (exec .knifeFire
    (fourCuts 54127 [{ boundary1 with mark := .seen, delta := 3, window := .closed }, boundary2])) fun t =>
    t.su.awaiting = [⟨some 50000, .a, .print⟩, ⟨some 50000, .b, .print⟩] ∧ (t.ct.queue.map (·.pos)) = [52124] := by decide

theorem test_knifeFire_waits : shows (exec .knifeFire
    (fourCuts 54126 [{ boundary1 with mark := .seen, delta := 3, window := .closed }])) fun t =>
    t.su.awaiting = [] := by decide

theorem test_markMissed : shows (exec .markMissed (fourCuts 54565 [{ boundary2 with window := .opened }])) fun t =>
    t.ct.misses = 1 ∧ (t.wt.track.map (·.flags.markMissed)) = [false, false, false, true] := by decide

theorem test_marksLost : shows (exec .markMissed
    { fourCuts 54565 [{ boundary2 with window := .opened }] with
      ct := { queue := [{ boundary2 with window := .opened }], misses := 1 } }) fun t =>
    t.mc.state = .faulted ∧ t.mc.faultCause = .marksLost ∧ t.wt.track = [] ∧ t.ct.queue = [] := by decide

/-! ## The sorter: "A large order over two bins with a door opened" -/

/-- Order 7304 in slot 2 with its bin list, on one conveyor or diverter. -/
def order7304 : OpenOrder := { order 7304 40 with bins := [⟨5, false⟩, ⟨6, false⟩], good := 20 }

def key7304 : EntryKey := ⟨some 100, .a, .print⟩

def sorting (b5 : Bin) (conveyor : List ConvEntry) (awaiting : List EntryKey) : State :=
  { inState .running with
    cu := { lineClock := 812400 }
    om := { table := tableWith 2 order7304 }
    rc := { slot := some calibSlot }
    wt := { track := [printAt 100 .a 7304 2 .cut] }
    su := { bins := binsWith 5 b5, conveyor := conveyor, awaiting := awaiting } }

def bin5 : Bin := { state := .filling, owner := some ⟨2, 7304⟩, delivered := 20, routed := 2 }

theorem test_pieceAtDiverter : shows (exec .pieceAtDiverter (sorting bin5 [] [key7304])) fun t =>
    t.su.conveyor = [⟨key7304, 5, 812400⟩] ∧ t.su.bins[5].routed = 3 ∧ (t.wt.track.map (·.stage)) = [.conveyor] := by decide

theorem test_pieceAtDiverter_split : shows (exec .pieceAtDiverter (sorting { bin5 with doorOpen := true } [] [key7304])) fun t =>
    t.su.conveyor = [⟨key7304, 33, 812400⟩] ∧ (t.wt.track.map (·.flags.split)) = [true] ∧
      Memory.read32 t.store 0x60 = 3 + 256 * 4 ∧ Memory.read32 t.store 0x64 = 5 := by decide

theorem test_arrival : shows (exec (.arrival 5) (sorting bin5 [⟨key7304, 5, 812400⟩] [])) fun t =>
    t.su.bins[5].delivered = 21 ∧ t.su.bins[5].routed = 1 ∧ t.su.conveyor = [] ∧ t.wt.track = [] ∧
      (t.om.table[2].any fun o => o.good = 21) := by decide

theorem test_arrival_late : shows (exec (.arrival 5)
    { sorting bin5 [] [] with su := { late := (Vector.replicate 34 {}).set 5 { count := 1, expiry := 815400 } } }) fun t =>
    t.su.late[5].count = 0 ∧ Memory.read32 t.store 0x40 = 1 + 256 * 6 ∧ Memory.read32 t.store 0x44 = 5 := by decide

theorem test_misrouted : shows (exec .misrouted
    { sorting bin5 [⟨key7304, 5, 812400⟩] [] with cu := { lineClock := 813900 } }) fun t =>
    t.su.late[5] = { count := 1, expiry := 815400 } ∧ t.su.bins[5].routed = 1 ∧ t.rc.remakes = [⟨2, 7304, 0, 1, 2⟩] ∧
      Memory.read32 t.store 0x40 = 1 + 256 * 7 := by decide

theorem test_lateExpiry : shows (exec (.lateExpiry 5)
    { inState .running with
      cu := { lineClock := 815400 }, su := { late := (Vector.replicate 34 {}).set 5 { count := 3, expiry := 815400 } } }) fun t =>
    t.su.late[5].count = 0 := by decide

theorem test_binWaiting : shows (exec (.binWaiting 6)
    { inState .running with
      cu := { lineClock := 600 }, su := { bins := binsWith 6 { state := .complete, countdown := some 600 } } }) fun t =>
    t.su.bins[6].countdown = none ∧ Memory.read32 t.store 0x60 = 3 + 256 * 2 ∧ Memory.read32 t.store 0x64 = 6 := by decide

theorem test_doorOpen : shows (exec (.doorOpen 5) (sorting bin5 [] [])) fun t =>
    t.su.bins[5] = { bin5 with doorOpen := true } ∧ Memory.read32 t.store 0x60 = 3 + 256 * 3 := by decide

/-- The early unload of a FULL bin marks its place in the record (R139). -/
theorem test_doorClose : shows (exec (.doorClose 5)
    { sorting { bin5 with state := .full, delivered := 25, routed := 0, doorOpen := true } [] [] with
      pins := { doors := (Vector.replicate 32 false).set 5 true } }) fun t =>
    t.su.bins[5] = {} ∧ (t.om.table[2].any fun o => o.bins = [⟨5, true⟩, ⟨6, false⟩]) ∧
      Memory.read8 t.store (65536 + 0x1C) = 69 := by decide

/-! ## The line as a whole -/

theorem test_paperEnd : shows (exec (.paperEnd true)
    { inState .running with wt := { track := [printAt 0 .a 9 0 .inLoop] } }) fun t =>
    t.wt.paperEnd ∧ t.mc.state = .pausing ∧ t.mc.pauseCause = .paperOut := by decide

theorem test_drainComplete : shows (exec .drainComplete
    { inState .pausing with
      mc := { state := .pausing, pauseCause := .host }
      wt := { track := [{ kind := .blank, lane := .a, x0 := some 0, length := 600, stage := .processing }] } }) fun t =>
    t.mc = { state := .paused, pauseCause := .host } ∧ t.wt.track = [] ∧ Memory.read32 t.store 0x40 = 1 + 256 * 2 := by decide

theorem test_lineStopInput : shows (exec (.lineStopInput true) (inState .paused)) fun t =>
    t.mc = { state := .faulted, faultCause := .coverOpen, convStop := true } ∧ Memory.read8 t.store 0x201 = 1 := by decide

/-- "The cut queue after a web jam": the two boundaries that are kept. -/
theorem test_webJamSensor : shows (exec (.webJamSensor true)
    { inState .running with
      wt := {
        x := 35500, y := 33000
        track := [
          printAt 29124 .a 1 0 .processing, { kind := .calib, lane := .a, x0 := some 30648, length := 240, stage := .processing },
          printAt 30888 .a 3 0 .processing, { kind := .blank, lane := .a, x0 := some 32412, length := 600, stage := .processing },
          printAt 33012 .a 5 0 .inLoop, printAt 34536 .a 6 0 .exposing] }
      ee := { expo := some (exposing 34536 1524) }
      ct := { queue := [
        { pos := 30648, rowAfter := some 30648, rowBefore := some 29124 },
        { pos := 30888, rowAfter := some 30888, rowBefore := some 30648 },
        { pos := 32412, rowAfter := some 32412, rowBefore := some 30888 },
        { pos := 33012, rowAfter := some 33012, rowBefore := some 32412 },
        { pos := 34536, rowAfter := some 34536, rowBefore := some 33012 }] } }) fun t =>
    (t.ct.queue.map fun b => (b.pos, b.rowAfter, b.rowBefore)) = [(33012, some 33012, none), (34536, none, some 33012)] ∧
      (t.wt.track.map (·.x0)) = [some 33012] ∧ t.mc.faultCause = .jamWeb := by decide

theorem test_conveyorJamSensor : shows (exec (.conveyorJamSensor true) (inState .ready)) fun t =>
    t.mc.state = .ready ∧ t.pins.convJam := by decide

theorem test_lineClockTick : shows (exec .lineClockTick { cu := { lineClock := 4294967295 } }) fun t =>
    t.cu.lineClock = 0 := by decide

/-- An empty queue idles, and the front command is the one carried out. -/
theorem test_step : shows (step State.reset) (fun t => t = State.reset) ∧
    shows (step { pending := [.lineClockTick, .powerUp] }) fun t => t.cu.lineClock = 1 ∧ t.pending = [.powerUp] := by decide

/-! ## Witnesses: for every statement with hypotheses, states and operands that meet those of each of its clauses -/

theorem canonical_of {s : State} (h : Memory.wf s.store) : StoreCanonical s := h

theorem calm_of {s : State} (h : s.pins.lineStop = false ∧ s.pins.webJam = false ∧ s.pins.convJam = false ∧ s.ct.misses ≠ 2) :
    noCondition s := by
  obtain ⟨h1, h2, h3, h4⟩ := h
  intro c
  cases c <;> simp [present, CtState.marksLost, *]

theorem alarmed_of {s : State} (c : FaultCause) (h : present s c = true) : ¬noCondition s := fun n => by
  rw [n c] at h; cases h

/-- A part with a byte of its store written. -/
def written : State := { inState .running with store := [(4096, 255)] }

theorem witness_WhatMovesWhat :
    let c : Instr := .exposureFeedStep
    (∃ t, exec .lineClockTick { cu := { lineClock := 4294967295 } } = .next t) ∧
    (∃ t, exec c { inState .running with wt := { x := 4294967295 }, ee := { expo := some (.leadIn 3 false) } } = .next t) ∧
      (∀ v, c ≠ .clear v) ∧ c ≠ .powerUp := ⟨⟨_, rfl⟩, ⟨_, rfl⟩, nofun, nofun⟩

theorem witness_MachineStateTransitions :
    ControlConsistent (inState .ready) ∧ ∃ t, exec .start (inState .ready) = .next t :=
  ⟨⟨by decide, by decide, by decide, by decide⟩, _, rfl⟩

theorem witness_PostedCommandTaken :
    StoreCanonical written ∧ written.cu.job = none ∧ Memory.read32 (words [(0x60, 1)]) NoticeClass.c.slotAddr ≠ 0 ∧
      StoreCanonical { written with store := words [(0x60, 1)] } :=
  ⟨canonical_of (by decide), rfl, by decide, canonical_of (by decide)⟩

/-- A part that reads a configuration record. -/
def reading : State := { written with cu := { job := some (.configure 268434944) } }

theorem witness_CellAnswersOrWaits :
    StoreCanonical reading ∧ reading.cu.job = some (.configure 268434944) ∧ postedBy .start = some .start ∧
      65535 < 65536 ∧ reading.cu.attnPending = false ∧ reading.work = {} :=
  ⟨canonical_of (by decide), rfl, rfl, by decide, rfl, rfl⟩

theorem witness_AttentionAtTheCell :
    StoreCanonical written ∧ (∃ w ∈ [(⟨268435456, 1⟩ : HostWrite)], Config.storeBytes ≤ w.addr) ∧
    (∀ w ∈ [(⟨268435455, 1⟩ : HostWrite), ⟨0, 1⟩, ⟨1, 14⟩], w.addr < Config.storeBytes) ∧
    StoreCanonical reading ∧ reading.cu.job = some (.configure 268434944) ∧ written.cu.job = none ∧
    (let m (code : Byte) : Memory := (attended { written with
       store := Memory.hostWrites written.store [⟨268435455, 1⟩, ⟨0, 1⟩, ⟨1, code⟩], work := {} }).store
     Memory.read8 (attended { written with work := {} }).store 0 % 4 ≠ 1 ∧
       Memory.read8 (m 14) 0 % 4 = 1 ∧ Memory.read8 (m 0) 1 = 0 ∧ 13 < Memory.read8 (m 14) 1 ∧
       Memory.read8 (m 13) 1 = Command.code .sectionReset ∧ Memory.read8 (m 1) 1 = Command.code .configure) :=
  ⟨canonical_of (by decide), by decide, by decide, canonical_of (by decide), rfl, rfl, by decide⟩

/-- A notice of class C. -/
def wanted (subject : Word) : Notice := { cause := .paperWanted, subject := subject, stamp := 5 }

/-- Class A with a posted notice and some held ones. -/
def noted (posted : Option Notice) (held : List Notice) : State :=
  { written with cu := { classes := ⟨{}, { posted := posted, held := held }, {}⟩ } }

theorem witness_NoticesRaisedAndFreed :
    let alike (s : State) : Prop := ∃ m ∈ (s.cu.classes.get .b).posted.toList ++ (s.cu.classes.get .b).held,
      m.cause = .paperWanted ∧ m.subject = 7
    let four := [wanted 2, wanted 3, wanted 4, wanted 5]
    Cause.cls .paperWanted = .b ∧ StoreCanonical (noted none []) ∧ alike (noted (some (wanted 7)) []) ∧
    ¬alike (noted none []) ∧ (noted none []).cu.classes.b.posted = none ∧
    ¬alike (noted (some (wanted 1)) (four.take 3)) ∧ (four.take 3).length < 4 ∧
    ¬alike (noted (some (wanted 1)) four) ∧ 4 ≤ four.length ∧ four = [wanted 2, wanted 3, wanted 4] ++ [wanted 5] ∧
    Memory.read32 (words [(0x50, 1)]) NoticeClass.b.slotAddr ≠ 0 ∧
    Memory.read32 (noted (some (wanted 1)) four).store NoticeClass.b.slotAddr = 0 ∧
    (noted (some (wanted 1)) four).cu.classes.b.posted.isSome :=
  ⟨by decide, canonical_of (by decide), by decide, by decide, by decide, by decide, by decide, by decide, by decide, by decide,
    by decide, by decide, by decide⟩

/-- A running part that exposes a print of 8 lines in lane A with the slot row's print behind it, and its lane's buffer. -/
def filling (b : LineBuffer) : State :=
  { inState .running with
    rc := { slot := some { kind := .print, length := 8, mask := .both, prints := ⟨some smallPrint, none⟩ } }
    ee := { buffers := ⟨b, {}⟩, expo := some (exposing 100 8) } }

theorem test_lineRead_exposing_then_slot :
    ((startReads (filling { nextExp := 7 })).ee.buffers.a.reading = some ⟨.exposing, 7, 65536 + 7 * 64, 6⟩) ∧
      (startReads (filling { nextExp := 8 })).ee.buffers.a.reading = some ⟨.slot, 0, 65536, 6⟩ := by decide

theorem witness_EventEnd :
    (written.work = {} ∧ StoreCanonical { written with ca := { bal := some ⟨6143, 2048, 4096⟩ }, work := { status := true } }) ∧
    let b (n : Nat) : LineBuffer := { held := some [], lines := List.replicate n ⟨false, 2, []⟩, nextExp := 7 }
    ((∃ r q, (filling (b 14)).ee.expo = some (.row r) ∧ r.prints.get .a = some q ∧ q.spec = smallPrint) ∧
      (b 14).reading = none ∧ (b 14).nextExp < smallPrint.height) ∧
    16 ≤ (if (b 15).held.isSome then 1 else 0) + (b 15).lines.length ∧
    (if (b 14).held.isSome then 1 else 0) + (b 14).lines.length < 16 ∧
    ((∃ r, (filling { b 14 with nextExp := 8 }).rc.slot = some r ∧ r.prints.get .a = some smallPrint) ∧
      smallPrint.height ≤ 8 ∧ 0 < smallPrint.height) :=
  ⟨⟨rfl, canonical_of (by decide)⟩, ⟨⟨_, _, rfl, rfl, rfl⟩, rfl, by decide⟩, by decide, by decide, ⟨_, rfl, rfl⟩, by decide,
    by decide⟩

/-- The link word that the record at 4096 carries. -/
def linked (link : Nat) : State := { written with store := words [(4096, link)] }

theorem witness_QueuesMoveOn :
    StoreCanonical written ∧ Memory.readWord (linked 0).store 4096 = 0 ∧
      (Memory.readWord (linked 268435392).store 4096 ≠ 0 ∧ validAddress (Memory.readWord (linked 268435392).store 4096)) ∧
      (Memory.readWord (linked 268435456).store 4096 ≠ 0 ∧ ¬validAddress (Memory.readWord (linked 268435456).store 4096)) := by
  refine ⟨canonical_of (by decide), ?_⟩
  unfold validAddress
  decide

theorem witness_ChipClearAndLineClock : ({ cu := { lineClock := 4294967295 } } : State).cu.lineClock = 4294967295 := rfl

theorem witness_StartBeginsOrResumesRun :
    (StoreCanonical (inState .ready) ∧ (inState .ready).cu.job = none ∧ (inState .ready).mc.state = .ready ∧
      noCondition (inState .ready) ∧ (inState .ready).wt.paperEnd = false ∧ (inState .ready).ca.state = .valid) ∧
    ((inState .pausing).mc.state ≠ .ready ∧ (inState .pausing).mc.state ≠ .paused) ∧
    (let s : State := { inState .ready with ca := { state := .stale } }
     noCondition s ∧ s.ca.state = .stale) ∧
    (let s : State := { inState .ready with ca := { state := .inFlight } }
     noCondition s ∧ s.ca.state = .inFlight) ∧
    (let s : State := { inState .paused with wt := { paperEnd := true } }
     StoreCanonical s ∧ s.mc.state = .paused ∧ noCondition s ∧ s.wt.paperEnd = true ∧ s.ee.expo = none) ∧
    ¬noCondition { inState .paused with ct := { misses := 2 } } :=
  ⟨⟨canonical_of (by decide), rfl, rfl, calm_of (by decide), rfl, rfl⟩, by decide, ⟨calm_of (by decide), rfl⟩,
    ⟨calm_of (by decide), rfl⟩, ⟨canonical_of (by decide), rfl, calm_of (by decide), rfl, rfl⟩, alarmed_of .marksLost rfl⟩

/-- The part in a state with one print in the loop. -/
def withPrint (m : MachineState) : State := { inState m with wt := { x := 1524, track := [printAt 0 .a 9 0 .inLoop] } }

/-- A part that drains with only blank paper on the web. -/
def draining : State :=
  { inState .pausing with
    mc := { state := .pausing, pauseCause := .host }
    wt := { track := [{ kind := .blank, lane := .a, x0 := some 0, length := 600, stage := .processing }], paperEnd := true } }

theorem witness_PauseDrainsToPaused :
    (StoreCanonical (inState .running) ∧ (inState .running).cu.job = none ∧ (inState .paused).mc.state ≠ .running ∧
      drained (withPrint .running) = false ∧ drained (inState .running) = true ∧ noCondition (inState .running)) ∧
    (draining.mc.state = .pausing ∧ draining.ee.expo = none ∧ (∀ e ∈ draining.wt.track, e.kind = .blank) ∧
      draining.su.conveyor = [] ∧ noCondition draining ∧ StoreCanonical draining) ∧
    (drained draining = true ∧ ¬noCondition { draining with pins := { webJam := true } }) ∧
    (inState .running).mc.state ≠ .pausing ∧ ∃ e ∈ (withPrint .pausing).wt.track, e.kind ≠ .blank :=
  ⟨⟨canonical_of (by decide), rfl, by decide, by decide, by decide, calm_of (by decide)⟩,
    ⟨rfl, rfl, by decide, rfl, calm_of (by decide), canonical_of (by decide)⟩, ⟨by decide, alarmed_of .jamWeb rfl⟩, by decide,
    by decide⟩

theorem witness_ClearFaultLeavesFaulted :
    let s (p : Pins) (misses : Nat) : State :=
      { inState .faulted with
        mc := { state := .faulted, faultCause := .coverOpen, convStop := true }, pins := p, ct := { misses := misses } }
    StoreCanonical (s {} 1) ∧ (s {} 1).cu.job = none ∧ (s {} 1).mc.state = .faulted ∧
      (inState .paused).mc.state ≠ .faulted ∧ (s { lineStop := true } 2).pins.lineStop = true ∧
      ((s { webJam := true, convJam := true } 2).pins.lineStop = false ∧
        (s { webJam := true, convJam := true } 2).pins.webJam = true) ∧
      ((s { convJam := true } 2).pins.webJam = false ∧ (s { convJam := true } 2).pins.convJam = true) ∧
      ((s {} 2).pins.convJam = false ∧ (s {} 2).ct.misses = 2) ∧ (s {} 1).ct.misses ≠ 2 ∧
      (inState .faulted).mc.convStop = false :=
  ⟨canonical_of (by decide), by decide⟩

theorem witness_PaperEndAsksForPause :
    ({ inState .running with pins := { paperEnd := true } } : State).pins.paperEnd = true ∧
    (inState .running).pins.paperEnd = false ∧ (inState .paused).mc.state ≠ .running ∧
    ({ inState .running with ee := { expo := some (.leadIn 0 false) } } : State).ee.expo.isSome ∧
    (inState .running).ee.expo = none ∧ drained (withPrint .running) = false ∧ drained (inState .running) = true ∧
    noCondition (inState .running) :=
  ⟨by decide, by decide, by decide, by decide, by decide, by decide, by decide, calm_of (by decide)⟩

/-- An OPEN order with copies 1 and 2 composed, copy 1 for the second time. -/
def order9 : OpenOrder := { order 9 3 with addr := 4096, cursor := some ⟨0, 3⟩, composed := 2, phase := .opened }

/-- The slot row that holds copy 2 in lane A and the remake of copy 1 in lane B. -/
def slot9 : SlotRow :=
  { kind := .print, length := 8, mask := .both
    prints := ⟨some { smallPrint with ref := ⟨0, 9, 0, 2, 1⟩ }, some { smallPrint with ref := ⟨0, 9, 0, 1, 2⟩ }⟩ }

/-- A running part with that row in its slot, its entries flagged as given. -/
def holding (flags : TrackFlags) : State :=
  let entry (l : Lane) (r : CopyRef) : Entry := { kind := .print, lane := l, ref := some r, length := 8, flags := flags }
  { inState .running with
    om := { table := tableWith 0 order9 }
    rc := { slot := some slot9, remakes := [⟨0, 9, 0, 1, 3⟩] }
    wt := { track := [entry .a ⟨0, 9, 0, 2, 1⟩, entry .b ⟨0, 9, 0, 1, 2⟩] } }

theorem witness_FaultEntered :
    let gone (s : State) : Bool := (findEntry s ⟨none, .a, slot9.kind⟩).any (·.flags.withdrawn)
    (StoreCanonical (withPrint .running) ∧ (withPrint .running).pins.webJam = false ∧ (withPrint .running).pins.lineStop = false ∧
      (withPrint .pausing).pins.convJam = false ∧ (withPrint .paused).mc.state = .paused ∧
      (∃ e ∈ (withPrint .running).wt.track, e.x0.isSome ∧ e.stage ≠ .exposing ∧ e.stage ≠ .processing ∧ e.stage ≠ .cut ∧
        e.stage ≠ .conveyor) ∧
      (∀ e ∈ (withPrint .running).wt.track, e.key ≠ ⟨none, .a, .blank⟩) ∧
      ∀ x ∈ (sorting bin5 [⟨key7304, 5, 812400⟩] []).su.conveyor, x.piece ≠ ⟨none, .a, .blank⟩) ∧
    ((holding {}).rc.slot = some slot9 ∧ slot9.prints.a.isSome ∧ gone (holding {}) = false ∧
      gone (holding { withdrawn := true }) = true ∧ (holding {}).om.table[(0 : Fin 8)] = some order9 ∧
      order9.phase = .opened ∧ order9.good + order9.failed + order9.dropped ≠ order9.nPrints ∧
      orderIn (holding {}) 0 9 = some order9 ∧ orderIn (holding {}) 0 8 = none ∧ order9.cursor = some ⟨0, 3⟩) ∧
    (returnSlot (holding {})).rc.remakes = [⟨0, 9, 0, 1, 2⟩, ⟨0, 9, 0, 1, 3⟩] ∧
    ((returnSlot (holding {})).om.table[(0 : Fin 8)].any fun o => o.cursor = some ⟨0, 2⟩ ∧ o.composed = 1) = true ∧
    (returnSlot (holding { withdrawn := true })).rc.remakes = [⟨0, 9, 0, 1, 3⟩] :=
  ⟨⟨canonical_of (by decide), by decide⟩, by decide⟩

theorem witness_SensorsOutsideRun :
    let s (p : Pins) (stop : Bool) : State :=
      { inState .faulted with mc := { state := .faulted, faultCause := .jamWeb, convStop := stop }, pins := p }
    (s { lineStop := true } true).pins.lineStop = true ∧ (s { webJam := true } true).pins.webJam = true ∧
      (s { convJam := true } true).pins.convJam = true ∧ (inState .ready).mc.state = .ready ∧
      (inState .cleared).pins.convJam = false ∧
      ((s {} true).mc.state = .faulted ∧ (s {} true).pins.webJam = false ∧ (s {} true).mc.convStop = true) ∧
      ((s {} false).pins.lineStop = false ∧ (s {} false).mc.convStop = false) ∧
      let carrying : State := { s {} false with
        wt := { track := [printAt 100 .a 7304 2 .conveyor, printAt 2000 .a 9 0 .inLoop] }
        su := { conveyor := [⟨key7304, 33, 0⟩] } }
      carrying.mc.state = .faulted ∧ (carrying.su.conveyor.filter fun x => decide (x.dest = 33)).length = 1 ∧
        ∃ e ∈ carrying.wt.track,
          ∀ f ∈ carrying.wt.track, f.key = e.key → decide (f.stage = .cut ∨ f.stage = .conveyor) = false := by decide

/-- The standard queue in a state. -/
def queueAt (q : QueueState) : State :=
  { inState .paused with om := { queues := ⟨{}, { state := q, tail := 4096 }, {}⟩ }, store := words [(4096, 268435392)] }

theorem witness_InitiateStartsQueue :
    StoreCanonical (queueAt .idle) ∧ (queueAt .idle).cu.job = none ∧ (queueAt .idle).mc.state ≠ .cleared ∧
      State.reset.mc.state = .cleared ∧ 3 ≤ (3 : Word).toNat ∧ (1 : Word).toNat = QueueId.index .standard ∧
      ((queueAt .blocked).om.queues.get .standard).state = .blocked ∧
      ((queueAt .halted).om.queues.get .standard).state = .halted ∧
      ¬validAddress 268435456 ∧ ¬validAddress 4095 ∧ validAddress 268435392 ∧ validAddress 4096 := by
  refine ⟨canonical_of (by decide), ?_⟩
  unfold validAddress
  decide

theorem witness_ResumeLooksAtTail :
    let link (s : State) : Word := Memory.readWord (offered1 .resume 1 s).store 4096
    StoreCanonical (queueAt .parked) ∧ (queueAt .parked).cu.job = none ∧ 3 ≤ (4294967295 : Word).toNat ∧
      (1 : Word).toNat = QueueId.index .standard ∧ ((queueAt .active).om.queues.get .standard).state = .active ∧
      ((queueAt .halted).om.queues.get .standard).state = .halted ∧
      ((queueAt .parked).om.queues.get .standard).state = .parked ∧
      link { queueAt .parked with store := [] } = 0 ∧
      (link (queueAt .parked) ≠ 0 ∧ validAddress (link (queueAt .parked))) ∧
      (let s : State := { queueAt .parked with store := words [(4096, 268435393)] }
       link s ≠ 0 ∧ ¬validAddress (link s)) := by
  refine ⟨canonical_of (by decide), ?_⟩
  unfold validAddress
  decide

theorem witness_ReleaseQueueIdles :
    StoreCanonical (queueAt .parked) ∧ (queueAt .parked).cu.job = none ∧ 3 ≤ (3 : Word).toNat ∧
      (1 : Word).toNat = QueueId.index .standard ∧ ((queueAt .idle).om.queues.get .standard).state = .idle ∧
      ((queueAt .blocked).om.queues.get .standard).state = .blocked :=
  ⟨canonical_of (by decide), by decide⟩

/-- A part with one deferred order. -/
def deferring : State := { inState .paused with om := { deferred := [{ addr := 4096, number := 77, queue := .bulk }] } }

theorem witness_WithdrawEndsOrder :
    (StoreCanonical deferring ∧ deferring.cu.job = none ∧ deferring.mc.state ≠ .cleared ∧ State.reset.mc.state = .cleared ∧
      (2 : Word) ≠ 0 ∧ (2 : Word) ≠ 1 ∧
      (∀ (i : Fin 8) (o : OpenOrder), deferring.om.table[i] = some o → o.number ≠ 77) ∧
      (∀ d ∈ deferring.om.deferred, d.number ≠ 78) ∧
      deferring.om.deferred.find? (fun d => decide (d.number = 77)) = some { addr := 4096, number := 77, queue := .bulk }) ∧
    (let o : OpenOrder := { order5120 with phase := .withdrawing true }
     let s : State := { withdrawing with om := { table := tableWith 7 o } }
     StoreCanonical s ∧ slotOfNumber s 5120 = some 7 ∧ s.om.table[(7 : Fin 8)] = some o) ∧
    (StoreCanonical withdrawing ∧ withdrawing.cu.job = none ∧ withdrawing.mc.state ≠ .cleared ∧
      slotOfNumber withdrawing 5120 = some 3 ∧ withdrawing.om.table[(3 : Fin 8)] = some order5120 ∧
      order5120.phase = .opened) :=
  ⟨⟨canonical_of (by decide), by decide, by decide, by decide, by decide, by decide, by decide, by decide, by decide⟩,
    ⟨canonical_of (by decide), by decide, by decide⟩,
    ⟨canonical_of (by decide), by decide, by decide, by decide, by decide, by decide⟩⟩

/-- A part with a record of one item of size 1 at 4096: its number, its item count, its size code and its quantity. -/
def recorded (number count size qty : Nat) : State :=
  { inState .paused with
    store := words [(4100, number), (4104, count), (4160, 8192), (4164, 1224 + 65536 * 1824), (4168, size + 65536 * qty)] }

/-- A part with a record of one item at 4096 whose image stands at an address and is `w` by `h` pixels. -/
def imaged (image w h : Nat) : State :=
  { recorded 7 1 1 1 with store := words [(4100, 7), (4104, 1), (4160, image), (4164, w + 65536 * h), (4168, 1 + 65536)] }

/-- A part with a record of `n` items, one of each of the sizes 0 to `n - 1`, each of a group of its own. -/
def grouped (n : Nat) : State :=
  { inState .paused with
    conf := some { lab with sizes := (List.range n).map fun g => some ⟨1020, 1520, g⟩ }
    store := words ([(4100, 7), (4104, n)] ++ (List.range n).flatMap fun i =>
      [(4160 + 32 * i, 8192), (4164 + 32 * i, 1224 + 65536 * 1824), (4168 + 32 * i, i + 65536)]) }

set_option maxRecDepth 8000 in
theorem witness_RecordExamined :
    let bad (s : State) : Option Reason := examine s [] 4096
    let code (s : State) : Nat := (readItem s.store 4096 0).size
    let qty (s : State) : Nat := (readItem s.store 4096 0).qty
    recNumber (recorded 0 1 1 1).store 4096 = 0 ∧ recNumber (recorded 7 65 1 1).store 4096 ≠ 0 ∧
    ¬(1 ≤ recItemCount (recorded 7 65 1 1).store 4096 ∧ recItemCount (recorded 7 65 1 1).store 4096 ≤ 64) ∧
    (∃ x ∈ deferring.om.deferred, x.number = recNumber (recorded 77 1 1 1).store 4096) ∧
    (recItemCount (recorded 7 1 3 1).store 4096 = 1 ∧ sizeOf lab (code (recorded 7 1 3 1)) = none) ∧
    ((sizeOf lab (code (recorded 7 1 1 0))).isSome ∧ qty (recorded 7 1 1 0) = 0 ∧ 999 < qty (recorded 7 1 1 1000)) ∧
    bad (imaged 8192 1224 1825) = some .imageDimensions ∧ bad (imaged 8193 1224 1824) = some .imageAddress ∧
    bad (imaged 4032 1224 1824) = some .imageAddress ∧
    bad (imaged (268435456 - 1824 * 3712) 1224 1824) = none ∧
    bad (imaged (268435456 - 1824 * 3712 + 64) 1224 1824) = some .imageAddress ∧
    bad (grouped 9) = some .tooManyKinds ∧ bad (grouped 8) = none ∧
    bad (recorded 7 1 1 100) = none ∧ bad (recorded 7 1 1 101) = some .tooLarge ∧ recordFits (recorded 7 1 1 100) 4096 = true := by
  decide

theorem witness_OrderOpened :
    let free (s : State) : List (Fin 32) := (List.finRange 32).filter fun b =>
      decide (b.1 < s.cfg.binCount) && decide (s.su.bins[b].state = .free) && !s.su.bins[b].doorOpen
    let need (s : State) : Nat := ceilDiv ((readItems s.store 4096).map (·.qty)).sum s.cfg.binCap
    let gen (current : Bool) : GenSlot := ⟨current, 6, priced ⟨410, .percent, 10, 8, 0⟩, 3⟩
    (∀ i : Fin 8, ({ inState .paused with om := { table := Vector.replicate 8 (some (order 7 1)) } } : State).om.table[i].isSome) ∧
    (let s : State := { recorded 7 1 1 100 with
       om := { table := tableWith 0 (order 9 1) }, pu := { gens := ⟨#[some (gen false), some (gen true)], rfl⟩ } }
     s.om.table[(1 : Fin 8)] = none ∧ (∀ j : Fin 8, j < 1 → s.om.table[j].isSome) ∧ need s ≤ (free s).length ∧
       StoreCanonical s ∧ s.pu.gens[(0 : Fin 2)] = some (gen false) ∧ (gen false).current = false ∧
       s.pu.gens[(1 : Fin 2)] = some (gen true) ∧ (gen true).current = true) ∧
    (let s : State := { recorded 7 1 1 100 with conf := some { lab with binCount := 3 } }
     s.om.table[(0 : Fin 8)] = none ∧ (free s).length < need s) :=
  ⟨by decide, ⟨by decide, by decide, by decide, canonical_of (by decide), by decide⟩, by decide⟩

/-- A part whose standard queue is ACTIVE at the record at 4096. -/
def heading (s : State) : State :=
  { s with om := { s.om with queues := s.om.queues.set .standard { state := .active, next := 4096 } } }

/-- The record does not fit the paper, with `n` orders already deferred. -/
def tooWide (n : Nat) : State :=
  { heading (recorded 7 1 1 100) with
    conf := some { lab with paperWidth := 2200 }
    om := { (heading (recorded 7 1 1 100)).om with
      deferred := List.replicate n { addr := 16384, number := 70, queue := .bulk } } }

/-- The record fits and waits in the deferred list, with the open-order table given. -/
def deferredFits (table : Vector (Option OpenOrder) 8) (bins : Nat) : State :=
  { recorded 7 1 1 100 with
    conf := some { lab with binCount := bins }
    om := { table := table, deferred := [{ addr := 4096, number := 7, queue := .standard, fits := true }] } }

set_option maxRecDepth 8000 in
theorem witness_NewOrdersSought :
    let full : Vector (Option OpenOrder) 8 := Vector.replicate 8 (some (order 9 1))
    let fits (table : Vector (Option OpenOrder) 8) (bins : Nat) : State :=
      { heading (recorded 7 1 1 100) with
        conf := some { lab with binCount := bins }, om := { (heading (recorded 7 1 1 100)).om with table := table } }
    let none8 : Vector (Option OpenOrder) 8 := Vector.replicate 8 none
    let c (s : State) : QueueCtx := s.om.queues.get .standard
    let long (s : State) : Option Nat := (sizeOf s.cfg (readItem s.store 4096 0).size).map fun z => z.length * 12 / 10
    (StoreCanonical (heading (recorded 0 1 1 1)) ∧
      examine (heading (recorded 0 1 1 1)) [] (c (heading (recorded 0 1 1 1))).next.toNat = some .zeroNumber ∧
      examine (tooWide 7) (tooWide 7).om.deferred 4096 = none ∧ recordFits (tooWide 7) 4096 = false ∧
      (tooWide 7).om.deferred.length < 8 ∧ 8 ≤ (tooWide 8).om.deferred.length ∧
      examine (fits none8 4) [] 4096 = none ∧ recordFits (fits none8 4) 4096 = true ∧
      (c (recorded 7 1 1 100)).state ≠ .active ∧ (c (fits none8 4)).state = .active ∧
      long (fits none8 4) = some 1824 ∧ recItemCount (fits none8 4).store 4096 = 1) ∧
    ((∃ i t, openOrder .standard 4096 (fits none8 4) = .opened i t) ∧
      openOrder .standard 4096 (fits full 4) = .waitSlot ∧ openOrder .standard 4096 (fits none8 3) = .waitBins) ∧
    ((∃ t, takeHead .standard (heading (recorded 0 1 1 1)) = .passed t) ∧ (∃ t, takeHead .standard (tooWide 8) = .blocked t) ∧
      (∃ i t, takeHead .standard (fits none8 4) = .opened i t ∧ (t.om.table[i].any (·.cursor.isSome)) = true) ∧
      takeHead .standard (fits full 4) = .waitSlot ∧ takeHead .standard (fits none8 3) = .waitBins) ∧
    let d : Deferred := { addr := 4096, number := 7, queue := .standard, fits := true }
    (deferredFits none8 4).om.deferred.find? (fun d => decide (d.queue = .standard) && d.fits) = some d ∧
      (tooWide 7).om.deferred.find? (fun d => decide (d.queue = .standard) && d.fits) = none ∧
      (∃ i t, openOrder .standard d.addr (deferredFits none8 4) = .opened i t ∧ (t.om.table[i].any (·.cursor.isSome)) = true) ∧
      openOrder .standard d.addr (deferredFits full 4) = .waitSlot ∧
      openOrder .standard d.addr (deferredFits none8 3) = .waitBins :=
  ⟨⟨canonical_of (by decide), by decide⟩, ⟨⟨_, _, rfl⟩, rfl, rfl⟩, ⟨⟨_, rfl⟩, ⟨_, rfl⟩, ⟨_, _, rfl, rfl⟩, rfl, rfl⟩, by decide,
    by decide, ⟨_, _, rfl, rfl⟩, rfl, rfl⟩

/-- A part re-examined under a paper on which the order at 4096 fits or not, the order's cursor at copy 2 of its item. -/
def reexamined (paper : Nat) (items : List ItemProgress) (deferred : List Deferred) : State :=
  { recorded 7 1 1 4 with
    conf := some { lab with paperWidth := paper }
    om := { queues := ⟨{}, { state := .blocked, next := 8192 }, {}⟩, deferred := deferred
            table := tableWith 0 { order 9 9 with addr := 4096, phase := .opened, cursor := some ⟨0, 2⟩, items := items } }
    rc := { remakes := [⟨0, 9, 0, 1, 2⟩] } }

theorem witness_OrdersReexamined :
    let d : Deferred := { addr := 4096, number := 7, queue := .bulk }
    let s := reexamined 2200 [{}, { passed := true }, {}] [d]
    let o : OpenOrder :=
      { order 9 9 with addr := 4096, phase := .opened, cursor := some ⟨0, 2⟩, items := [{}, { passed := true }, {}] }
    let lane (t : State) : Nat := (t.cfg.paperWidth - 40) / 2
    examine { s with store := [] } [] 4096 = some .zeroNumber ∧ examine s [] 4096 = none ∧ StoreCanonical s ∧
    ((s.om.queues.get .standard).state = .blocked ∧ (s.om.queues.get .bulk).state ≠ .blocked) ∧
    (orderIn s 0 8 = none ∧ orderIn s 0 9 = some o ∧ 0 < o.items.length ∧ o.cursor = some ⟨0, 2⟩) ∧
    ((readItem s.store 4096 0).qty + 1 - 2 + (s.rc.remakes.filter fun r => decide (r.slot = 0 ∧ r.number = 9 ∧ r.item = 0)).length = 4) ∧
    (lane s = 1080 ∧ 1020 + 10 < 1080 ∧ lane (reexamined 2100 [{}] []) = 1030 ∧ 1030 ≤ 1020 + 10) ∧
    ((o.items[1]?).any (·.passed) = true ∧ (o.items[2]?).any (·.passed) = false) ∧
    ((reexamineItem 0 9 s 0).om.table[(0 : Fin 8)].any fun o => o.failed = 4 ∧ o.cursor = some ⟨2, 1⟩) = true ∧
    (reexamineItem 0 9 s 0).rc.remakes = [] :=
  ⟨by decide, by decide, canonical_of (by decide), by decide⟩

/-- A running part with a track table of `n` entries. -/
def tracking (n : Nat) (c : CalState) : State :=
  { inState .running with
    wt := { track := List.replicate n (printAt 0 .a 9 0 .inLoop) }, ca := { state := c }, rc := { mask := .both } }

theorem witness_SetLanesAndRecalibrate :
    let room (s : State) (mask : LaneMask) : Prop :=
      s.wt.track.length + (if s.ca.state ≠ .due ∧ s.cfg.laneMode = .twoUp ∧ mask = .both then 2 else 1) + 1 ≤ 64
    (StoreCanonical (inState .paused) ∧ (inState .paused).cu.job = none ∧ State.reset.mc.state = .cleared ∧
      (inState .paused).mc.state ≠ .cleared ∧ (inState .paused).mc.state ≠ .faulted ∧ 3 < (4 : Word).toNat ∧
      (State.cfg { inState .paused with conf := some {} }).laneMode = .oneUp ∧
      (3 : Word).toNat = LaneMask.code .both ∧ ¬((inState .paused).cfg.laneMode = .oneUp ∧ (2 : Word) = 2)) ∧
    (StoreCanonical (tracking 62 .valid) ∧ (tracking 62 .valid).cu.job = none ∧ (tracking 62 .valid).rc.mask = .both ∧
      ¬room (tracking 62 .valid) .both ∧ room (tracking 62 .valid) .aOnly ∧ ¬room (tracking 63 .valid) .aOnly ∧
      room (tracking 62 .due) .both) ∧
    (inState .faulted).mc.state = .faulted ∧ (inState .paused).ca.state = .valid ∧
      ({ inState .ready with ca := { state := .stale } } : State).ca.state = .stale ∧
      ({ inState .running with ca := { state := .inFlight } } : State).ca.state = .inFlight :=
  ⟨⟨canonical_of (by decide), by decide⟩, ⟨canonical_of (by decide), by decide⟩, by decide⟩

/-- A running part whose only copy to compose is a remake of order 9, in the lane the mask gives. -/
def remaking (mask : LaneMask) : State :=
  { inState .running with
    om := { table := tableWith 0 { order 9 1 with addr := 4096 } }
    rc := { remakes := [⟨0, 9, 0, 1, 2⟩], mask := mask }
    store := (recorded 9 1 1 1).store }

set_option maxRecDepth 4000 in
/-- With 62 entries in use, going from two lanes to one makes the room R31 asks for, and the row is composed (R30). -/
theorem test_setLanes_room : shows (exec (.setLanes 1)
    { remaking .both with
      wt := { track := List.replicate 62 { kind := .blank, lane := .a, x0 := some 0, length := 1, stage := .processing } } })
    fun t => t.rc.slot.isSome ∧ t.rc.remakes = [] ∧ t.wt.track.length = 63 := by decide

/-- A running part with two remakes of one length, and an order that offers copy 1 of its only item. -/
def pairing : State :=
  { remaking .both with
    om := { table := (tableWith 0 { order 9 1 with addr := 4096 }).set 2
              (some { order 10 1 with addr := 4096, phase := .opened, cursor := some ⟨0, 1⟩, seq := 4294967295 }) }
    rc := { remakes := [⟨0, 9, 0, 1, 2⟩, ⟨0, 9, 0, 2, 3⟩], mask := .both } }

set_option maxRecDepth 4000 in
theorem witness_RowsComposed :
    ((tracking 62 .due).rc.slot = none ∧ (tracking 62 .due).mc.state = .running ∧ (tracking 62 .due).rc.hot = false ∧
      (tracking 62 .due).ca.state = .due ∧ (tracking 62 .due).wt.track.length ≤ 62 ∧
      62 < (tracking 63 .due).wt.track.length ∧ (tracking 63 .valid).ca.state ≠ .due ∧
      62 < (tracking 63 .valid).wt.track.length ∧ twoLanes (tracking 62 .valid) = true ∧
      61 < (tracking 62 .valid).wt.track.length ∧
      ({ tracking 0 .valid with rc := { firstCal := true } } : State).rc.firstCal = true ∧
      (inState .paused).mc.state ≠ .running ∧ (tracking 61 .valid).rc.firstCal = false ∧
      (tracking 61 .valid).wt.track.length + 2 ≤ 63) ∧
    (∃ r, (compose (remaking .both)).rc.slot = some r ∧ r.kind = .print ∧ r.prints.a.isSome ∧ r.prints.b = none) ∧
    (∃ r, (compose (remaking .bOnly)).rc.slot = some r ∧ r.kind = .print ∧ r.prints.a = none ∧ r.prints.b.isSome) ∧
    (∃ r p q, (compose pairing).rc.slot = some r ∧ r.kind = .print ∧ r.prints.a = some p ∧ r.prints.b = some q ∧
      p.ref.copy = 1 ∧ q.ref.copy = 2 ∧ p.first = 590 ∧ q.first = 1850 ∧ (compose pairing).rc.remakes = []) ∧
    (∃ x t, walk none walkSteps pairing = .found x t ∧ (∃ y u, walk (some 1824) walkSteps t = .found y u) ∧
      pairing.cfg.laneMode = .twoUp ∧ pairing.rc.mask = .both) ∧
    (∃ u, walk none walkSteps (inState .running) = .nothing u) ∧
    (∃ x t, walk none walkSteps (remaking .bOnly) = .found x t) ∧
    ((∀ y ∈ (inState .running).rc.remakes, False) ∧ (∃ t, walkStep none .remake (inState .running) = .nothing t)) ∧
    pairing.om.table[(2 : Fin 8)].any (fun o => decide (o.queue = .standard ∧ o.cursor = some ⟨0, 1⟩ ∧ o.items = [{}])) = true ∧
    (readItem pairing.store 4096 0).qty = 1 ∧
    ∀ (j : Fin 8) (p : OpenOrder), pairing.om.table[j] = some p → (pairing.om.seq - p.seq).toNat < 2147483648 :=
  ⟨by decide, ⟨_, rfl, rfl, rfl, rfl⟩, ⟨_, rfl, rfl, rfl, rfl⟩, ⟨_, _, _, rfl, rfl, rfl, rfl, rfl, rfl, rfl, rfl, rfl⟩,
    ⟨_, _, rfl, ⟨_, _, rfl⟩, rfl, rfl⟩, ⟨_, rfl⟩, ⟨_, _, rfl⟩, ⟨by decide, _, rfl⟩, by decide⟩

theorem witness_RejectDecided :
    let s (n : Nat) (p : OrderPhase) : State :=
      { inState .running with
        om := { table := tableWith 7 { order 9 2 with phase := p } }
        rc := { remakes := List.replicate n ⟨7, 9, 0, 1, 3⟩ } }
    orderIn (s 0 .opened) 7 8 = none ∧ orderIn (s 0 .opened) 7 9 = some { order 9 2 with phase := .opened } ∧
      orderIn (s 0 (.withdrawing false)) 7 9 = some { order 9 2 with phase := .withdrawing false } ∧
      32 ≤ (s 32 .opened).rc.remakes.length + slotRemakes (s 32 .opened) ∧
      (s 31 .composed).rc.remakes.length + slotRemakes (s 31 .composed) < 32 := by decide

/-- A patch in flight whose reading point Y has just reached, with a flat exposure table. -/
def patchRead (invalid : Nat) : State :=
  { inState .running with
    conf := some { lab with table := ⟨List.replicate 33 100, List.replicate 33 100, List.replicate 33 100⟩ }
    wt := { x := 2000, y := 1300 }
    ca := { state := .inFlight, bal := some ⟨2048, 6143, 4096⟩, invalid := invalid, patch := some ⟨100, 150, none⟩ } }

theorem witness_ReadingsSetBalances :
    let s := patchRead 1
    let e (k : Chan) (d : Nat) : Nat := exposure (s.cfg.table.get k) d
    let valid (m : PerChan Nat) : Prop := ∀ k : Chan, 50 ≤ m.get k ∧ m.get k ≤ 3999 ∧ e k (m.get k) ≠ 0
    4095 < 4096 ∧ s.ca.state = .inFlight ∧ s.ca.patch = some ⟨100, 150, none⟩ ∧ s.ca.bal = some ⟨2048, 6143, 4096⟩ ∧
      reached s.wt.y (100 + lines s.cfg.lDens) = true ∧ valid ⟨50, 3999, 1000⟩ ∧ ¬valid ⟨49, 3999, 1000⟩ ∧
      ¬valid ⟨50, 4000, 4095⟩ ∧ s.ca.invalid < 2 ∧ 2 ≤ (patchRead 2).ca.invalid ∧ 2048 ≤ 2048 ∧ 6143 ≤ 6143 ∧ 1 ≠ 0 := by
  refine ⟨by decide, by decide, by decide, by decide, by decide, ?_, fun h => ?_, fun h => ?_, by decide, by decide, by decide,
    by decide, by decide⟩
  · intro k
    cases k <;> decide
  · exact absurd (h .red) (by decide)
  · exact absurd (h .green) (by decide)

theorem witness_ExposureStages :
    let c (n : Nat) : Conf := { pMin := 40, table := ⟨[], List.replicate 33 n, []⟩, gains := [(7329, 16)] }
    let ctx : RowContext := { theta := 140, phi := ⟨0, 4096, 0⟩, bal := some ⟨0, 4096, 0⟩, mask := none, stale := false }
    let t (n : Nat) : Nat := ticksOf (c n) ctx .green 0 255
    (∀ k ∈ [4095], k ≤ 4095) ∧ (∀ k ∈ [65535], k ≤ 65535) ∧ 255 ≤ 255 ∧ gainOf (c 0) .red 0 = 0 ∧ gainOf (c 0) .green 0 ≠ 0 ∧
      t 65535 = 4096 ∧ t 65520 = 4095 ∧ t 0 = 0 ∧ t 640 = 40 ∧ t 320 = 20 ∧ t 304 = 19 := by decide

/-- A running part with a line read in progress in lane A, while the print at 100 exposes its line `x - 100`. -/
def fetching (dest : ReadFor) (line addr : Nat) (x : Word) : State :=
  { inState .running with
    wt := { x := x }
    ee := { buffers := ⟨{ reading := some ⟨dest, line, addr, 6⟩ }, {}⟩, expo := some (exposing 100 8) } }

theorem witness_LineReadCompletes :
    let passed (s : State) (line : Nat) : Prop :=
      ∃ x : ExposingRow, s.ee.expo = some (.row x) ∧ line < (s.wt.x - x.x0).toNat
    ((inState .running).ee.buffers.get .a).reading = none ∧
    ((fetching .exposing 3 268435451 103).ee.buffers.get .a).reading = some ⟨.exposing, 3, 268435451, 6⟩ ∧
    268435456 < 268435451 + 6 ∧ 268435450 + 6 ≤ 268435456 ∧ passed (fetching .exposing 2 268435450 103) 2 ∧
    ¬passed (fetching .exposing 3 268435450 103) 3 ∧
    ((fetching .slot 0 268435450 103).ee.buffers.get .a).reading = some ⟨.slot, 0, 268435450, 6⟩ ∧
    ((fetching .discard 0 268435450 103).ee.buffers.get .a).reading = some ⟨.discard, 0, 268435450, 6⟩ :=
  ⟨rfl, rfl, by decide, by decide, ⟨_, rfl, by decide⟩, fun ⟨x, h, l⟩ => by cases h; exact absurd l (by decide), rfl, rfl⟩

/-- A running part with 63 track entries, nothing exposing, and a calibration patch in the slot when `ready`. -/
def standing (x : Word) (ready continuity : Bool) : State :=
  { inState .running with
    wt := { x := x, track := List.replicate 63 (printAt 0 .a 9 0 .inLoop) }
    rc := { slot := if ready then some calibSlot else none }
    ee := { continuity := continuity } }

theorem witness_LeadInsRun :
    let credit (s : State) : Prop := ∃ r, s.rc.slot = some r ∧ s.ee.hot = false ∧
      (s.wt.x - s.wt.y).toNat + 4 + r.length ≤ s.cfg.loopMax
    let leading (n : Nat) (forBlank : Bool) : State :=
      { standing 9 true false with
        ee := { expo := some (.leadIn n forBlank) }
        ct := { queue := List.replicate 64 { pos := 0, rowAfter := none, rowBefore := none } } }
    ((standing 5756 true false).ee.continuity = false ∧ (standing 5756 true false).ee.expo = none ∧
      (standing 5756 true false).wt.track.length < 64 ∧ credit (standing 5756 true false)) ∧
    (¬credit (standing 0 false false) ∧ (standing 0 false false).wt.x = (standing 0 false false).wt.y) ∧
    (¬credit (standing 5757 true false) ∧ (standing 5757 true false).wt.x ≠ (standing 5757 true false).wt.y) ∧
    (leading 4 false).mc.paperOutReq = false ∧ (leading 4 false).ee.expo = some (.leadIn 4 false) ∧
    ((leading 4 false).wt.x ≠ (leading 4 false).wt.y ∧ (leading 4 true).ct.queue.length < 65) ∧
    (StoreCanonical (leading 4 true) ∧
      (((leading 4 true).cfg.calDrift : Int) < ((149 : Int) - 140).natAbs ∧ (leading 4 true).ca.state = .valid) ∧
      ¬((leading 4 true).cfg.calDrift : Int) < ((148 : Int) - 140).natAbs) := by
  refine ⟨⟨by decide, by decide, by decide, ⟨calibSlot, by decide⟩⟩, ⟨?_, by decide⟩, ⟨?_, by decide⟩, by decide, by decide,
    by decide, canonical_of (by decide), by decide, by decide⟩
  · rintro ⟨r, h, -⟩
    cases h
  · rintro ⟨r, h, -, l⟩
    cases h
    exact absurd l (by decide)

theorem test_rowStart_lines :
    let slot : SlotRow := { kind := .print, length := 240, mask := .both, prints := ⟨some smallPrint, none⟩ }
    let b : LineBuffer := { held := some [9], lines := [⟨true, 0, [7]⟩], reading := some ⟨.slot, 1, 65600, 6⟩, nextSlot := 2 }
    shows (exec .rowStart { standing 5000 true true with
        rc := { slot := some slot }, ee := { continuity := true, buffers := ⟨b, {}⟩ } }) fun t =>
      t.ee.buffers.a = { lines := [⟨false, 0, [7]⟩], reading := some ⟨.exposing, 1, 65600, 6⟩, nextExp := 2 } := by decide

theorem witness_RowStarts :
    let s (k : SlotRow) (c : CalState) (sample : Nat) : State :=
      { standing 5760 true true with
        rc := { slot := some k }, ee := { continuity := true, sample := sample }, ca := { state := c, thetaCal := 140 }
        ct := { queue := List.replicate 64 { pos := 0, rowAfter := none, rowBefore := none } } }
    let p : SlotRow := { kind := .print, length := 240, mask := .both, prints := ⟨some smallPrint, none⟩ }
    ((s calibSlot .due 148).rc.slot = some calibSlot ∧ (s calibSlot .due 148).ee.continuity = true ∧
      (s calibSlot .due 148).ee.expo = none ∧ (s calibSlot .due 148).ee.hot = false ∧
      ((s calibSlot .due 148).wt.x - (s calibSlot .due 148).wt.y).toNat + 240 ≤ (s calibSlot .due 148).cfg.loopMax ∧
      (s calibSlot .due 148).wt.track.length < 64 ∧ (s calibSlot .due 148).ct.queue.length < 65) ∧
    StoreCanonical (s calibSlot .due 148) ∧
    (p.kind ≠ .calib ∧ ¬(((s p .valid 148).cfg.calDrift : Int) < (((s p .valid 148).ee.sample : Int) - 140).natAbs)) ∧
    (((s p .valid 149).cfg.calDrift : Int) < (((s p .valid 149).ee.sample : Int) - 140).natAbs) ∧
    (s p .stale 149).ca.state = .stale ∧ (s p .due 131).ca.state = .due ∧
    ((s p .due 131).cfg.calDrift : Int) < (((s p .due 131).ee.sample : Int) - 140).natAbs :=
  ⟨by decide, canonical_of (by decide), by decide⟩

/-- A running part that exposes the print at 100, 8 lines long, with lines of a buffer fetched. -/
def lining (x : Word) (ls : List BufLine) : State :=
  { inState .running with
    wt := { x := x, track := [printAt 100 .a 9 0 .exposing] }
    ee := { buffers := ⟨{ lines := ls }, {}⟩, expo := some (exposing 100 8) } }

theorem witness_LinesExposed :
    let line (n : Nat) : BufLine := { forSlot := false, line := n, data := [1, 2, 3, 4, 5, 6] }
    let patch : ExposingRow := { kind := .calib, x0 := 100, length := 240, ctx := none }
    (({ inState .pausing with ee := { expo := some (.leadIn 3 true) } } : State).ee.expo = some (.leadIn 3 true) ∧ 3 < 4) ∧
    (patch.kind ≠ .print ∧ patch.prints = ⟨none, none⟩ ∧ ((339 : Word) - patch.x0).toNat < patch.length) ∧
    ∃ r p, (lining 107 [line 7]).ee.expo = some (.row r) ∧ r.kind = .print ∧ (107 - r.x0 : Word).toNat < r.length ∧
      r.prints.get .a = some p ∧ ¬(r.prints.a.isSome ∧ r.prints.b.isSome) ∧ (107 - r.x0 : Word).toNat % 2 = 1 ∧
      (((lining 107 [line 7]).ee.buffers.get .a).lines = [line 7] ∧ (line 7).forSlot = false ∧
        (line 7).line = (107 - r.x0 : Word).toNat) ∧
      (r.prints.get .b = none ∧ ∀ x ∈ ((lining 107 []).ee.buffers.get .a).lines.head?, x.forSlot = true ∨ x.line ≠ 7) ∧
      ∀ x ∈ ((lining 106 [line 7]).ee.buffers.get .a).lines.head?, x.forSlot = true ∨ x.line ≠ 6 :=
  ⟨by decide, by decide, _, _, rfl, rfl, by decide, rfl, by decide, by decide, by decide, ⟨rfl, by decide⟩, by decide⟩

theorem witness_ValuesOfALine :
    let im (kind : RowKind) : LineImage :=
      { kind := kind, ctx := greenCtx 0
        lanes := ⟨some (smallPrint, [1, 2, 3, 4, 5, 6]), some ({ smallPrint with first := 591 }, [1, 2, 3, 4, 5, 6])⟩ }
    (greenCtx 0).bal = some ⟨0, 4500, 0⟩ ∧
    ((∀ n ∈ (greenConf 0).table.get .green, n ≤ 65535) ∧ Memory.read16 (greenConf 0).gains 7328 ≤ 6143 ∧
      (greenCtx 0).phi.get .green ≤ 5120 ∧ 4500 ≤ 6143) ∧
    (3663 < 3664 ∧ (3664 - lab.paperWidth * 12 / 10) / 2 = 572 ∧ 572 ≤ 583 ∧ 583 < 572 + 12 ∧ ¬584 < 572 + 12) ∧
    (im .print).lanes.get .a = some (smallPrint, [1, 2, 3, 4, 5, 6]) ∧ (smallPrint.first ≤ 590 ∧ 590 < smallPrint.first + smallPrint.width) ∧
    (591 ≤ 592 ∧ 592 < 591 + 2 ∧ ¬592 < smallPrint.first + smallPrint.width) ∧ ¬(591 ≤ 589 ∨ smallPrint.first ≤ 589) ∧
    (im .blank).kind = .blank ∧ (im .calib).kind = .calib ∧ (im .print).kind = .print ∧
    (∃ r, (lining 107 [⟨false, 7, [1, 2, 3, 4, 5, 6]⟩]).ee.expo = some (.row r) ∧ r.kind = .print ∧
      ((107 : Word) - r.x0).toNat < r.length ∧ r.prints.a.isSome) ∧
    shows (exec .exposureFeedStep (lining 107 [⟨false, 7, [1, 2, 3, 4, 5, 6]⟩])) fun t =>
      t.ee.buffers.a.held = some [1, 2, 3, 4, 5, 6] :=
  ⟨rfl, by decide, by decide, rfl, by decide, by decide, by decide, rfl, rfl, rfl, ⟨_, rfl, rfl, by decide, rfl⟩, by decide⟩

/-- A running part at the end of a print row whose two prints have underrun, the one in lane B WITHDRAWN. -/
def underran : State :=
  { lining 108 [] with
    om := { table := tableWith 0 (order 9 3) }
    rc := { slot := some calibSlot }
    wt := {
      x := 108
      track := [
        { printAt 100 .a 9 0 .exposing with flags := { underrun := true } },
        { printAt 100 .b 9 0 .exposing with flags := { underrun := true, withdrawn := true } }] } }

theorem test_rowEnd_underrun : shows (exec .rowEnd underran) fun t =>
    t.rc.remakes = [⟨0, 9, 0, 1, 2⟩] ∧ (t.wt.track.map (·.flags.reject)) = [true, false] := by decide

theorem witness_RowEnds :
    (∃ r e, (lining 108 []).ee.expo = some (.row r) ∧ r.kind = .print ∧ r.length ≤ ((lining 108 []).wt.x - r.x0).toNat ∧
      (lining 108 []).wt.x ≠ (lining 108 []).wt.y ∧ (lining 108 []).mc.paperOutReq = false ∧
      findEntry (lining 108 []) (printKey r.x0 .a) = some e) ∧
    (∃ r a b, underran.ee.expo = some (.row r) ∧ r.kind = .print ∧ r.length ≤ (underran.wt.x - r.x0).toNat ∧
      underran.wt.x ≠ underran.wt.y ∧ underran.mc.paperOutReq = false ∧
      findEntry underran ⟨some r.x0, .a, .print⟩ = some a ∧ a.flags.underrun = true ∧ a.flags.withdrawn = false ∧
      a.ref.isSome ∧ findEntry underran ⟨some r.x0, .b, .print⟩ = some b ∧ b.flags.underrun = true ∧
      b.flags.withdrawn = true) ∧
    ∃ r, ({ inState .running with
        wt := { x := 340 }, ee := { expo := some (.row { kind := .calib, x0 := 100, length := 240, ctx := none }) } } : State).ee.expo
      = some (.row r) ∧ r.kind ≠ .print ∧ r.length ≤ ((340 : Word) - r.x0).toNat :=
  ⟨⟨_, _, rfl, rfl, by decide, by decide, rfl, rfl⟩,
    ⟨_, _, _, rfl, rfl, by decide, by decide, rfl, rfl, rfl, rfl, rfl, rfl, rfl, rfl⟩, _, rfl, by decide, by decide⟩

/-- A running part at the end of a calibration row, with its positions, its entries and its cut queue given. -/
def rowDone (x y : Word) (track : List Entry) (queue : List Boundary) (request : Bool) : State :=
  { inState .running with
    mc := { state := .running, paperOutReq := request }
    wt := { x := x, y := y, track := track }
    ct := { queue := queue }
    ee := { expo := some (.row { kind := .calib, x0 := 100, length := 240, ctx := none }), continuity := true } }

theorem witness_RowEndsAtRequestsAndEmptyLoop :
    let ended (s : State) : Prop :=
      ∃ r, s.ee.expo = some (.row r) ∧ r.kind ≠ .print ∧ r.length ≤ (s.wt.x - r.x0).toNat
    let loop := printAt 0 .a 9 0 .inLoop
    let blank : Entry := { kind := .blank, lane := .a, x0 := some 5, length := 600, stage := .processing }
    let asked (track : List Entry) (paper : Bool) : State :=
      { rowDone 340 200 track [] true with wt := { x := 340, y := 200, track := track, paperEnd := paper } }
    let leading (paper : Bool) : State := { asked [loop] paper with ee := { expo := some (.leadIn 4 false) } }
    let cuts : List Boundary := { pos := 5, rowAfter := none, rowBefore := some 0 } ::
      List.replicate 64 { pos := 9, rowAfter := some 9, rowBefore := none }
    (ended (asked [loop] true) ∧ ended (rowDone 340 340 [loop] [] false)) ∧
    ((asked [loop] true).wt.x ≠ (asked [loop] true).wt.y ∧ (asked [loop] true).mc.paperOutReq = true ∧
      StoreCanonical (asked [loop] true) ∧ (asked [loop] false).wt.paperEnd = false ∧ (asked [loop] true).wt.paperEnd = true ∧
      (∃ e ∈ (asked [loop] true).wt.track, e.kind ≠ .blank) ∧ (∀ e ∈ (asked [blank] true).wt.track, e.kind = .blank) ∧
      (asked [blank] true).su.conveyor = [] ∧ noCondition (asked [blank] true)) ∧
    ((leading true).ee.expo = some (.leadIn 4 false) ∧ (leading true).wt.paperEnd = true ∧ (leading false).wt.paperEnd = false ∧
      ∃ e ∈ (leading true).wt.track, e.kind ≠ .blank) ∧
    ((rowDone 340 340 [loop] [] false).wt.x = (rowDone 340 340 [loop] [] false).wt.y ∧
      (rowDone 340 340 [loop] [] false).rc.slot = none ∧ (rowDone 340 340 [loop] [] false).wt.track.length < 64 ∧
      (rowDone 340 340 [loop] [] false).ct.queue.length < 65 ∧
      ({ rowDone 340 340 [loop] [] false with rc := { slot := some calibSlot } } : State).rc.slot = some calibSlot ∧
      calibSlot.length ≤ lab.loopMax) ∧
    ((64 ≤ (List.replicate 63 loop ++ [blank]).length ∧
      ((List.replicate 63 loop ++ [blank]).filter (·.x0.isSome)).getLast? = some blank) ∧
    (cuts.length = 65 ∧ cuts.find? (fun q => decide (q.rowAfter = none)) = some { pos := 5, rowAfter := none, rowBefore := some 0 } ∧
      (∃ e ∈ (rowDone 340 340 [loop] cuts false).wt.track, e.x0 = some 0)) ∧
    rowBefore [printAt 100 .a 9 0 .inLoop 240] [] 340 = some 100) ∧
    (let end340 := (100 : Word) + lines (printAt 100 .a 9 0 .inLoop 240).length
     let end300 := (200 : Word) + lines (printAt 200 .b 9 1 .inLoop 100).length
     reached 344 end340 = true ∧ ((344 : Word) - end340).toNat ≤ ((344 : Word) - end300).toNat ∧
       (reached 340 end340 = true ∧ reached 339 end340 = false) ∧
       rowBefore [printAt 200 .b 9 1 .inLoop 100, printAt 100 .a 9 0 .inLoop 240] [{ boundary1 with pos := 340 }] 344 = none ∧
       rowBefore [printAt 200 .b 9 1 .inLoop 100, printAt 100 .a 9 0 .inLoop 240] [{ boundary1 with pos := 339 }] 344 =
         some 100) :=
  ⟨⟨⟨_, rfl, by decide, by decide⟩, ⟨_, rfl, by decide, by decide⟩⟩,
    ⟨by decide, rfl, canonical_of (by decide), rfl, rfl, by decide, by decide, rfl, calm_of (by decide)⟩,
    ⟨rfl, rfl, rfl, by decide⟩, ⟨rfl, rfl, by decide, by decide, rfl, by decide⟩, by decide, by decide⟩

theorem witness_TemperatureSampled :
    let s (hot : Bool) (now : Word) : State := { inState .running with cu := { lineClock := now }, ee := { hot := hot } }
    400 < 401 ∧ ((s false 249).cu.lineClock - (s false 249).ee.sampleAt).toNat < 250 ∧
      250 ≤ ((s false 250).cu.lineClock - (s false 250).ee.sampleAt).toNat ∧ State.reset.conf = none ∧
      (s false 250).conf = some lab ∧ lab.thetaMax < 201 ∧ (s true 250).ee.hot = true ∧ (s false 250).ee.hot = false ∧
      192 ≤ lab.thetaMax - 8 ∧ lab.thetaMax - 8 < 193 ∧ 200 ≤ lab.thetaMax := by decide

/-- A running part whose loop empties at the next process feed step. -/
def emptying (n : Nat) (continuity : Bool) : State :=
  { inState .running with
    wt := { x := 5000, y := 4999, track := List.replicate n (printAt 0 .a 9 0 .processing) }
    ee := { continuity := continuity }
    ct := { queue := List.replicate 64 { pos := 0, rowAfter := none, rowBefore := none } } }

theorem witness_ProcessFeedSteps :
    let stage (s : State) (e : Entry) : Entry :=
      if e.stage = .inLoop ∧ e.x0 = some (s.wt.y + 1) then { e with stage := .processing } else e
    let moved (s : State) : State :=
      if s.wt.x = s.wt.y then { s with work := {} }
      else { s with wt := { s.wt with y := s.wt.y + 1, track := s.wt.track.map (stage s) }, work := {} }
    let there (s : State) : State := { s with wt := { s.wt with y := s.wt.x } }
    let blank : Entry := { kind := .blank, lane := .a, x0 := some 4400, length := 600, stage := .processing }
    let full : State := { emptying 0 true with wt := { x := 5000, y := 4999, track := List.replicate 63 (printAt 0 .a 9 0 .processing) ++ [blank] } }
    ((inState .paused).mc.state ≠ .running ∧ (inState .paused).mc.state ≠ .pausing) ∧
    ((moved (standing 2 false true)).wt.x ≠ (moved (standing 2 false true)).wt.y) ∧
    slotCanGo (moved (standing 1 true true)) = true ∧
    ((standing 0 true true).wt.x = (standing 0 true true).wt.y ∧ slotCanGo (standing 0 true true) = true) ∧
    ((there (emptying 63 true)).wt.x = (there (emptying 63 true)).wt.y ∧ (there (emptying 63 true)).ee.expo = none ∧
      slotCanGo (moved (there (emptying 63 true))) = false ∧
      (moved (there (emptying 63 true))).wt.x = (moved (there (emptying 63 true))).wt.y) ∧
    ((moved (emptying 63 true)).wt.x = (moved (emptying 63 true)).wt.y ∧ (emptying 63 true).ee.expo = none ∧
      slotCanGo (moved (emptying 63 true)) = false ∧ (emptying 63 true).wt.track.length < 64 ∧
      (emptying 63 true).ct.queue.length < 65 ∧ (emptying 63 false).ee.continuity = false ∧
      slotCanGo (moved (emptying 63 false)) = false) ∧
    ((moved full).wt.x = (moved full).wt.y ∧ full.ee.expo = none ∧ slotCanGo (moved full) = false ∧ 64 ≤ full.wt.track.length ∧
      (full.wt.track.filter (·.x0.isSome)).getLast? = some blank ∧ blank.kind = .blank ∧ blank.x0 = some 4400) := by decide

theorem witness_MarksSeenAndMissed :
    let two (y : Word) (w : Window) (misses : Nat) : State :=
      { fourCuts y [] with
        ct := { queue := [{ boundary1 with mark := .seen, window := .closed }, { boundary2 with window := w }], misses := misses } }
    let takes (y : Word) (b : Boundary) : Bool := decide (b.window = .opened) && decide (b.mark = .pending) &&
      decide ((y - (b.pos + lines lab.lMk - lines lab.markWin)).toNat ≤ 2 * lab.markWin)
    ((two 54484 .ahead 0).mc.state = .running ∧
      firstBoundary (two 54484 .ahead 0) (fun b => decide (b.window = .ahead) &&
        reached (54484 : Word) (b.pos + lines lab.lMk - lines lab.markWin)) 1 boundary2 ∧
      firstBoundary (two 54564 .opened 0) (takes 54484) 1 { boundary2 with window := .opened } ∧
      firstBoundary (two 54564 .opened 0) (takes 54564) 1 { boundary2 with window := .opened } ∧
      (∀ b ∈ (two 54564 .opened 0).ct.queue, takes 54483 b = false) ∧
      ∀ b ∈ (two 54565 .opened 0).ct.queue, takes 54565 b = false) ∧
    firstBoundary (two 54565 .opened 1) (fun b => decide (b.window = .opened) && decide (b.mark = .pending) &&
      reached (54565 : Word) (b.pos + lines lab.lMk + lines lab.markWin + 1)) 1 { boundary2 with window := .opened } ∧
    ((two 54565 .opened 0).ct.misses = 0 ∧ 1 ≤ (two 54565 .opened 1).ct.misses ∧ (two 54565 .opened 2).ct.misses ≤ 2) ∧
    let kept : State := { two 54565 .opened 1 with wt := { y := 54565, track := [printAt 56000 .a 853 3 .inLoop] } }
    (∀ e ∈ kept.wt.track, e.key ≠ ⟨none, .a, .blank⟩) ∧ ∃ e ∈ kept.wt.track, e.x0.isSome ∧
      ∀ f ∈ kept.wt.track, f.key = e.key → decide (f.stage = .exposing ∨ f.stage = .processing) = false := by
  unfold firstBoundary
  decide

theorem witness_KnifeFires :
    let b1 : Boundary := { boundary1 with mark := .seen, delta := 3, window := .closed }
    let b2 : Boundary := { boundary2 with mark := .missed, window := .closed }
    (fourCuts 54127 [b1, boundary2]).ct.queue = b1 :: [boundary2] ∧ b1.mark ≠ .pending ∧
    reached (54127 : Word) (b1.pos + lines lab.lCut + BitVec.ofInt 32 b1.delta) = true ∧
    { b1 with rowBefore := none }.rowBefore = none ∧ b1.rowBefore = some 50000 ∧
    (∀ e ∈ (fourCuts 54127 [b1, boundary2]).wt.track, e.x0 = some 50000 → e.stage = .processing ∧ e.kind ≠ .blank) ∧
    (b2.mark ≠ .pending ∧ reached (54724 : Word) (b2.pos + lines lab.lCut + BitVec.ofInt 32 b2.delta) = true ∧
      b2.rowBefore = some 51524 ∧
      (∀ e ∈ (fourCuts 54724 [b2]).wt.track, e.x0 = some 51524 → e.kind = .blank ∧ e.ref = none ∧ e.stage = .processing) ∧
      ([] : List Boundary).all (fun q => decide (q.rowBefore ≠ some 51524 ∧ q.rowAfter ≠ some 51524)) = true) := by decide

/-- The piece of order 7304 at the diverter, with `n` pieces on the conveyor and its entry flagged as given. -/
def diverting (b5 : Bin) (n : Nat) (flags : TrackFlags) : State :=
  { sorting b5 (List.replicate n ⟨⟨some 0, .b, .print⟩, 5, 812400⟩) [key7304] with
    wt := { track := [{ printAt 100 .a 7304 2 .cut with flags := flags }] } }

theorem witness_PiecesRouted :
    let live := diverting { bin5 with delivered := 22 } 7 {}
    let e : Entry := printAt 100 .a 7304 2 .cut
    let owner : Owner := { slot := 2, number := 7304 }
    let qualifies (s : State) (p : BinPlace) : Bool :=
      let b := s.su.bins[p.bin]
      !p.early && decide (b.owner = some owner) && (decide (b.state = .reserved) || decide (b.state = .filling))
        && decide (b.delivered + b.routed < s.cfg.binCap)
    (live.mc.state ≠ .cleared ∧ live.mc.convStop = false ∧ live.su.awaiting = key7304 :: [] ∧
      findEntry live key7304 = some e ∧ live.su.conveyor.length < 8 ∧ e.ref = some ⟨2, 7304, 0, 1, 1⟩ ∧ e.live = true ∧
      orderIn live 2 7304 = some order7304 ∧ order7304.bins.find? (qualifies live) = some ⟨5, false⟩ ∧
      live.su.bins[(5 : Fin 32)].doorOpen = false ∧
      (diverting { bin5 with doorOpen := true } 7 {}).su.bins[(5 : Fin 32)].doorOpen = true) ∧
    (let s := diverting { bin5 with delivered := 23 } 7 {}
     order7304.bins.find? (qualifies s) = none ∧ order7304.bins.head? = some ⟨5, false⟩) ∧
    (findEntry (diverting bin5 7 { reject := true }) key7304).any (·.flags.reject) = true ∧
    findEntry { live with wt := {} } key7304 = none ∧
    (8 ≤ (diverting bin5 8 {}).su.conveyor.length ∧ key7304.x0.isSome ∧ findEntry (diverting bin5 8 {}) key7304 = some e ∧
      orderIn (diverting bin5 8 {}) 2 7304 = some order7304 ∧
      order7304.bins.find? (qualifies (diverting bin5 8 {})) = some ⟨5, false⟩ ∧
      order7304.bins.find? (qualifies (diverting { bin5 with delivered := 23 } 8 {})) = none) := by
  decide

theorem witness_EntriesRemoved :
    let s := sorting bin5 [⟨key7304, 5, 812400⟩] [key7304]
    let e : Entry := printAt 100 .a 7304 2 .cut
    let patch : Entry := { kind := .calib, lane := .a, x0 := some 9, length := 240, stage := .processing }
    let t : State := { inState .running with
      wt := { track := [patch, { patch with kind := .blank, x0 := none }] }, ca := { state := .inFlight, patch := some ⟨9, 150, none⟩ } }
    findEntry s key7304 = some e ∧ e.key = key7304 ∧ e.kind = .print ∧ e.ref = some ⟨2, 7304, 0, 1, 1⟩ ∧
      ¬(e.flags.reject = true ∨ e.flags.lost = true ∨ e.flags.withdrawn = true) ∧
      (∀ x ∈ s.wt.track, x.key ≠ ⟨none, .a, .blank⟩) ∧
      s.su.conveyor.find? (fun x => decide (x.piece = key7304)) = some ⟨key7304, 5, 812400⟩ ∧
      (∀ x ∈ (sorting bin5 [] []).su.conveyor, x.piece ≠ key7304) ∧
      (∀ f ∈ s.wt.track, f.key ≠ key7304 → f.x0 ≠ some 100) ∧
      (∃ f ∈ (fourCuts 0 []).wt.track, f.key ≠ ⟨some 50000, .a, .print⟩ ∧ f.x0 = some 50000) ∧
      (findEntry (diverting bin5 0 { lost := true }) key7304).any (·.flags.lost) = true ∧
      findEntry t ⟨some 9, .a, .calib⟩ = some patch ∧ patch.ref = none ∧ t.ca.state = .inFlight ∧
      t.ca.patch = some ⟨9, 150, none⟩ ∧ (inState .running).ca.state ≠ .inFlight ∧
      findEntry t ⟨none, .a, .blank⟩ = some { patch with kind := .blank, x0 := none } := by decide

theorem witness_ArrivalsMatched :
    let s (d : Fin 34) (n : Nat) : State :=
      { sorting bin5 [⟨key7304, d, 812400⟩] [] with su := { conveyor := [⟨key7304, d, 812400⟩], late := (Vector.replicate 34 {}).set 5 ⟨n, 0⟩ } }
    let first (t : State) (d : Fin 34) : Option ConvEntry := t.su.conveyor.find? fun c => decide (c.dest = d)
    (inState .cleared).mc.state = .cleared ∧ (s 5 0).mc.state ≠ .cleared ∧ (s 5 0).mc.convStop = false ∧
      (s 5 8).su.late[(5 : Fin 34)].count = 7 + 1 ∧ (s 5 0).su.late[(5 : Fin 34)].count = 0 ∧
      (∀ c ∈ (s 6 0).su.conveyor, c.dest ≠ 5) ∧ first (s 5 0) 5 = some ⟨key7304, 5, 812400⟩ ∧
      (s 32 0).su.late[(32 : Fin 34)].count = 0 ∧ first (s 32 0) 32 = some ⟨key7304, 32, 812400⟩ ∧
      first (s 33 0) 33 = some ⟨key7304, 33, 812400⟩ ∧ (5 : Fin 34).1 = (5 : Fin 32).1 := by decide

/-- An open order of kind 1, 2 in slot 7 with its tally. -/
def tallying : State :=
  { inState .running with
    om := { table := tableWith 7 (order 9 2) }
    pu := { orders := (Vector.replicate 8 {}).set 7 { kinds := [⟨1, 2⟩], tally := [⟨⟨1, 2⟩, 4⟩] } } }

theorem witness_ReportsCounted :
    let s : State := { tallying with wt := { track := [printAt 100 .a 9 7 .conveyor] } }
    StoreCanonical s ∧ orderIn s 7 8 = none ∧ orderIn s 7 9 = some (order 9 2) ∧
      s.pu.orders[(7 : Fin 8)].kinds[0]? = some ⟨1, 2⟩ ∧
      findEntry s ⟨some 100, .a, .print⟩ = some (printAt 100 .a 9 7 .conveyor) ∧
      (printAt 100 .a 9 7 .conveyor).ref = some ⟨7, 9, 0, 1, 1⟩ ∧
      ({ items := [{ good := 65537, failed := 999, underrun := true }], stamp := some 7, state := .done, reason := .noReason } :
        Progress).items[0]? = some { good := 65537, failed := 999, underrun := true } :=
  ⟨canonical_of (by decide), by decide⟩

theorem witness_OrderCloses :
    let o (good : Nat) (p : OrderPhase) : OpenOrder := { order7304 with nPrints := 40, good := good, phase := p }
    let s (o : OpenOrder) (b : Bin) : State :=
      { sorting b [] [] with om := { table := tableWith 2 o }, wt := { track := [{ printAt 100 .a 7304 2 .cut with flags := { reject := true } }] } }
    let done := s (o 40 .composed) bin5
    let gone : State := { s (o 20 (.withdrawing true)) { bin5 with state := .reserved } with wt := {} }
    let held : GenSlot := { current := true, number := 1, table := priced ⟨410, .percent, 10, 8, 0⟩, hold := 1 }
    let holding (g : GenSlot) : State := { s { o 40 .composed with gen := some 1 } bin5 with
      pu := { gens := ⟨#[some { held with number := 2 }, some g], rfl⟩ } }
    (done.om.table[(2 : Fin 8)] = some (o 40 .composed) ∧ (∀ r ∈ done.rc.remakes, ¬(r.slot = 2 ∧ r.number = 7304)) ∧
      (o 40 .composed).good + (o 40 .composed).failed + (o 40 .composed).dropped = (o 40 .composed).nPrints ∧
      (∀ e ∈ done.wt.track, e.ofOrder 2 7304 = true → e.live = false) ∧ validAddress (o 40 .composed).addr ∧
      StoreCanonical done ∧
      (∃ q ∈ (o 40 .composed).bins, done.su.bins[q.bin].owner = some { slot := 2, number := 7304 } ∧
        done.su.bins[q.bin].state = .filling ∧ done.su.bins[q.bin].doorOpen = false ∧ done.cfg.unloadLimit ≠ 0) ∧
      (∀ q ∈ (o 40 .composed).bins, q.bin ≠ 31)) ∧
    (gone.om.table[(2 : Fin 8)] = some (o 20 (.withdrawing true)) ∧ (∀ e ∈ gone.wt.track, e.ofOrder 2 7304 = false) ∧
      gone.su.bins[(5 : Fin 32)].state = .reserved) ∧
    ((∃ q, (holding held).om.table[(2 : Fin 8)] = some q ∧ q.gen = some 1 ∧ q.good + q.failed + q.dropped = q.nPrints) ∧
      ((holding held).pu.gens[(1 : Fin 2)] = some held ∧ held.number = 1 ∧ held.current = true) ∧
      (holding { held with current := false }).pu.gens[(1 : Fin 2)] = some { held with current := false } ∧ held.hold ≤ 1 ∧
      ((holding held).pu.gens[(0 : Fin 2)] = some { held with number := 2 } ∧ (2 : Word) ≠ 1)) ∧
    ¬((o 39 .composed).good + (o 39 .composed).failed + (o 39 .composed).dropped = (o 39 .composed).nPrints) := by
  refine ⟨⟨by decide, by decide, by decide, by decide, ?_, canonical_of (by decide), by decide, by decide⟩, by decide, ⟨⟨_, rfl, rfl, rfl⟩, by decide⟩, by decide⟩
  unfold validAddress
  decide

theorem witness_MisroutesAndLateMarks :
    let c : ConvEntry := ⟨key7304, 33, 0⟩
    let s (now : Word) : State :=
      { sorting bin5 [c] [] with
        cu := { lineClock := now }, su := { conveyor := [c], late := (Vector.replicate 34 {}).set 33 ⟨8, 1500⟩ } }
    (s 1500).mc.state ≠ .cleared ∧ (s 1500).mc.convStop = false ∧ (s 1500).su.conveyor.head? = some c ∧ c.piece.x0.isSome ∧
      (s 1500).cfg.confirmLimit ≤ ((s 1500).cu.lineClock - c.stamp).toNat ∧
      (({ s 1500 with su := { bins := binsWith 5 bin5, conveyor := [⟨key7304, 5, 0⟩] } } : State).su.bins[5].routed = 2 ∧
        (findEntry (s 1500) c.piece).isSome) ∧
      ((s 1499).cu.lineClock - c.stamp).toNat < (s 1499).cfg.confirmLimit ∧ 0 < (s 1500).su.late[(33 : Fin 34)].count ∧
      reached (s 1500).cu.lineClock (s 1500).su.late[(33 : Fin 34)].expiry = true := by decide

theorem witness_BinsUnloaded :
    let s (b : Bin) (doors : Bool) (o : Option OpenOrder) : State :=
      { inState .running with
        cu := { lineClock := 600 }, om := { table := (Vector.replicate 8 none).set 2 o }, su := { bins := binsWith 31 b }
        pins := { doors := Vector.replicate 32 doors } }
    let at31 (t : State) : Bin := t.su.bins[(31 : Fin 32)]
    let r : State := { inState .paused with su := { bins := binsWith 7 { state := .complete } } }
    ((s {} false none).pins.doors[(31 : Fin 32)] = false ∧ (at31 (s { state := .full } false none)).state = .full ∧
      (at31 (s { state := .reserved } false none)).state = .reserved ∧ (at31 (s { state := .complete } false none)).state = .complete ∧
      (s {} true none).pins.doors[(31 : Fin 32)] = true ∧ (at31 (s { state := .full } true none)).owner = none ∧
      (at31 (s { state := .full, owner := some ⟨2, 7304⟩ } true (some order7304))).owner = some ⟨2, 7304⟩ ∧
      orderIn (s { state := .full, owner := some ⟨2, 7304⟩ } true (some order7304)) 2 7304 = some order7304 ∧
      (at31 (s { countdown := some 600 } false none)).countdown = some 600 ∧
      reached (s { countdown := some 600 } false none).cu.lineClock 600 = true) ∧
    StoreCanonical r ∧ r.cu.job = none ∧ r.mc.state ≠ .cleared ∧ State.reset.mc.state = .cleared ∧
      r.cfg.binCount ≤ (8 : Word).toNat ∧ 32 ≤ (32 : Word).toNat ∧ (7 : Word).toNat = (7 : Fin 32).1 ∧
      (7 : Fin 32).1 < r.cfg.binCount ∧ r.su.bins[(7 : Fin 32)].state = .complete ∧ r.su.bins[(6 : Fin 32)].state ≠ .complete :=
  ⟨by decide, canonical_of (by decide), by decide⟩

/-- A part that reads a price table of `n` lines, with generation 1 current. -/
def pricing (n : Nat) (hold : Nat) (both : Bool) : State :=
  { inState .ready with
    cu := { job := some (.loadPrices 4096) }
    pu := {
      gens := ⟨#[some ⟨true, 1, priced ⟨410, .percent, 10, 8, 0⟩, hold⟩,
        if both then some ⟨false, 2, priced ⟨410, .percent, 10, 8, 0⟩, 1⟩ else none], rfl⟩
      counter := 4294967295 }
    store := words [(4096, n)] }

theorem witness_PricesLoaded :
    let ok (a : Nat) : Prop := a % 64 = 0 ∧ 4096 ≤ a ∧ a + 16 ≤ 268435456
    let idle (s : State) : State := { s with cu := {} }
    (StoreCanonical (idle (pricing 1 0 false)) ∧ (idle (pricing 1 0 false)).cu.job = none ∧ State.reset.mc.state = .cleared ∧
      (idle (pricing 1 0 false)).mc.state ≠ .cleared ∧ ¬ok 268435456 ∧ ok 268435392 ∧
      (∀ i : Fin 2, (pricing 1 0 true).pu.gens[i].isSome) ∧ (∃ i : Fin 2, (pricing 1 0 false).pu.gens[i] = none)) ∧
    ((pricing 65 0 false).cu.job = some (.loadPrices 4096) ∧
      lowestFailing (priceChecks (pricing 65 0 false).store 4096) = some 0 ∧
      lowestFailing (priceChecks (pricing 64 0 false).store 4096) = none ∧ StoreCanonical (pricing 64 0 false) ∧
      (pricing 64 0 false).pu.gens[(0 : Fin 2)] = some ⟨true, 1, priced ⟨410, .percent, 10, 8, 0⟩, 0⟩ ∧
      (pricing 64 3 false).pu.gens[(0 : Fin 2)] = some ⟨true, 1, priced ⟨410, .percent, 10, 8, 0⟩, 3⟩) ∧
    ∀ x, (inState .ready).cu.job ≠ some (.loadPrices x) := by
  refine ⟨⟨canonical_of (by decide), by decide⟩, ⟨by decide, by decide, by decide, canonical_of (by decide), by decide, by decide⟩,
    fun x h => by cases h⟩

theorem witness_PriceOfTally :
    let t := priced ⟨410, .percent, 100, 8, 1000⟩
    let subtotal (qty : Nat) : Nat := (priceTally t 0 410 [⟨⟨1, 2⟩, qty⟩]).subtotal
    (∀ p ∈ t.promos, p.kind = .percent → p.value ≤ 100) ∧ subtotal 0 = 0 ∧ subtotal 24 = 840 ∧ subtotal 24 < 1000 ∧
      subtotal 100 = 2500 ∧ 410 ≠ 0 ∧ (∀ q ∈ t.promos, q.code ≠ 411) ∧
      t.promos.find? (fun q => decide (q.code = 410)) = some ⟨410, .percent, 100, 8, 1000⟩ := by decide

theorem witness_PricesChosen :
    let at? (k : ItemKind) (tier n : Nat) (l : PriceLine) : Bool := decide (l.group = k.group ∧
      (n = 1 ∧ l.surface = some k.surface ∧ l.tier = some tier ∨ n = 2 ∧ l.surface = some k.surface ∧ l.tier = none ∨
        n = 3 ∧ l.surface = none ∧ l.tier = some tier ∨ n = 4 ∧ l.surface = none ∧ l.tier = none))
    let l : PriceLine := ⟨1, none, none, 35, [⟨25, 30⟩, ⟨100, 25⟩]⟩
    let s := pricing 1 0 true
    (specific.map (at? ⟨1, 3⟩ 2 2) = [false, false, true, false, true] ∧ specific.all (fun x => !at? ⟨1, 3⟩ 2 1 x) = true ∧
      specific.any (at? ⟨1, 4⟩ 2 3) = true ∧ specific.any (at? ⟨3, 3⟩ 2 4) = true ∧
      [1, 2, 3, 4].all (fun n => specific.all fun x => !at? ⟨5, 3⟩ 2 n x) = true) ∧
    (l.breaks.Pairwise (fun a b => a.minimum < b.minimum) ∧ 25 ≤ 25 ∧ ¬100 ≤ 99 ∧ ∀ b ∈ l.breaks, 24 < b.minimum) ∧
    ({ order 9 1 with phase := .withdrawing false } : OpenOrder).phase = .withdrawing false ∧
    (order 9 1).phase ≠ .withdrawing false ∧ (order 9 1).gen = none ∧
    s.pu.gens[(1 : Fin 2)] = some ⟨false, 2, priced ⟨410, .percent, 10, 8, 0⟩, 1⟩ ∧
    ∀ (k : Fin 2) (x : GenSlot), s.pu.gens[k] = some x → x.number = 2 → k = 1 := by decide

/-! A store with no byte from an address on reads 0 there, so a gain table of zeros passes without a look at each gain. -/

theorem read_above {m : Memory} {a : Nat} (h : ∀ c ∈ m, c.1 < a) : Memory.read m a = Config.unwrittenByte := by
  induction m with
  | nil => rfl
  | cons c t ih =>
    have hc := h c (by simp)
    simp only [Memory.read, Nat.ne_of_lt hc, if_false]
    exact ih fun d hd => h d (by simp [hd])

theorem zero_gains {m : Memory} {g : Nat} (h : ∀ c ∈ m, c.1 < g) (ok : recordAddressOk g Config.gainBytes = true) :
    gainTableOk m g = true := by
  have z (i : Nat) : Memory.read16 m (g + i) = 0 := by
    have r (j : Nat) : Memory.read m (g + j) = Config.unwrittenByte := read_above fun c hc => by have := h c hc; omega
    simp [Memory.read16, Memory.readNat, Nat.add_assoc, r]
  simp [gainTableOk, ok, z, gainOk]

/-- A configuration record at 4096 that passes, its gain table of zeros at the last place that holds one. -/
def goodRecord : Memory := words [
  (4096, 2100 + 65536 * (256 * 2)), (4100, 3 + 65536 * 40), (4104, 268413440), (4112, 1200 + 65536 * 600),
  (4116, 1000 + 65536 * 2400), (4120, 2600 + 65536 * 140), (4124, 300 + 65536 * 8), (4128, 8 + 256 * 40 + 65536 * 25),
  (4132, 1500), (4144, 1000 + 65536 * 1000), (4148, 1000), (4152, 4096 + 65536 * 4096), (4156, 4096)]

theorem goodRecord_gains : gainTableOk goodRecord (gainAddr goodRecord 4096) = true :=
  zero_gains (by decide) (by decide)

/-- A part that reads a record at 4096. -/
def configuring (m : MachineState) (store : Memory) : State :=
  { inState m with cu := { job := some (.configure 4096) }, store := store }

set_option maxRecDepth 4000 in
theorem goodRecord_passes :
    lowestFailing (confChecks goodRecord 4096 (configuring .paused goodRecord).cfg.binCap (configuring .paused goodRecord).su.bins)
      = none := by
  unfold confChecks
  rw [goodRecord_gains]
  decide

set_option maxRecDepth 4000 in
theorem goodRecord_passes_first :
    lowestFailing (confChecks goodRecord 4096 (State.reset).cfg.binCap (Vector.replicate 32 {})) = none := by
  unfold confChecks
  rw [goodRecord_gains]
  decide

set_option maxRecDepth 4000 in
theorem witness_ConfigureInstalls :
    let ok (a : Nat) : Prop := a % 64 = 0 ∧ 4096 ≤ a ∧ a + 512 ≤ 268435456
    let checked (s : State) : Option Nat := lowestFailing (confChecks s.store 4096 s.cfg.binCap s.su.bins)
    let first : State := { configuring .cleared goodRecord with conf := none, su := { late := Vector.replicate 34 { count := 8 } } }
    (StoreCanonical (inState .ready) ∧ (inState .ready).cu.job = none ∧ (inState .ready).mc.state = .ready ∧
      (inState .running).mc.state = .running ∧ (inState .paused).wt.track = [] ∧ (withPrint .paused).wt.track ≠ [] ∧
      ok 268434944 ∧ ¬ok 268435008) ∧
    (configuring .paused []).cu.job = some (.configure 4096) ∧ checked (configuring .paused []) = some 0 ∧
    checked (configuring .paused goodRecord) = none ∧ checked (configuring .running goodRecord) = none ∧
    StoreCanonical (configuring .paused goodRecord) ∧ (∀ x, (inState .ready).cu.job ≠ some (.configure x)) ∧
    checked first = none ∧ first.conf = none ∧ first.mc.state = .cleared ∧ first.su.late[(33 : Fin 34)].count ≠ 0 ∧
    StoreCanonical first ∧ (configuring .paused goodRecord).conf.isSome := by
  refine ⟨⟨canonical_of (by decide), by decide⟩, by decide, ?_, goodRecord_passes, goodRecord_passes, canonical_of (by decide),
    (fun x h => by cases h), ?_, rfl, rfl, by decide, canonical_of (by decide), rfl⟩
  · decide
  · exact goodRecord_passes_first

theorem witness_FieldsChecked :
    (0x08, false) ∈ confChecks [] 4096 25 (Vector.replicate 32 {}) ∧ (0x00, false) ∈ confChecks [] 4096 25 (Vector.replicate 32 {}) ∧
      (0x12, true) ∈ confChecks (words [(4112, 600 * 65536)]) 4096 25 (Vector.replicate 32 {}) ∧
      (2, false) ∈ priceChecks (words [(4096, 64 + 65536 * 9)]) 4096 ∧
      (0x13, false) ∈ priceChecks (words [(4096, 1), (4112, 65536 * 65536 - 1)]) 4096 ∧
      (0x18, false) ∈ priceChecks (words [(4096, 1), (4112, 256 * 65536), (4120, 1)]) 4096 ∧
      (0x24, false) ∈ priceChecks (words [(4096, 1 + 65536)]) 4096 ∧ lowestFailing [(9, true), (7, false), (3, false)] = some 3 := by
  decide

theorem witness_SectionsReset :
    let s : State := { inState .paused with
      su := { bins := ((Vector.replicate 32 {}).set 5 { state := .complete, countdown := some 9 }).set 6 { state := .complete } }
      pins := { doors := (Vector.replicate 32 false).set 6 true } }
    let carrying : State := { sorting bin5 [⟨key7304, 33, 0⟩] [] with
      mc := { state := .paused }
      wt := { track := [printAt 100 .a 7304 2 .conveyor, printAt 2000 .a 9 0 .inLoop] }
      ct := { queue := [{ pos := 1900, rowAfter := none, rowBefore := none }, { pos := 2000, rowAfter := none, rowBefore := none }] } }
    StoreCanonical carrying ∧ (carrying.cu.job = none ∧ carrying.mc.state = .paused ∧
      ((carrying.su.conveyor.filter fun c => decide (c.dest = 33)).length ≠ 0 ∧
        (carrying.su.conveyor.filter fun c => decide (c.dest = 5)).length = 0) ∧
      (∃ e ∈ carrying.wt.track, ¬(e.stage = .cut ∨ e.stage = .conveyor) ∧
        ∀ f ∈ carrying.wt.track, (f.stage = .cut ∨ f.stage = .conveyor) → f.key ≠ e.key) ∧
      ((∃ e ∈ carrying.wt.track, e.x0 = some 2000) ∧ ¬∃ e ∈ carrying.wt.track, e.x0 = some 1900) ∧
      (rowBefore carrying.wt.track [] 1900 = some 100 ∧ carrying.su.bins[(5 : Fin 32)].state ≠ .complete)) ∧
    StoreCanonical s ∧ s.cu.job = none ∧ (inState .pausing).mc.state = .pausing ∧ s.mc.state = .paused ∧
      s.su.bins[(5 : Fin 32)].state = .complete ∧ s.pins.doors[(5 : Fin 32)] = false ∧ s.cfg.unloadLimit ≠ 0 ∧
      s.su.bins[(6 : Fin 32)].state = .complete ∧ s.pins.doors[(6 : Fin 32)] = true :=
  ⟨canonical_of (by decide), by decide, canonical_of (by decide), by decide⟩

theorem witness_EventsNotDue :
    let s := inState .paused
    let feeds (t : State) : Prop := t.mc.state = .running ∨ t.mc.state = .pausing
    let far : State := { standing 5761 true true with ct := { queue := [boundary1, { boundary2 with window := .opened }] } }
    (¬feeds s ∧ feeds far ∧ s.ee.continuity = false ∧ s.ee.expo = none ∧ far.ee.continuity = true ∧
      ¬(far.wt.x - far.wt.y).toNat + 0 + calibSlot.length ≤ far.cfg.loopMax ∧ far.rc.slot = some calibSlot ∧
      far.wt.x ≠ far.wt.y) ∧
    ((lining 107 []).ee.expo = some (exposing 100 8) ∧ ((107 : Word) - 100).toNat < 8 ∧ 8 ≤ ((108 : Word) - 100).toNat ∧
      ({ s with ee := { expo := some (.leadIn 4 true) } } : State).ee.expo = some (.leadIn 4 true)) ∧
    (4095 ≤ 4095 ∧ s.ca.state ≠ .inFlight ∧ (patchRead 0).ca.state = .inFlight ∧
      reached (1099 : Word) (100 + lines lab.lDens) = false) ∧
    (reached far.wt.y (boundary1.pos + lines far.cfg.lMk - lines far.cfg.markWin) = false ∧
      reached far.wt.y (boundary2.pos + lines far.cfg.lMk + lines far.cfg.markWin + 1) = false ∧
      far.ct.queue.head? = some boundary1 ∧ boundary1.mark = .pending) ∧
    ((inState .cleared).mc.state = .cleared ∧ s.mc.convStop = false ∧ s.su.awaiting = [] ∧ s.su.conveyor = [] ∧
      s.su.late[(33 : Fin 34)].count = 0 ∧ reached (1499 : Word) 1500 = false ∧ s.su.bins[(31 : Fin 32)].countdown = none) ∧
    s.pins.doors[(31 : Fin 32)] = false ∧
      ({ s with pins := { doors := Vector.replicate 32 true } } : State).pins.doors[(31 : Fin 32)] = true := by
  decide

/-- A part with a command waiting, whose invariants hold. -/
def waiting (c : Instr) (s : State) : State := { s with pending := [c] }

theorem witness_StoreStaysCanonical :
    StoreCanonical (waiting .lineClockTick written) ∧ ∃ t, step (waiting .lineClockTick written) = .next t :=
  ⟨canonical_of (by decide), _, rfl⟩

theorem witness_ControlStaysConsistent :
    ControlConsistent (waiting .start (inState .ready)) ∧ ∃ t, step (waiting .start (inState .ready)) = .next t :=
  ⟨⟨by decide, by decide, by decide, by decide⟩, _, rfl⟩

theorem witness_NoticesStayOk :
    let s := waiting .lineClockTick (noted (some (wanted 1)) [wanted 2, wanted 3, wanted 4, wanted 5])
    NoticesOk s ∧ ∃ t, step s = .next t := by
  refine ⟨?_, _, rfl⟩
  unfold NoticesOk ClassOk
  decide

theorem witness_CapacitiesHold :
    WithinCapacity (waiting .lineClockTick (standing 0 true true)) ∧
      ∃ t, step (waiting .lineClockTick (standing 0 true true)) = .next t :=
  ⟨⟨by decide, by decide, by decide, by decide, by decide, by decide, by decide, fun l => by cases l <;> decide⟩, _, rfl⟩

theorem witness_BalancesAndSensorsHold :
    CalibrationOk (waiting .lineClockTick (patchRead 0)) ∧ SensorsFollowed (waiting .lineClockTick (patchRead 0)) ∧
      ∃ t, step (waiting .lineClockTick (patchRead 0)) = .next t := by
  refine ⟨⟨fun b h => ?_, fun p h b hb => ?_⟩, by unfold SensorsFollowed; decide, _, rfl⟩
  · cases h
    intro k
    cases k <;> decide
  · cases h
    cases hb

end Sys2Proof.Tests
end

section
/-! SUPPORT. A command posted to an idle cell reaches its owner, and what INITIATE and RESUME come to (R4, R10, R176, R177). -/

namespace Sys2Proof.Machine

/-! ## A posted command reaches its owner -/

@[simp] theorem attended_om (s : State) : (attended s).om = s.om := by simp [attended]

@[simp] theorem attended_mc (s : State) : (attended s).mc = s.mc := by simp [attended]

@[simp] theorem offered1_om (c : Command) (w : Word) (s : State) : (offered1 c w s).om = s.om := by simp [offered1]

@[simp] theorem offered2_om (c : Command) (w v : Word) (s : State) : (offered2 c w v s).om = s.om := by simp [offered2]

@[simp] theorem offered2_mc (c : Command) (w v : Word) (s : State) : (offered2 c w v s).mc = s.mc := by simp [offered2]

theorem postWord0_wf (c : Command) {s : State} (h : Memory.wf s.store) : Memory.wf (postWord0 c s).store :=
  Memory.wf_write32 h _ _

theorem postWord1_wf (w : Word) {s : State} (h : Memory.wf s.store) : Memory.wf (postWord1 w s).store :=
  Memory.wf_writeWord h _ _

theorem postWord2_wf (w : Word) {s : State} (h : Memory.wf s.store) : Memory.wf (postWord2 w s).store :=
  Memory.wf_writeWord h _ _

/-- The cell's bytes below the slots read after an attention as before it. -/
theorem attended_read8 (s : State) {a : Nat} (h : a < 64) : Memory.read8 (attended s).store a = Memory.read8 s.store a :=
  Memory.read8_congr fun b _ hb => attended_read s (by simp only [inSlots]; omega)

/-- The cell's words below the slots read after an attention as before it. -/
theorem attended_readWord (s : State) {a : Nat} (h : a + 4 ≤ 64) :
    Memory.readWord (attended s).store a = Memory.readWord s.store a :=
  Memory.readWord_congr fun b _ hb => attended_read s (by simp only [inSlots]; omega)

/-- The writing of word 0 keeps every word that lies past it. -/
theorem postWord0_readWord (c : Command) (s : State) {a : Nat} (h : 4 ≤ a) :
    Memory.readWord (postWord0 c s).store a = Memory.readWord s.store a :=
  Memory.readWord_congr fun b hb _ => Memory.read_writeNat s.store 4 (1 + 256 * c.code) (by omega)

/-- The writing of operand word 2 keeps operand word 1. -/
theorem postWord2_cellWord1 (v : Word) (s : State) : cellWord1 (postWord2 v s).store = cellWord1 s.store :=
  Memory.readWord_congr fun b _ hb => Memory.read_writeNat s.store 4 v.toNat (by omega)

theorem postWord1_cellWord1 (w : Word) {s : State} (h : Memory.wf s.store) : cellWord1 (postWord1 w s).store = w :=
  Memory.readWord_writeWord h 4 w

theorem postWord2_cellWord2 (v : Word) {s : State} (h : Memory.wf s.store) : cellWord2 (postWord2 v s).store = v :=
  Memory.readWord_writeWord h 8 v

theorem cellPosted_attended_postWord0 (c : Command) {s : State} (h : Memory.wf s.store) :
    cellPosted (attended (postWord0 c s)).store = true := by
  rw [cellPosted, attended_read8 _ (by omega), postWord0, Memory.read8_write32 h, decide_eq_true_eq]
  omega

theorem cellCode_attended_postWord0 (c : Command) {s : State} (h : Memory.wf s.store) :
    cellCode (attended (postWord0 c s)).store = c.code := by
  rw [cellCode, attended_read8 _ (by omega), postWord0, Memory.read8_write32_one h 0]
  cases c <;> rfl

/-- A command posted to an idle cell is handed to its owner with the operand words that stand in the cell, and answered
in the event that takes it (R176, R177, R178). -/
theorem attention_postWord0 (c : Command) {s : State} (h : Memory.wf s.store) (idle : s.cu.job = none) :
    attention (postWord0 c s) =
      answered c (runCommand c (cellWord1 s.store) (cellWord2 s.store) (attended (postWord0 c s))) := by
  have kept (a : Nat) (lo : 4 ≤ a) (hi : a + 4 ≤ 64) :
      Memory.readWord (attended (postWord0 c s)).store a = Memory.readWord s.store a :=
    (attended_readWord _ hi).trans (postWord0_readWord c s lo)
  rw [attention_idle _ (by simpa using idle), if_pos (cellPosted_attended_postWord0 c h),
    takeCommand_eq _ c (cellCode_attended_postWord0 c h), cellWord1, cellWord2,
    kept 4 (by omega) (by omega), kept 8 (by omega) (by omega)]
  rfl

/-- The event of a command posted with one operand. Its owner is handed whatever stands in operand word 2. -/
theorem event_posted1 (c : Command) (w : Word) {s : State} (h : StoreCanonical s) (idle : s.cu.job = none) :
    event (posted1 c w) s =
      settle (answered c (runCommand c w (cellWord2 (postWord1 w s).store) (offered1 c w s))) := by
  have h1 : Memory.wf (postWord1 w { s with work := {} }).store := postWord1_wf w h
  rw [event, posted1, attention_postWord0 c h1 (by simpa using idle),
    postWord1_cellWord1 w (s := { s with work := {} }) h]
  rfl

/-- The event of a command posted with two operands. -/
theorem event_posted2 (c : Command) (w v : Word) {s : State} (h : StoreCanonical s) (idle : s.cu.job = none) :
    event (posted2 c w v) s = settle (answered c (runCommand c w v (offered2 c w v s))) := by
  have h1 : Memory.wf (postWord1 w { s with work := {} }).store := postWord1_wf w h
  rw [event, posted2, attention_postWord0 c (postWord2_wf v h1) (by simpa using idle), postWord2_cellWord1,
    postWord1_cellWord1 w (s := { s with work := {} }) h, postWord2_cellWord2 v h1]
  rfl

/-- INITIATE posted to an idle cell is answered as the Order Manager judges it. -/
theorem exec_initiate (q a : Word) {s : State} (h : StoreCanonical s) (idle : s.cu.job = none) :
    exec (.initiate q a) s = .next (settle (answered .initiate (takeInitiate q a (offered2 .initiate q a s)))) :=
  congrArg Host.Outcome.next (event_posted2 .initiate q a h idle)

/-- RESUME posted to an idle cell is answered as the Order Manager judges it. -/
theorem exec_resume (q : Word) {s : State} (h : StoreCanonical s) (idle : s.cu.job = none) :
    exec (.resume q) s = .next (settle (answered .resume (takeResume q (offered1 .resume q s)))) :=
  congrArg Host.Outcome.next (event_posted1 .resume q h idle)

/-! ## Queue numbers and record addresses -/

theorem QueueId.ofNat_index {w : Word} {Q : QueueId} (h : w.toNat = Q.index) : BitVec.ofNat 32 Q.index = w := by
  rw [← h, BitVec.ofNat_toNat, BitVec.setWidth_eq]

/-- The model's address check of R5 is the one the statements name. -/
theorem orderAddressOk_iff (a : Word) : orderAddressOk a = true ↔ validAddress a := by
  simp only [orderAddressOk, recordAddressOk, validAddress, Config.anchorBytes, Config.storeBytes, Bool.and_eq_true,
    decide_eq_true_eq]
  omega

/-! ## INITIATE (R4), in its order of judgement -/

theorem takeInitiate_cleared (q a : Word) {u : State} (hm : u.mc.state = .cleared) :
    takeInitiate q a u = refuse .illegalState u := if_pos hm

theorem takeInitiate_badQueue {q : Word} (a : Word) {u : State} (hm : u.mc.state ≠ .cleared) (hq : 3 ≤ q.toNat) :
    takeInitiate q a u = refuse .badOperand u := by
  simp only [takeInitiate, hm, if_false, QueueId.ofWord_none q hq]

section
variable {q a : Word} {u : State} {Q : QueueId}

theorem takeInitiate_busy (hm : u.mc.state ≠ .cleared) (hQ : q.toNat = Q.index)
    (hc : (u.om.queues.get Q).state = .active ∨ (u.om.queues.get Q).state = .parked ∨
      (u.om.queues.get Q).state = .blocked) :
    takeInitiate q a u = refuse .queueBusy u := by
  simp only [takeInitiate, hm, if_false, (QueueId.ofWord_index q Q).2 hQ]
  obtain hc | hc | hc := hc <;> rw [hc]

/-- An IDLE or HALTED queue is left to the judgement of the address. -/
theorem takeInitiate_free (hm : u.mc.state ≠ .cleared) (hQ : q.toNat = Q.index)
    (hc : (u.om.queues.get Q).state = .idle ∨ (u.om.queues.get Q).state = .halted) :
    takeInitiate q a u =
      if orderAddressOk a then
        done (askAttempt (setQueue Q
          { u.om.queues.get Q with state := .active, next := a, tail := 0, halt := .noHalt } u))
      else refuse .badOperand u := by
  simp only [takeInitiate, hm, if_false, (QueueId.ofWord_index q Q).2 hQ]
  obtain hc | hc := hc <;> rw [hc]

end

/-! ## RESUME (R10), by the queue's state -/

theorem takeResume_badQueue {q : Word} (u : State) (hq : 3 ≤ q.toNat) : takeResume q u = refuse .badOperand u := by
  simp only [takeResume, QueueId.ofWord_none q hq]

section
variable {q : Word} {u : State} {Q : QueueId}

theorem takeResume_active (hQ : q.toNat = Q.index) (hc : (u.om.queues.get Q).state = .active) :
    takeResume q u = refuse .notParked u := by
  simp only [takeResume, (QueueId.ofWord_index q Q).2 hQ, hc]

theorem takeResume_illegal (hQ : q.toNat = Q.index)
    (hc : (u.om.queues.get Q).state = .idle ∨ (u.om.queues.get Q).state = .blocked ∨
      (u.om.queues.get Q).state = .halted) :
    takeResume q u = refuse .illegalState u := by
  simp only [takeResume, (QueueId.ofWord_index q Q).2 hQ]
  obtain hc | hc | hc := hc <;> rw [hc]

/-- A PARKED queue is left to the judgement of its tail record's link. -/
theorem takeResume_parked {link : Word} (hQ : q.toNat = Q.index) (hc : (u.om.queues.get Q).state = .parked)
    (hl : Memory.readWord u.store (u.om.queues.get Q).tail.toNat = link) :
    takeResume q u =
      if link = 0 then refuse .stillEnd u
      else if orderAddressOk link then
        done (askAttempt (setQueue Q { u.om.queues.get Q with state := .active, next := link } u))
      else done (haltQueue Q link (u.om.queues.get Q).tail (u.om.queues.get Q) u) := by
  simp only [takeResume, (QueueId.ofWord_index q Q).2 hQ, hc, recLink, hl]

end

end Sys2Proof.Machine
end

section
/-! CLAIMS. INITIATE and RESUME, the commands that start a queue on a chain and have it look at its tail again. -/

namespace Sys2Proof.Machine

/-- Settles O17: INITIATE is judged by machine state, queue number, queue state and address in turn (R4). -/
theorem initiateStartsQueue : Obligations.InitiateStartsQueue := by
  intro q a s h idle u
  have hom : u.om = s.om := offered2_om .initiate q a s
  have hmc : u.mc = s.mc := offered2_mc .initiate q a s
  have run : exec (.initiate q a) s = .next (settle (answered .initiate (takeInitiate q a u))) := exec_initiate q a h idle
  rw [run]
  refine ⟨fun hm => ?_, fun hm => ⟨fun hq => ?_, fun Q hQ => ⟨fun hc => ?_, fun hc => ⟨fun ha => ?_, fun ha => ?_⟩⟩⟩⟩
  · rw [takeInitiate_cleared q a (by rwa [hmc])]; rfl
  · rw [takeInitiate_badQueue a (by rwa [hmc]) hq]; rfl
  · rw [takeInitiate_busy (by rwa [hmc]) hQ (by rwa [hom])]; rfl
  · rw [takeInitiate_free (by rwa [hmc]) hQ (by rwa [hom]), if_neg (by rwa [orderAddressOk_iff])]; rfl
  · rw [takeInitiate_free (by rwa [hmc]) hQ (by rwa [hom]), if_pos ((orderAddressOk_iff a).2 ha), hom]; rfl

/-- Settles O18: the queue's state answers RESUME, and of a PARKED queue the link of its tail record decides (R10, R5). -/
theorem resumeLooksAtTail : Obligations.ResumeLooksAtTail := by
  intro q s h idle u
  have hom : u.om = s.om := offered1_om .resume q s
  have run : exec (.resume q) s = .next (settle (answered .resume (takeResume q u))) := exec_resume q h idle
  rw [run, ← hom]
  refine ⟨fun hq => ?_, fun Q hQ => ⟨fun hc => ?_, fun hc => ?_, fun hc => ?_⟩⟩
  · rw [takeResume_badQueue u hq]; rfl
  · rw [takeResume_active hQ hc]; rfl
  · rw [takeResume_illegal hQ hc]; rfl
  · rw [takeResume_parked hQ hc rfl]
    refine ⟨fun last => ?_, fun more ok => ?_, fun more bad => ?_⟩
    · rw [if_pos last]; rfl
    · rw [if_neg more, if_pos ((orderAddressOk_iff _).2 ok)]; rfl
    · rw [if_neg more, if_neg (by rwa [orderAddressOk_iff]), haltQueue, QueueId.ofNat_index hQ]; rfl

end Sys2Proof.Machine
end

section
/-! SUPPORT. The exposure arithmetic: interpolation between knots, and the range stage 7 leaves (R48, R49, R54, R56). -/

namespace Sys2Proof.Machine

/-! ## Interpolation between knots -/

theorem knot_le {ks : List Nat} {m : Nat} (h : ∀ k ∈ ks, k ≤ m) (i : Nat) : knot ks i ≤ m := by
  rw [knot, List.getD_eq_getElem?_getD]
  cases hk : ks[i]? with
  | none => exact Nat.zero_le m
  | some k => exact h k (List.mem_of_getElem? hk)

/-- A part `f / s` of the way along a difference `d`, rounded by the floor of `h / s` more, does not leave the way. -/
theorem partWay_bounds (d : Int) {f h s : Int} (hf : 0 ≤ f) (hfs : f < s) (hh : 0 ≤ h) (hhs : h < s) :
    min 0 d ≤ (d * f + h) / s ∧ (d * f + h) / s ≤ max 0 d := by
  have hs : 0 < s := hf.trans_lt hfs
  have way : min 0 d * s ≤ d * f ∧ d * f ≤ max 0 d * s := by
    obtain up | down := le_total 0 d
    · rw [min_eq_left up, max_eq_right up, Int.zero_mul]
      exact ⟨mul_nonneg up hf, mul_le_mul_of_nonneg_left hfs.le up⟩
    · rw [min_eq_right down, max_eq_left down, Int.zero_mul]
      exact ⟨mul_le_mul_of_nonpos_left hfs.le down, mul_nonpos_of_nonpos_of_nonneg down hf⟩
  obtain ⟨low, high⟩ := way
  constructor
  · exact Int.le_ediv_of_mul_le hs (by omega)
  · exact Int.lt_add_one_iff.1 (Int.ediv_lt_of_lt_mul hs (by rw [Int.add_mul]; omega))

section
variable (ks : List Nat) {step : Nat} (v : Nat)

theorem interpolate_part_bounds (hs : 0 < step) :
    let d : Int := knot ks (v / step + 1) - knot ks (v / step)
    min 0 d ≤ (d * (v % step : Nat) + (step / 2 : Nat)) / step ∧
      (d * (v % step : Nat) + (step / 2 : Nat)) / step ≤ max 0 d :=
  partWay_bounds _ (Int.natCast_nonneg _) (Int.ofNat_lt.2 (Nat.mod_lt v hs)) (Int.natCast_nonneg _)
    (Int.ofNat_lt.2 (Nat.div_lt_self hs Nat.one_lt_two))

/-- The formula of R48 and R49 never falls below 0, so nothing is lost in holding its value as a `Nat`. -/
theorem interpolate_cast (hs : 0 < step) :
    (interpolate ks step v : Int) = knot ks (v / step) +
      (((knot ks (v / step + 1) : Int) - knot ks (v / step)) * (v % step : Nat) + (step / 2 : Nat)) / step := by
  obtain ⟨low, -⟩ := interpolate_part_bounds ks v hs
  exact Int.toNat_of_nonneg (by omega)

theorem interpolate_between (hs : 0 < step) :
    min (knot ks (v / step)) (knot ks (v / step + 1)) ≤ interpolate ks step v ∧
      interpolate ks step v ≤ max (knot ks (v / step)) (knot ks (v / step + 1)) := by
  have value := interpolate_cast ks v hs
  obtain ⟨low, high⟩ := interpolate_part_bounds ks v hs
  omega

theorem interpolate_at_knot (hs : 0 < step) (h : v % step = 0) : interpolate ks step v = knot ks (v / step) := by
  have value := interpolate_cast ks v hs
  rw [h, Int.natCast_zero, Int.mul_zero, Int.zero_add, ← Int.natCast_ediv,
    Nat.div_eq_of_lt (Nat.div_lt_self hs Nat.one_lt_two)] at value
  omega

theorem interpolate_le {m : Nat} (hs : 0 < step) (h : ∀ k ∈ ks, k ≤ m) : interpolate ks step v ≤ m :=
  (interpolate_between ks v hs).2.trans (max_le (knot_le h _) (knot_le h _))

end

/-! ## Short pulses -/

@[simp] theorem shortPulse_zero (pMin : Nat) : shortPulse pMin 0 = 0 := rfl

theorem shortPulse_long {pMin t : Nat} (h : pMin ≤ t) : shortPulse pMin t = t := by
  rw [shortPulse, if_pos h]
  split <;> omega

theorem shortPulse_short {pMin t : Nat} (pos : 0 < t) (h : t < pMin) :
    shortPulse pMin t = if pMin ≤ 2 * t then pMin else 0 := by
  rw [shortPulse, if_neg (by omega), if_neg (by omega)]

/-! ## Drive values -/

section
variable {c : Conf} {ctx : RowContext} {k : Chan} {e v : Nat}

theorem driveValue_disabled (h : gainOf c k e = 0) : driveValue c ctx k e v = 0 := if_pos h

theorem driveValue_clamped (h : gainOf c k e ≠ 0) (high : 4095 < ticksOf c ctx k e v) : driveValue c ctx k e v = 4095 := by
  rw [driveValue, if_neg h, if_pos high]

theorem driveValue_within (h : gainOf c k e ≠ 0) (low : ticksOf c ctx k e v ≤ 4095) :
    driveValue c ctx k e v = shortPulse c.pMin (ticksOf c ctx k e v) := by
  rw [driveValue, if_neg h, if_neg (by omega)]

theorem clamped_iff : clamped c ctx k e v = true ↔ gainOf c k e ≠ 0 ∧ 4095 < ticksOf c ctx k e v := by
  simp [clamped]

end

/-! ## The range of what is sent -/

/-- The drive values R56 allows: dark, or a pulse from P_min to the head's longest. -/
def driveOk (pMin x : Nat) : Prop := x = 0 ∨ pMin ≤ x ∧ x ≤ 4095

theorem driveOk_zero (pMin : Nat) : driveOk pMin 0 := .inl rfl

theorem driveOk_shortPulse {pMin t : Nat} (hp : pMin ≤ 4095) (ht : t ≤ 4095) : driveOk pMin (shortPulse pMin t) := by
  obtain rfl | pos := Nat.eq_zero_or_pos t
  · exact driveOk_zero pMin
  obtain short | long := Nat.lt_or_ge t pMin
  · rw [shortPulse_short pos short]
    split
    · exact .inr ⟨Nat.le_refl pMin, hp⟩
    · exact driveOk_zero pMin
  · rw [shortPulse_long long]
    exact .inr ⟨long, ht⟩

section
variable {c : Conf} (hp : c.pMin ≤ 4095)
include hp

theorem driveOk_driveValue (ctx : RowContext) (k : Chan) (e v : Nat) : driveOk c.pMin (driveValue c ctx k e v) := by
  by_cases h : gainOf c k e = 0
  · rw [driveValue_disabled h]
    exact driveOk_zero c.pMin
  obtain high | low := Nat.lt_or_ge 4095 (ticksOf c ctx k e v)
  · rw [driveValue_clamped h high]
    exact .inr ⟨hp, Nat.le_refl 4095⟩
  · rw [driveValue_within h low]
    exact driveOk_shortPulse hp low

theorem driveOk_markValue (k : Chan) (e : Nat) : driveOk c.pMin (markValue c k e) := by
  rw [markValue]
  split
  · exact driveOk_zero c.pMin
  · exact .inr ⟨hp, Nat.le_refl 4095⟩

theorem driveOk_laneValue {ctx : RowContext} {l : Option (PrintSpec × List Byte)} {k : Chan} {e x : Nat}
    (h : laneValue c ctx l k e = some x) : driveOk c.pMin x := by
  obtain ⟨⟨p, px⟩, -, h⟩ := Option.bind_eq_some_iff.1 h
  obtain ⟨-, h⟩ := Option.ite_none_right_eq_some.1 h
  obtain rfl := Option.some.inj h
  exact driveOk_driveValue hp ctx k e _

theorem driveOk_rowValue (im : LineImage) (k : Chan) (e : Nat) : driveOk c.pMin (rowValue c im k e) := by
  rw [rowValue]
  split
  case h_1 =>
    split
    case h_1 ha => exact driveOk_laneValue hp ha
    case h_2 hb => exact driveOk_laneValue hp hb
    case h_3 => exact driveOk_zero c.pMin
  case h_2 =>
    split
    · exact driveOk_driveValue hp im.ctx k e _
    · exact driveOk_zero c.pMin
  case h_3 => exact driveOk_zero c.pMin

theorem driveOk_lineValue (marked : Bool) (im : LineImage) (k : Chan) (e : Nat) :
    driveOk c.pMin (lineValue c marked im k e) := by
  rw [lineValue]
  split
  · exact driveOk_markValue hp k e
  · exact driveOk_rowValue hp im k e

theorem driveOk_of_mem_driveLine {marked : Bool} {im : LineImage} {x : Nat} (h : x ∈ driveLine c marked im) :
    driveOk c.pMin x := by
  obtain ⟨k, -, h⟩ := List.mem_flatMap.1 h
  obtain ⟨e, -, rfl⟩ := List.mem_map.1 h
  exact driveOk_lineValue hp marked im k e

theorem driveOk_of_mem_leadInLine {x : Nat} (h : x ∈ leadInLine c) : driveOk c.pMin x := by
  obtain ⟨k, -, h⟩ := List.mem_flatMap.1 h
  obtain ⟨e, -, rfl⟩ := List.mem_map.1 h
  split
  · exact driveOk_markValue hp k e
  · exact driveOk_zero c.pMin

end

/-- A line holds one value for each channel and element (R46). -/
theorem driveLine_length (c : Conf) (marked : Bool) (im : LineImage) : (driveLine c marked im).length = 3 * 3664 := by
  simp [driveLine, allChans, Config.headElements]

end Sys2Proof.Machine
end

section
/-! CLAIMS. Stages 1, 2 and 7 of the exposure arithmetic, and the range of every value sent to the head. -/

namespace Sys2Proof.Machine

/-- Settles O30: both interpolations by the one rule for knots `step` apart, stage 7 by the length of the pulse, and the
lines value by value (R48, R49, R50, R54, R56). -/
theorem exposureStages : Obligations.ExposureStages := by
  refine ⟨fun ks v d => ?_, fun c ctx k e v hp => ⟨fun off => ?_, fun on => ?_, fun marked im => ?_⟩⟩
  · have h16 : 0 < 16 := by decide
    have h128 : 0 < 128 := by decide
    obtain ⟨dLow, dHigh⟩ := interpolate_between ks v h16
    obtain ⟨xLow, xHigh⟩ := interpolate_between ks d h128
    exact ⟨interpolate_cast ks v h16, interpolate_at_knot ks v h16, dLow, dHigh, interpolate_le ks v h16,
      interpolate_cast ks d h128, xLow, xHigh, interpolate_le ks d h128, fun _ _ => rfl⟩
  · exact ⟨driveValue_disabled off, Bool.eq_false_iff.2 fun hc => (clamped_iff.1 hc).1 off⟩
  · refine ⟨fun high => ⟨driveValue_clamped on high, clamped_iff.2 ⟨on, high⟩⟩,
      fun low => Bool.eq_false_iff.2 fun hc => Nat.not_lt.2 low (clamped_iff.1 hc).2,
      fun zero => ?_, fun long low => ?_, fun pos short => ?_⟩
    · rw [driveValue_within on (by omega), zero, shortPulse_zero]
    · rw [driveValue_within on low, shortPulse_long long]
    · rw [driveValue_within on (by omega), shortPulse_short pos short]
  · have longest : c.pMin ≤ 4095 := by omega
    exact ⟨driveLine_length c marked im, fun _ => driveOk_of_mem_driveLine longest,
      fun _ => driveOk_of_mem_leadInLine longest⟩

end Sys2Proof.Machine
end

section
/-! SUPPORT. What every operation of the part keeps, said once for each operation: the canonical store, the notices, the
places of the tables and queues, the balances, and the flags that follow sensors. The invariants of the part and much of
what the statements say of frames are read off this relation. -/

namespace Sys2Proof.Machine

/-! ## The relation -/

/-- What an operation that begins in `s` and ends in `t` keeps. A table may stand above its places before; it does not
grow past them. -/
structure Sound (s t : State) : Prop where
  store : Memory.wf s.store → Memory.wf t.store := by simp
  notices : NoticesOk s → NoticesOk t := by simp [NoticesOk, CuState.lineLevel]
  told : ∀ c w, told c w s → told c w t := by simp [Sys2Proof.Machine.told]
  track : t.wt.track.length ≤ max s.wt.track.length Config.trackCap := by simp
  cut : t.ct.queue.length ≤ max s.ct.queue.length Config.cutCap := by simp
  misses : t.ct.misses ≤ max s.ct.misses 2 := by simp
  conveyor : t.su.conveyor.length ≤ max s.su.conveyor.length Config.conveyorCap := by simp
  late : ∀ d : Fin 34, t.su.late[d].count ≤ max s.su.late[d].count Config.lateCap := by simp
  deferred : t.om.deferred.length ≤ max s.om.deferred.length Config.deferCap := by simp
  remakes : t.rc.remakes.length + slotRemakes t ≤ max (s.rc.remakes.length + slotRemakes s) Config.remakeCap := by
    simp [slotRemakes]
  buffers : ∀ l, (t.ee.buffers.get l).used ≤ max (s.ee.buffers.get l).used Config.linePlaces := by simp
  calibration : CalibrationOk s → CalibrationOk t := by simp [CalibrationOk]
  doors : ∀ i : Fin 32, t.su.bins[i].doorOpen = s.su.bins[i].doorOpen := by simp
  paperEnd : t.wt.paperEnd = s.wt.paperEnd := by simp
  pins : t.pins = s.pins := by simp

theorem Sound.refl (s : State) : Sound s s where

theorem Sound.trans {s t u : State} (h : Sound s t) (g : Sound t u) : Sound s u where
  store := g.store ∘ h.store
  notices := g.notices ∘ h.notices
  told c w := g.told c w ∘ h.told c w
  track := by have := h.track; have := g.track; omega
  cut := by have := h.cut; have := g.cut; omega
  misses := by have := h.misses; have := g.misses; omega
  conveyor := by have := h.conveyor; have := g.conveyor; omega
  late d := by have := h.late d; have := g.late d; omega
  deferred := by have := h.deferred; have := g.deferred; omega
  remakes := by have := h.remakes; have := g.remakes; omega
  buffers l := by have := h.buffers l; have := g.buffers l; omega
  calibration := g.calibration ∘ h.calibration
  doors i := (g.doors i).trans (h.doors i)
  paperEnd := g.paperEnd.trans h.paperEnd
  pins := g.pins.trans h.pins

/-- A fold of sound steps is sound. -/
theorem Sound.foldl {α : Type} {f : State → α → State} (h : ∀ s a, Sound s (f s a)) (l : List α) (s : State) :
    Sound s (l.foldl f s) := by
  induction l generalizing s with
  | nil => exact .refl s
  | cons a l ih => exact (h s a).trans (ih _)

theorem Sound.withinCapacity {s t : State} (h : Sound s t) (c : WithinCapacity s) : WithinCapacity t := by
  obtain ⟨track, cut, misses, conveyor, late, deferred, remakes, buffers⟩ := c
  refine ⟨?_, ?_, ?_, ?_, fun d => ?_, ?_, ?_, fun l => ?_⟩
  · have := h.track; omega
  · have := h.cut; omega
  · have := h.misses; omega
  · have := h.conveyor; omega
  · have := h.late d; have := late d; omega
  · have := h.deferred; omega
  · have := h.remakes; omega
  · have := h.buffers l; have := buffers l; omega

/-! ## Notices -/

/-- What a class holds of a notice besides its "more" mark. -/
def Notice.news (n : Notice) : Cause × Word := (n.cause, n.subject)

theorem alike_iff (m n : Notice) : m.alike n = true ↔ m.news = n.news := by
  simp [Notice.alike, Notice.news]

theorem markMore_news (l : List Notice) : (markMore l).map Notice.news = l.map Notice.news := by
  induction l with
  | nil => rfl
  | cons n l ih =>
    cases l with
    | nil => rfl
    | cons m l =>
      rw [markMore, List.map_cons, ih]
      · rfl
      · exact List.cons_ne_nil m l

theorem markMore_length (l : List Notice) : (markMore l).length = l.length := by
  have := congrArg List.length (markMore_news l)
  simpa using this

/-- The newest notice bears the mark afterwards. -/
theorem markMore_getLast (l : List Notice) (h : l ≠ []) : (markMore l).getLast?.any (·.more) = true := by
  induction l with
  | nil => exact absurd rfl h
  | cons n l ih =>
    cases l with
    | nil => rfl
    | cons m l =>
      have := ih (by simp)
      rw [markMore]
      · cases hl : markMore (m :: l) with
        | nil => rw [hl] at this; simp at this
        | cons a b => rw [hl] at this; simpa using this
      · simp

/-- Whether a class is in order depends on the causes and subjects it holds. -/
theorem classOk_iff (k : NoticeClass) (c : ClassState) :
    ClassOk k c ↔ c.held.length ≤ Config.heldCap ∧ (c.posted = none → c.held = []) ∧
      (∀ x ∈ (c.posted.toList ++ c.held).map Notice.news, x.1.cls = k) ∧
      ((c.posted.toList ++ c.held).map Notice.news).Nodup := by
  unfold ClassOk
  refine and_congr_right' (and_congr_right' (and_congr ?_ ?_))
  · simp only [List.mem_map, forall_exists_index, and_imp, forall_apply_eq_imp_iff₂, Notice.news]
  · simp only [List.Nodup, List.pairwise_map, ← Bool.not_eq_true, alike_iff, ne_eq]

/-- The four outcomes of a notice raised in a class, by what the class holds (R181). -/
inductive Raised (n : Notice) (k : ClassState) : ClassState → Prop
  | merged (h : n.news ∈ (k.posted.toList ++ k.held).map Notice.news) : Raised n k k
  | posted (h : n.news ∉ (k.posted.toList ++ k.held).map Notice.news) (free : k.posted = none) :
      Raised n k { posted := some n, held := k.held }
  | held (h : n.news ∉ (k.posted.toList ++ k.held).map Notice.news) (full : k.posted.isSome)
      (room : k.held.length < Config.heldCap) : Raised n k { k with held := k.held ++ [n] }
  | marked (h : n.news ∉ (k.posted.toList ++ k.held).map Notice.news) (full : k.posted.isSome)
      (none : Config.heldCap ≤ k.held.length) : Raised n k { k with held := markMore k.held }

/-- The notice a block raises, stamped with the line clock (R182). -/
def noticeOf (c : Cause) (w : Word) (s : State) : Notice := { cause := c, subject := w, stamp := s.cu.lineClock }

theorem alike_any_iff (k : ClassState) (n : Notice) :
    (k.posted.any (·.alike n) || k.held.any (·.alike n)) = true ↔
      n.news ∈ (k.posted.toList ++ k.held).map Notice.news := by
  rw [Bool.or_eq_true, List.any_eq_true, List.map_append, List.mem_append]
  simp only [alike_iff, List.mem_map]
  refine or_congr ?_ Iff.rfl
  cases k.posted <;> simp only [Option.any_none, Option.any_some, Option.toList_none, Option.toList_some,
    Bool.false_eq_true, List.not_mem_nil, List.mem_singleton, alike_iff, false_and, exists_false, exists_eq_left]

/-- A notice raised changes its own class alone, in one of the four ways. -/
theorem post_raised (c : Cause) (w : Word) (s : State) :
    Raised (noticeOf c w s) (s.cu.classes.get c.cls) ((post c w s).cu.classes.get c.cls) ∧
      ∀ k, k ≠ c.cls → (post c w s).cu.classes.get k = s.cu.classes.get k := by
  unfold post
  dsimp only
  split
  case isTrue h => exact ⟨.merged ((alike_any_iff _ _).1 h), fun _ _ => rfl⟩
  case isFalse h =>
    have new := mt (alike_any_iff _ (noticeOf c w s)).2 h
    split
    case isTrue free =>
      have free' : (s.cu.classes.get c.cls).posted = none := by
        simpa [ClassState.occupied] using free
      refine ⟨?_, fun k hk => PerClass.get_set_ne _ _ hk⟩
      rw [occupy_classes, PerClass.get_set_self]
      exact .posted new free'
    case isFalse full =>
      have full' : (s.cu.classes.get c.cls).posted.isSome := by
        simpa only [ClassState.occupied, Bool.not_eq_true', Bool.not_eq_false] using full
      refine ⟨?_, fun k hk => PerClass.get_set_ne _ _ hk⟩
      rw [PerClass.get_set_self]
      split
      case isTrue room => exact .held new full' room
      case isFalse room => exact .marked new full' (Nat.not_lt.1 room)

theorem Raised.classOk {n : Notice} {k k' : ClassState} (h : Raised n k k') (ok : ClassOk n.cause.cls k) :
    ClassOk n.cause.cls k' := by
  rw [classOk_iff] at ok ⊢
  obtain ⟨len, free, cls, nodup⟩ := ok
  cases h with
  | merged => exact ⟨len, free, cls, nodup⟩
  | posted new none =>
    rw [free none]
    simp [Notice.news]
  | held new full room =>
    refine ⟨by simpa using room, fun e => absurd full (by rw [show k.posted = Option.none from e]; simp), ?_, ?_⟩
    · simp only [← List.append_assoc, List.map_append, List.mem_append] at cls ⊢
      rintro x (hx | hx)
      · exact cls x hx
      · simp only [List.map_cons, List.map_nil, List.mem_singleton] at hx
        rw [hx]; rfl
    · rw [← List.append_assoc, List.map_append]
      exact List.nodup_append.2 ⟨nodup, by simp, fun x hx y hy e => new (by simp at hy; rwa [← hy, ← e])⟩
  | marked new full none =>
    refine ⟨by rwa [markMore_length], fun e => absurd full (by rw [show k.posted = Option.none from e]; simp), ?_, ?_⟩
    all_goals
      rw [List.map_append, markMore_news, ← List.map_append]
      assumption

/-- The news of a notice raised is in its class, or the newest held notice carries the mark (R181). -/
theorem Raised.told {n : Notice} {k k' : ClassState} (h : Raised n k k') :
    n.news ∈ (k'.posted.toList ++ k'.held).map Notice.news ∨
      k'.held.getLast?.any (·.more) = true ∧ Config.heldCap ≤ k'.held.length := by
  cases h with
  | merged h => exact .inl h
  | posted => exact .inl (by simp)
  | held => exact .inl (by simp)
  | marked _ _ full =>
    refine .inr ⟨markMore_getLast _ fun e => ?_, by rwa [markMore_length]⟩
    rw [e] at full
    exact absurd full (by decide)

/-- What was told stays told when another notice is raised. -/
theorem Raised.keeps_told {n : Notice} {k k' : ClassState} (h : Raised n k k') {x : Cause × Word}
    (t : x ∈ (k.posted.toList ++ k.held).map Notice.news ∨
      k.held.getLast?.any (·.more) = true ∧ Config.heldCap ≤ k.held.length) :
    x ∈ (k'.posted.toList ++ k'.held).map Notice.news ∨
      k'.held.getLast?.any (·.more) = true ∧ Config.heldCap ≤ k'.held.length := by
  cases h with
  | merged => exact t
  | posted _ free =>
    refine t.imp_left fun h => ?_
    rw [free] at h
    simp only [Option.toList_none, List.nil_append, Option.toList_some, List.map_append, List.mem_append] at h ⊢
    exact .inr h
  | held _ _ room =>
    obtain h | ⟨-, h⟩ := t
    · left
      rw [← List.append_assoc, List.map_append, List.mem_append]
      exact .inl h
    · exact absurd h (Nat.not_le.2 room)
  | marked _ _ full =>
    rw [List.map_append, markMore_news, ← List.map_append, markMore_length]
    refine t.imp_right fun _ => ⟨markMore_getLast _ fun e => ?_, full⟩
    rw [e] at full
    exact absurd full (by decide)

theorem told_iff (c : Cause) (w : Word) (s : State) :
    told c w s ↔ (c, w) ∈ ((s.cu.classes.get c.cls).posted.toList ++ (s.cu.classes.get c.cls).held).map Notice.news ∨
      (s.cu.classes.get c.cls).held.getLast?.any (·.more) = true ∧
        Config.heldCap ≤ (s.cu.classes.get c.cls).held.length := by
  simp only [told, List.mem_map, Notice.news, Prod.mk.injEq]

theorem post_told (c : Cause) (w : Word) (s : State) : told c w (post c w s) :=
  (told_iff c w _).2 (post_raised c w s).1.told

theorem post_keeps_told (c : Cause) (w : Word) (s : State) (c' : Cause) (w' : Word) (h : told c' w' s) :
    told c' w' (post c w s) := by
  obtain ⟨raised, others⟩ := post_raised c w s
  rw [told_iff] at h ⊢
  by_cases e : c'.cls = c.cls
  · rw [e] at h ⊢
    exact raised.keeps_told h
  · rwa [others _ e]

theorem noticesOk_iff (s : State) :
    NoticesOk s ↔ (∀ k, ClassOk k (s.cu.classes.get k)) ∧ s.cu.irq = s.cu.lineLevel := by
  unfold NoticesOk
  constructor
  · rintro ⟨a, b, c, h⟩
    exact ⟨fun k => by cases k <;> assumption, h⟩
  · rintro ⟨h, g⟩
    exact ⟨h .a, h .b, h .c, g⟩

/-- The line's level depends on the enables and on which classes are occupied. -/
theorem lineLevel_congr {c d : CuState} (e : d.enables = c.enables)
    (h : ∀ k, (d.classes.get k).occupied = (c.classes.get k).occupied) : d.lineLevel = c.lineLevel := by
  have a := h .a
  have b := h .b
  have c' := h .c
  simp only [PerClass.get] at a b c'
  simp only [CuState.lineLevel, e, a, b, c']

/-- The interrupt line is at the level R184 gives after a notice is raised. -/
theorem post_irq (c : Cause) (w : Word) (s : State) (h : s.cu.irq = s.cu.lineLevel) :
    (post c w s).cu.irq = (post c w s).cu.lineLevel := by
  unfold post
  dsimp only
  split
  · exact h
  · split
    · rfl
    · rename_i full
      refine h.trans (Eq.symm (lineLevel_congr (c := s.cu) rfl fun k => ?_))
      by_cases e : k = c.cls
      · subst e
        rw [PerClass.get_set_self]
        rfl
      · rw [PerClass.get_set_ne _ _ e]

theorem post_noticesOk (c : Cause) (w : Word) {s : State} (h : NoticesOk s) : NoticesOk (post c w s) := by
  rw [noticesOk_iff] at h ⊢
  obtain ⟨raised, others⟩ := post_raised c w s
  refine ⟨fun k => ?_, post_irq c w s h.2⟩
  by_cases e : k = c.cls
  · subst e
    exact raised.classOk (h.1 _)
  · rw [others k e]
    exact h.1 k

theorem post_sound (c : Cause) (w : Word) (s : State) : Sound s (post c w s) :=
  { store := post_wf c w, notices := post_noticesOk c w, told := post_keeps_told c w s }

end Sys2Proof.Machine
end

section
/-! SUPPORT. The shared operations, from the blocks the part writes to the return of the slot row, are sound. -/

namespace Sys2Proof.Machine

/-! ## Blocks, prices and bins -/

theorem askAttempt_sound (s : State) : Sound s (askAttempt s) where

theorem askStatus_sound (s : State) : Sound s (askStatus s) where

theorem writeStatus_sound (s : State) : Sound s (writeStatus s) where
  store := wf_writeStatus

theorem setQueue_sound (q : QueueId) (c : QueueCtx) (s : State) : Sound s (setQueue q c s) where
  store h := by
    unfold setQueue
    exact wf_writeControlBlock (s := { s with om := { s.om with queues := s.om.queues.set q c } }) h q

theorem setGen_sound (i : Fin 2) (g : Option GenSlot) (s : State) : Sound s (setGen i g s) where

theorem setHold_sound (i : Fin 2) (f : Nat → Nat) (s : State) : Sound s (setHold i f s) where

theorem holdCurrent_sound (s : State) : Sound s (holdCurrent s) where

theorem retireIfUnheld_sound (i : Fin 2) (s : State) : Sound s (retireIfUnheld i s) := by
  unfold retireIfUnheld
  split
  · split
    · exact (setGen_sound _ _ _).trans (post_sound _ _ _)
    · exact .refl s
  · exact .refl s

theorem releaseGen_sound (g : Option Word) (s : State) : Sound s (releaseGen g s) := by
  unfold releaseGen
  split
  · exact (setHold_sound _ _ _).trans (retireIfUnheld_sound _ _)
  · exact .refl s

theorem retireCurrent_sound (s : State) : Sound s (retireCurrent s) := by
  unfold retireCurrent
  split
  · split
    · exact (setGen_sound _ _ _).trans (retireIfUnheld_sound _ _)
    · exact .refl s
  · exact .refl s

theorem installPrices_sound (t : PriceTable) (s : State) : Sound s (installPrices t s) := by
  unfold installPrices
  split
  · exact .refl s
  · rename_i i _
    exact ((retireCurrent_sound s).trans
      (setGen_sound i (some { current := true, number := s.pu.counter, table := t, hold := 0 }) _)).trans {}

theorem setPuOrder_sound (i : Fin 8) (p : PuOrder) (s : State) : Sound s (setPuOrder i p s) where

theorem tallyDelivery_sound (i : Fin 8) (n : Nat) (s : State) : Sound s (tallyDelivery i n s) where

theorem setBin_get (i j : Fin 32) (b : Bin) (s : State) :
    (setBin i b s).su.bins[j] = if i = j then b else s.su.bins[j] := by
  simp only [setBin_bins, Fin.getElem_fin, Vector.getElem_set, Fin.ext_iff]

/-- A bin changed is sound when its door flag stays. -/
theorem setBin_sound {i : Fin 32} {b : Bin} {s : State} (h : b.doorOpen = s.su.bins[i].doorOpen) :
    Sound s (setBin i b s) where
  doors j := by
    rw [setBin_get]
    split
    next e => rw [← e, h]
    next => rfl

theorem freeBin_sound (i : Fin 32) (s : State) : Sound s (freeBin i s) := by
  refine Sound.trans (setBin_sound ?_) (askAttempt_sound _)
  rfl

theorem reserveBin_sound (o : Owner) (s : State) (i : Fin 32) : Sound s (reserveBin o s i) := setBin_sound rfl

theorem settleBin_sound (o : Owner) (s : State) (p : BinPlace) : Sound s (settleBin o s p) := by
  unfold settleBin
  dsimp only
  split
  · exact .refl s
  · split
    · exact freeBin_sound _ _
    · exact setBin_sound rfl
    · exact setBin_sound rfl
    · exact .refl s
    · exact .refl s

theorem settleBins_sound (o : Owner) (l : List BinPlace) (s : State) : Sound s (settleBins o l s) :=
  .foldl (settleBin_sound o) l s

theorem lowerRouted_sound (d : Fin 34) (s : State) : Sound s (lowerRouted d s) := by
  unfold lowerRouted
  split
  · exact setBin_sound rfl
  · exact .refl s

theorem setLate_get (d e : Fin 34) (l : Late) (s : State) :
    (setLate d l s).su.late[e] = if d = e then l else s.su.late[e] := by
  simp only [setLate_late, Fin.getElem_fin, Vector.getElem_set, Fin.ext_iff]

/-- A late count changed is sound when it does not pass 8 by the change. -/
theorem setLate_sound {d : Fin 34} {l : Late} {s : State} (h : l.count ≤ max s.su.late[d].count Config.lateCap) :
    Sound s (setLate d l s) where
  late e := by
    rw [setLate_get]
    split
    next e => rwa [← e]
    next => exact Nat.le_max_left _ _

theorem raiseLate_sound (d : Fin 34) (n : Nat) (s : State) : Sound s (raiseLate d n s) :=
  setLate_sound ((Nat.min_le_left _ _).trans (Nat.le_max_right _ _))

theorem raiseLateForConveyor_sound (s : State) : Sound s (raiseLateForConveyor s) :=
  .foldl (fun t d => by
    split
    · exact .refl t
    · exact raiseLate_sound _ _ _) _ s

theorem restartLate_sound (s : State) : Sound s (restartLate s) :=
  .foldl (fun t d => by
    split
    · exact .refl t
    · exact raiseLate_sound _ _ _) _ s

/-- A conveyor queue that loses entries, whatever becomes of the pieces awaiting routing. -/
theorem shorterConveyor_sound {s : State} {c : List ConvEntry} {a : List EntryKey}
    (h : c.length ≤ s.su.conveyor.length) :
    Sound s { s with su := { s.su with conveyor := c, awaiting := a } } where
  conveyor := h.trans (Nat.le_max_left _ _)

theorem dropPiece_sound (k : EntryKey) (s : State) : Sound s (dropPiece k s) := by
  unfold dropPiece
  dsimp only
  refine Sound.trans (t := _) ?_ (shorterConveyor_sound (List.length_filter_le _ _))
  split
  · exact lowerRouted_sound _ _
  · exact .refl s

theorem binArrival_sound (i : Fin 32) (s : State) : Sound s (binArrival i s) := setBin_sound rfl

/-! ## Orders -/

theorem writeRecord_sound (a : Word) (p : Progress) (s : State) : Sound s (writeRecord a p s) where
  store h := wf_writeProgress h _ _

theorem setSlot_sound (i : Fin 8) (o : Option OpenOrder) (s : State) : Sound s (setSlot i o s) where

theorem putOrder_sound (i : Fin 8) (o : OpenOrder) (s : State) : Sound s (putOrder i o s) :=
  (setSlot_sound _ _ _).trans (writeRecord_sound _ _ _)

theorem closeOrder_sound (i : Fin 8) (o : OpenOrder) (s : State) : Sound s (closeOrder i o s) :=
  ((((((settleBins_sound _ _ s).trans (writeRecord_sound _ _ _)).trans (setSlot_sound _ _ _)).trans
    (setPuOrder_sound _ _ _)).trans (post_sound _ _ _)).trans (releaseGen_sound _ _)).trans (askAttempt_sound _)

theorem judgeClose_sound (i : Fin 8) (n : Word) (s : State) : Sound s (judgeClose i n s) := by
  unfold judgeClose
  split
  · split
    · exact closeOrder_sound _ _ _
    · exact .refl s
  · exact .refl s

theorem countDelivery_sound (r : CopyRef) (toCatch : Bool) (f : TrackFlags) (s : State) :
    Sound s (countDelivery r toCatch f s) := by
  unfold countDelivery
  split
  · exact .refl s
  · exact ((putOrder_sound _ _ _).trans (tallyDelivery_sound _ _ _)).trans (judgeClose_sound _ _ _)

theorem countFailed_sound (r : CopyRef) (s : State) : Sound s (countFailed r s) := by
  unfold countFailed
  split
  · exact .refl s
  · exact (putOrder_sound _ _ _).trans (judgeClose_sound _ _ _)

theorem returnCopy_sound (r : CopyRef) (s : State) : Sound s (returnCopy r s) := by
  unfold returnCopy
  split
  · exact .refl s
  · exact (putOrder_sound _ _ _).trans (askAttempt_sound _)

theorem commitCopy_sound (i : Fin 8) (o : OpenOrder) (c : Cursor) (s : State) : Sound s (commitCopy i o c s) :=
  putOrder_sound _ _ _

theorem markEarly_sound (o : Owner) (i : Fin 32) (s : State) : Sound s (markEarly o i s) := by
  unfold markEarly
  split
  · exact .refl s
  · exact putOrder_sound _ _ _

theorem reexamineQueue_sound (s : State) (q : QueueId) : Sound s (reexamineQueue s q) := by
  unfold reexamineQueue
  dsimp only
  split
  · exact (setQueue_sound _ _ _).trans (askAttempt_sound _)
  · exact .refl s

theorem reexamineBlocked_sound (s : State) : Sound s (reexamineBlocked s) := .foldl reexamineQueue_sound _ s

/-- A deferred list that is not longer than before or within its places. -/
theorem setDeferred_sound {s : State} {l : List Deferred}
    (h : l.length ≤ max s.om.deferred.length Config.deferCap) :
    Sound s { s with om := { s.om with deferred := l } } where
  deferred := h

theorem dropDeferred_sound (d : Deferred) (s : State) : Sound s (dropDeferred d s) :=
  (setDeferred_sound ((List.length_filter_le _ _).trans (Nat.le_max_left _ _))).trans (reexamineBlocked_sound _)

theorem haltQueue_sound (q : QueueId) (link carrier : Word) (c : QueueCtx) (s : State) :
    Sound s (haltQueue q link carrier c s) :=
  (setQueue_sound _ _ _).trans (post_sound _ _ _)

theorem followLink_sound (q : QueueId) (a : Word) (s : State) : Sound s (followLink q a s) := by
  unfold followLink
  dsimp only
  split
  · exact (setQueue_sound _ _ _).trans (post_sound _ _ _)
  · split
    · exact setQueue_sound _ _ _
    · exact haltQueue_sound _ _ _ _ _

theorem refuseRecord_sound (a : Word) (r : Reason) (s : State) : Sound s (refuseRecord a r s) :=
  (writeRecord_sound _ _ _).trans (post_sound _ _ _)

/-- A record joins the deferred list where that has a place. -/
theorem deferRecord_sound (q : QueueId) (a : Word) {s : State} (h : s.om.deferred.length < Config.deferCap) :
    Sound s (deferRecord q a s) :=
  ((setDeferred_sound (l := _ ++ [_]) (by simp; omega)).trans (writeRecord_sound _ _ _)).trans (post_sound _ _ _)

theorem setSeq_sound (n : Word) (s : State) : Sound s { s with om := { s.om with seq := n } } where

theorem openOrder_sound {q : QueueId} {a : Word} {s t : State} {i : Fin 8} (h : openOrder q a s = .opened i t) :
    Sound s t := by
  unfold openOrder at h
  split at h
  · exact absurd h (by simp)
  · dsimp only at h
    split at h
    · exact absurd h (by simp)
    · rename_i hb
      simp only [Opening.opened.injEq] at h
      obtain ⟨-, rfl⟩ := h
      obtain ⟨-, hb⟩ := Option.ite_none_right_eq_some.1 hb
      obtain ⟨-, rfl⟩ := Prod.mk.inj (Option.some.inj hb)
      exact (((Sound.foldl (reserveBin_sound _) _ s).trans (setPuOrder_sound _ _ _)).trans
        ((holdCurrent_sound _).trans (putOrder_sound _ _ _))).trans (setSeq_sound _ _)

theorem reexamineDeferred_sound (s : State) (d : Deferred) : Sound s (reexamineDeferred s d) := by
  unfold reexamineDeferred
  dsimp only
  split
  · exact (dropDeferred_sound _ _).trans (refuseRecord_sound _ _ _)
  · exact setDeferred_sound (by simp)

/-- A remake list that is not longer than before. -/
theorem shorterRemakes_sound {s : State} {l : List CopyRef} (h : l.length ≤ s.rc.remakes.length) :
    Sound s { s with rc := { s.rc with remakes := l } } where
  remakes := (Nat.add_le_add_right h _).trans (Nat.le_max_left _ _)

theorem reexamineItem_sound (i : Fin 8) (number : Word) (s : State) (n : Nat) :
    Sound s (reexamineItem i number s n) := by
  unfold reexamineItem
  split
  · exact .refl s
  · dsimp only
    split
    · exact .refl s
    · exact ((shorterRemakes_sound (List.length_filter_le _ _)).trans (putOrder_sound _ _ _)).trans
        (judgeClose_sound _ _ _)

theorem reexamineOrder_sound (s : State) (i : Fin 8) : Sound s (reexamineOrder s i) := by
  unfold reexamineOrder
  split
  · exact .refl s
  · exact .foldl (reexamineItem_sound _ _) _ s

theorem reexamineAll_sound (s : State) : Sound s (reexamineAll s) :=
  ((Sound.foldl reexamineDeferred_sound _ s).trans (.foldl reexamineOrder_sound _ _)).trans (reexamineBlocked_sound _)

/-! ## The track table -/

/-- The calibration state changed, with the balances kept and the patch kept or gone. -/
theorem setCal_sound {s : State} {c : CaState} (h : c.bal = s.ca.bal) (g : c.patch = s.ca.patch ∨ c.patch = none) :
    Sound s { s with ca := c } where
  calibration := by
    rintro ⟨bal, patch⟩
    refine ⟨by rwa [h], fun p hp => patch p ?_⟩
    obtain g | g := g
    · rwa [← g]
    · rw [g] at hp
      exact absurd hp (by simp)

theorem trigger_sound (s : State) : Sound s (trigger s) := by
  unfold trigger
  split
  · refine Sound.trans (setCal_sound ?_ (.inl ?_)) (askAttempt_sound _) <;> rfl
  · refine Sound.trans (setCal_sound ?_ (.inl ?_)) (askAttempt_sound _) <;> rfl
  · exact .refl s
  · exact .refl s

theorem patchLost_sound (x : Option Word) (s : State) : Sound s (patchLost x s) := by
  unfold patchLost
  split
  · split
    · refine Sound.trans (setCal_sound ?_ (.inr ?_)) (askAttempt_sound _) <;> rfl
    · exact .refl s
  · exact .refl s

/-- A cut queue that is not longer than before. -/
theorem shorterCut_sound {s : State} {l : List Boundary} {n : Nat} (h : l.length ≤ s.ct.queue.length)
    (g : n ≤ max s.ct.misses 2) : Sound s { s with ct := { queue := l, misses := n } } where
  cut := h.trans (Nat.le_max_left _ _)
  misses := g

theorem pruneFor_sound (x : Option Word) (s : State) : Sound s (pruneFor x s) := by
  unfold pruneFor
  split
  · exact .refl s
  · split
    · exact .refl s
    · exact shorterCut_sound (List.length_filterMap_le _ _) (Nat.le_max_left _ _)

/-- A track table that is not longer than before or within its places. -/
theorem setTrack_sound {s : State} {l : List Entry} (h : l.length ≤ max s.wt.track.length Config.trackCap) :
    Sound s { s with wt := { s.wt with track := l } } where
  track := h

/-- A track table whose entries are changed in place. -/
theorem mapTrack_sound (f : Entry → Entry) (s : State) :
    Sound s { s with wt := { s.wt with track := s.wt.track.map f } } :=
  setTrack_sound (by rw [List.length_map]; exact Nat.le_max_left _ _)

theorem updateEntry_sound (k : EntryKey) (f : Entry → Entry) (s : State) : Sound s (updateEntry k f s) :=
  mapTrack_sound _ s

/-- An entry removed, before the close of its order is judged (R103, R114, R142). -/
def entryTaken (k : EntryKey) (s : State) : State :=
  askAttempt (dropPiece k (pruneFor k.x0
    { s with wt := { s.wt with track := s.wt.track.filter fun x => !decide (x.key = k) } }))

theorem removeEntry_none {k : EntryKey} {s : State} (h : findEntry s k = none) : removeEntry k s = s := by
  rw [removeEntry, h]

/-- What the removal of an entry comes to, by whether it is a print's. -/
theorem removeEntry_eq {k : EntryKey} {s : State} {e : Entry} (h : findEntry s k = some e) :
    removeEntry k s = e.ref.elim (entryTaken k s) fun r => judgeClose r.slot r.number (entryTaken k s) := by
  rw [removeEntry, h]
  cases hr : e.ref <;> simp only [hr] <;> rfl

theorem entryTaken_sound (k : EntryKey) (s : State) : Sound s (entryTaken k s) :=
  (((setTrack_sound ((List.length_filter_le _ _).trans (Nat.le_max_left _ _))).trans (pruneFor_sound k.x0 _)).trans
    (dropPiece_sound k _)).trans (askAttempt_sound _)

theorem removeEntry_sound (k : EntryKey) (s : State) : Sound s (removeEntry k s) := by
  cases h : findEntry s k with
  | none => rw [removeEntry_none h]; exact .refl s
  | some e =>
    rw [removeEntry_eq h]
    cases e.ref with
    | none => exact entryTaken_sound k s
    | some r => exact (entryTaken_sound k s).trans (judgeClose_sound _ _ _)

theorem decideRemake_sound (r : CopyRef) (a : Word) (s : State) : Sound s (decideRemake r a s) := by
  unfold decideRemake
  split
  · exact countFailed_sound _ _
  · split
    · exact (countFailed_sound _ _).trans (post_sound _ _ _)
    · rename_i full
      refine Sound.trans (t := { s with rc := { s.rc with remakes := s.rc.remakes ++ _ } })
        { remakes := ?_ } (askAttempt_sound _)
      simp only [remakesFull, decide_eq_true_eq] at full
      simp only [slotRemakes, List.length_append, List.length_singleton] at full ⊢
      omega

theorem rejectReport_sound (cause : RejectCause) (r : CopyRef) (s : State) : Sound s (rejectReport cause r s) := by
  have remade (o : OpenOrder) (a : Word) :
      Sound s (judgeClose r.slot r.number (decideRemake r a (putOrder r.slot o s))) :=
    ((putOrder_sound _ _ s).trans (decideRemake_sound _ _ _)).trans (judgeClose_sound _ _ _)
  unfold rejectReport
  split
  · exact .refl s
  · split
    · exact (putOrder_sound _ _ _).trans (judgeClose_sound _ _ _)
    · exact remade _ _
    · exact remade _ _

/-- An entry flagged LOST (R108). -/
def flagLost (k : EntryKey) (s : State) : State :=
  updateEntry k (fun x => { x with flags := { x.flags with lost := true } }) s

/-- What is reported of an entry made LOST, by its kind and its flags (R108, R90). -/
def reportLoss (cause : RejectCause) (e : Entry) (t : State) : State :=
  match e.kind, e.ref with
  | .print, some r => if e.live then rejectReport cause r t else t
  | .calib, _ => patchLost e.x0 t
  | _, _ => t

theorem loseEntry_none {cause : RejectCause} {k : EntryKey} {s : State} (h : findEntry s k = none) :
    loseEntry cause s k = s := by
  rw [loseEntry, h]

theorem loseEntry_eq {cause : RejectCause} {k : EntryKey} {s : State} {e : Entry} (h : findEntry s k = some e) :
    loseEntry cause s k = removeEntry k (reportLoss cause e (flagLost k s)) := by
  rw [loseEntry, h]
  rfl

theorem reportLoss_sound (cause : RejectCause) (e : Entry) (s : State) : Sound s (reportLoss cause e s) := by
  unfold reportLoss
  split
  · split
    · exact rejectReport_sound _ _ _
    · exact .refl _
  · exact patchLost_sound _ _
  · exact .refl _

theorem loseEntry_sound (cause : RejectCause) (s : State) (k : EntryKey) : Sound s (loseEntry cause s k) := by
  cases h : findEntry s k with
  | none => rw [loseEntry_none h]; exact .refl s
  | some e =>
    rw [loseEntry_eq h]
    exact ((updateEntry_sound k _ s).trans (reportLoss_sound cause e _)).trans (removeEntry_sound k _)

theorem loseWhere_sound (cause : RejectCause) (f : Entry → Bool) (s : State) : Sound s (loseWhere cause f s) :=
  .foldl (loseEntry_sound cause) _ s

theorem stopConveyor_sound (s : State) : Sound s (stopConveyor s) :=
  Sound.trans (t := { s with mc := _ }) {} ((raiseLateForConveyor_sound _).trans (loseWhere_sound _ _ _))

/-- The remakes a returned row gives back are no more than it held places for (R41, R44). -/
theorem returnedRemakes_le {s : State} {r : SlotRow} (h : s.rc.slot = some r) :
    ((returnedPrints s r).filter fun c => decide (1 < c.attempt)).length ≤ slotRemakes s := by
  simp only [returnedPrints, slotRemakes, h, PerLane.get]
  cases ha : r.prints.a with
  | none =>
    cases hb : r.prints.b with
    | none => simp
    | some p => by_cases w : slotWithdrawn s r.kind .b <;> by_cases e : 1 < p.ref.attempt <;> simp [w, e]
  | some q =>
    cases hb : r.prints.b with
    | none => by_cases w : slotWithdrawn s r.kind .a <;> by_cases e : 1 < q.ref.attempt <;> simp [w, e]
    | some p =>
      by_cases w : slotWithdrawn s r.kind .b <;> by_cases e : 1 < p.ref.attempt <;>
      by_cases w' : slotWithdrawn s r.kind .a <;> by_cases e' : 1 < q.ref.attempt <;> simp [w, e, w', e']

/-- An emptied next-row slot holds no places of the remake list. -/
theorem emptySlot_sound (s : State) : Sound s { s with rc := { s.rc with slot := none } } where
  remakes := by
    simp only [slotRemakes]
    omega

/-- The slot row returned before its remakes go to the front of the list. -/
def slotReturned (s : State) (r : SlotRow) : State :=
  ((returnedPrints s r).filter fun c => decide (c.attempt ≤ 1)).foldl (fun t c => returnCopy c t)
    (removeEntry (slotKey r.kind .b) (removeEntry (slotKey r.kind .a) { s with rc := { s.rc with slot := none } }))

theorem slotReturned_sound (s : State) (r : SlotRow) : Sound s (slotReturned s r) :=
  (((emptySlot_sound s).trans (removeEntry_sound _ _)).trans (removeEntry_sound _ _)).trans
    (.foldl (fun t c => returnCopy_sound c t) _ _)

theorem slotReturned_rc (s : State) (r : SlotRow) : (slotReturned s r).rc = { s.rc with slot := none } := by
  simp [slotReturned]

theorem returnSlot_eq {s : State} {r : SlotRow} (h : s.rc.slot = some r) :
    returnSlot s = { slotReturned s r with rc := { s.rc with
      slot := none
      remakes := (returnedPrints s r).filter (fun c => decide (1 < c.attempt)) ++ s.rc.remakes } } := by
  have e : returnSlot s = { slotReturned s r with rc := { (slotReturned s r).rc with
      remakes := (returnedPrints s r).filter (fun c => decide (1 < c.attempt)) ++ (slotReturned s r).rc.remakes } } := by
    rw [returnSlot, h]
    rfl
  rw [e, slotReturned_rc]

theorem slotRemakes_none {s : State} (h : s.rc.slot = none) : slotRemakes s = 0 := by rw [slotRemakes, h]

theorem returnSlot_sound (s : State) : Sound s (returnSlot s) := by
  cases h : s.rc.slot with
  | none => rw [returnSlot, h]; exact .refl s
  | some r =>
    rw [returnSlot_eq h]
    have u := slotReturned_sound s r
    have back := returnedRemakes_le h
    exact { u with
      remakes := by
        rw [slotRemakes_none rfl, List.length_append]
        omega }

end Sys2Proof.Machine
end

section
/-! SUPPORT. A composition attempt, the start and the end of rows, faults and pauses are sound. -/

namespace Sys2Proof.Machine

/-! ## The search for copies -/

theorem openOrder_rc {q : QueueId} {a : Word} {s t : State} {i : Fin 8} (h : openOrder q a s = .opened i t) :
    t.rc = s.rc := by
  unfold openOrder at h
  split at h
  · exact absurd h (by simp)
  · dsimp only at h
    split at h
    · exact absurd h (by simp)
    · rename_i hb
      simp only [Opening.opened.injEq] at h
      obtain ⟨-, rfl⟩ := h
      obtain ⟨-, hb⟩ := Option.ite_none_right_eq_some.1 hb
      obtain ⟨-, rfl⟩ := Prod.mk.inj (Option.some.inj hb)
      simpa using foldl_keeps State.rc _ (fun s i => by simp) _ s

theorem takeHead_sound {q : QueueId} {s t : State} (h : (takeHead q s).after = some t) :
    Sound s t ∧ t.rc = s.rc := by
  unfold takeHead at h
  dsimp only at h
  split at h
  · simp only [Take.after, Option.some.injEq] at h
    subst h
    exact ⟨(refuseRecord_sound _ _ _).trans (followLink_sound _ _ _), by simp⟩
  · split at h
    · split at h
      · rename_i ho
        simp only [Take.after, Option.some.injEq] at h
        subst h
        exact ⟨(openOrder_sound ho).trans (followLink_sound _ _ _), by simpa using openOrder_rc ho⟩
      · simp [Take.after] at h
      · simp [Take.after] at h
    · split at h
      · rename_i room
        simp only [Take.after, Option.some.injEq] at h
        subst h
        exact ⟨(deferRecord_sound _ _ room).trans (followLink_sound _ _ _), by simp⟩
      · simp only [Take.after, Option.some.injEq] at h
        subst h
        exact ⟨setQueue_sound _ _ _, by simp⟩

/-- The places of the remake list a copy goes on to count for in the next-row slot (R41). -/
def listPlaces (r : CopyRef) : Nat := if 1 < r.attempt then 1 else 0

/-- The places of the remake list that a search's copy counts for. -/
def Search.listPlaces : Search → Nat
  | .found r _ => Machine.listPlaces r
  | .nothing _ => 0
  | .endless _ => 0

/-- A search is sound, and a remake it finds has left the list. -/
structure Searched (s : State) (x : Search) : Prop where
  sound : Sound s x.state
  remakes : x.state.rc.remakes.length + x.listPlaces ≤ s.rc.remakes.length

theorem Searched.nothing {s t : State} (h : Sound s t) (g : t.rc.remakes = s.rc.remakes) : Searched s (.nothing t) :=
  ⟨h, by simp only [Search.state, Search.listPlaces, g]; omega⟩

theorem Searched.after {s t : State} {x : Search} (h : Sound s t) (g : t.rc.remakes.length ≤ s.rc.remakes.length)
    (f : Searched t x) : Searched s x :=
  ⟨h.trans f.sound, f.remakes.trans g⟩

theorem takeCopy_searched (i : Fin 8) (o : OpenOrder) (c : Cursor) (s : State) :
    Searched s (.found (takeCopy i o c s).1 (takeCopy i o c s).2) :=
  ⟨commitCopy_sound i o c s, by simp [Search.state, Search.listPlaces, takeCopy, listPlaces]⟩

theorem takeFirst_searched (i : Fin 8) (s : State) : Searched s (takeFirst i s) := by
  unfold takeFirst
  split
  · exact .nothing (.refl s) rfl
  · split
    · exact .nothing (.refl s) rfl
    · exact takeCopy_searched _ _ _ _

theorem setBinWait_sound (q : QueueId) (v : Bool) (s : State) : Sound s (setBinWait q v s) where

theorem waitForBins_sound (q : QueueId) (s : State) : Sound s (waitForBins q s) := by
  unfold waitForBins
  split
  · exact .refl s
  · exact (setBinWait_sound _ _ _).trans (post_sound _ _ _)

theorem askQueue_searched (q : QueueId) (need : Option Nat) (fuel : Nat) (s : State) :
    Searched s (askQueue q need fuel s) := by
  induction fuel generalizing s with
  | zero => exact ⟨.refl s, Nat.le_refl _⟩
  | succ fuel ih =>
    have unmark {t : State} (h : Sound s t ∧ t.rc = s.rc) :
        Sound s (setBinWait q false t) ∧ (setBinWait q false t).rc.remakes = s.rc.remakes :=
      ⟨h.1.trans (setBinWait_sound _ _ _), by simp [h.2]⟩
    unfold askQueue
    split
    · exact .nothing (setBinWait_sound _ _ _) (by simp)
    · split
      · exact .nothing (.refl s) rfl
      · split
        · rename_i h
          obtain ⟨snd, rem⟩ := unmark (takeHead_sound (t := _) (by rw [h]; rfl))
          exact (ih _).after snd (by rw [rem])
        · rename_i h
          obtain ⟨snd, rem⟩ := unmark (takeHead_sound (t := _) (by rw [h]; rfl))
          exact .nothing snd rem
        · rename_i h
          obtain ⟨snd, rem⟩ := unmark (takeHead_sound (t := _) (by rw [h]; rfl))
          exact (takeFirst_searched _ _).after snd (by rw [rem])
        · exact .nothing (.refl s) rfl
        · exact .nothing (waitForBins_sound _ _) (by simp)

theorem takeNew_searched (q : QueueId) (need : Option Nat) (s : State) : Searched s (takeNew q need s) := by
  unfold takeNew
  split
  · split
    · rename_i h
      refine (takeFirst_searched _ _).after
        (((openOrder_sound h).trans (setBinWait_sound _ _ _)).trans (dropDeferred_sound _ _)) ?_
      simp [openOrder_rc h]
    · exact .nothing (.refl s) rfl
    · exact .nothing (waitForBins_sound _ _) (by simp)
  · exact askQueue_searched q need _ s

theorem walkStep_searched (need : Option Nat) (w : WalkStep) (s : State) : Searched s (walkStep need w s) := by
  unfold walkStep
  split
  · split
    · rename_i r t h
      unfold takeRemake at h
      split at h
      · exact absurd h (by simp)
      · split at h
        · exact absurd h (by simp)
        · rename_i x hx
          simp only [Option.some.injEq, Prod.mk.injEq] at h
          obtain ⟨rfl, rfl⟩ := h
          have hi := (List.getElem?_eq_some_iff.1 hx).1
          have len := List.length_eraseIdx_of_lt hi
          refine ⟨shorterRemakes_sound (by omega), ?_⟩
          simp only [Search.state, Search.listPlaces, listPlaces]
          split <;> omega
    · exact .nothing (.refl s) rfl
  · split
    · rename_i h
      unfold takeOpen at h
      obtain ⟨i, -, hi⟩ := List.exists_of_findSome?_eq_some h
      simp only [Option.map_eq_some_iff, Prod.exists] at hi
      obtain ⟨o, c, -, hi⟩ := hi
      have := takeCopy_searched i o c s
      rwa [hi] at this
    · exact .nothing (.refl s) rfl
  · exact takeNew_searched _ _ s

theorem walk_searched (need : Option Nat) (ws : List WalkStep) (s : State) : Searched s (walk need ws s) := by
  induction ws generalizing s with
  | nil => exact .nothing (.refl s) rfl
  | cons w ws ih =>
    have hw := walkStep_searched need w s
    unfold walk
    split <;> rename_i h <;> rw [h] at hw
    · exact hw
    · exact (ih _).after hw.sound (le_trans (Nat.le_add_right _ _) hw.remakes)
    · exact hw

/-! ## The commit -/

theorem commitPrint_sound {len : Nat} {a b : Option CopyRef} {s t : State} (h : Sound s t)
    (room : t.wt.track.length + a.toList.length + b.toList.length ≤ Config.trackCap)
    (places : t.rc.remakes.length + a.elim 0 listPlaces + b.elim 0 listPlaces ≤ s.rc.remakes.length) :
    Sound s (commitPrint len a b t) :=
  { h with
    track := by
      have : (commitPrint len a b t).wt.track.length = t.wt.track.length + a.toList.length + b.toList.length := by
        cases a <;> cases b <;> simp [commitPrint, placeRow]
      omega
    remakes := by
      have : slotRemakes (commitPrint len a b t) = a.elim 0 listPlaces + b.elim 0 listPlaces := by
        simp only [commitPrint, placeRow, slotRemakes]
        cases a with
        | none =>
          cases b with
          | none => rfl
          | some p => by_cases e : 1 < p.attempt <;> simp [printSpec, listPlaces, e]
        | some q =>
          cases b with
          | none => by_cases e : 1 < q.attempt <;> simp [printSpec, listPlaces, e]
          | some p => by_cases e : 1 < p.attempt <;> by_cases e' : 1 < q.attempt <;> simp [printSpec, listPlaces, e, e']
      have : (commitPrint len a b t).rc.remakes = t.rc.remakes := by simp
      rw [this]
      omega }

theorem composePrint_sound {s : State} (room : roomFor s (if twoLanes s then 2 else 1) = true) :
    Sound s (composePrint s) := by
  have h := walk_searched none walkSteps s
  have k := walk_keeps none walkSteps s
  simp only [roomFor, decide_eq_true_eq] at room
  unfold composePrint
  split <;> rename_i e <;> rw [e] at h k
  · exact h.sound
  · exact h.sound
  · rename_i r t
    have left := h.remakes
    have wt : t.wt = s.wt := k.wt
    simp only [Search.state, Search.listPlaces] at left
    have g := walk_searched (some (remakeLines t r)) walkSteps t
    have k' := walk_keeps (some (remakeLines t r)) walkSteps t
    dsimp only
    split
    · rename_i two
      rw [if_pos two] at room
      split <;> rename_i f <;> rw [f] at g k'
      all_goals
        have left' := g.remakes
        have wt' := k'.wt.trans wt
        simp only [Search.state, Search.listPlaces] at left' wt'
        refine commitPrint_sound (h.sound.trans g.sound) ?_ ?_
        all_goals
          simp only [wt', Option.toList_some, Option.toList_none, List.length_singleton, List.length_nil,
            Option.elim_some, Option.elim_none]
          omega
    · rename_i two
      rw [if_neg two] at room
      split
      all_goals
        refine commitPrint_sound h.sound ?_ ?_
        all_goals
          simp only [wt, Option.toList_some, Option.toList_none, List.length_singleton, List.length_nil,
            Option.elim_some, Option.elim_none]
          omega

/-- A composition attempt is sound: a row is committed only where its entries have room. -/
theorem compose_sound (s : State) : Sound s (compose s) := by
  unfold compose
  split
  · exact .refl s
  · split
    · split
      · rename_i room
        simp only [roomFor, decide_eq_true_eq] at room
        exact
          { track := by simp only [commitCalib, placeRow, List.length_append, List.length_singleton]; omega
            remakes := by
              rw [show slotRemakes (commitCalib s) = 0 from rfl]
              simp only [commitCalib, placeRow]
              omega }
      · exact .refl s
    · split
      · exact .refl s
      · by_cases room : roomFor s (if twoLanes s then 2 else 1) = true
        · rw [if_pos room]
          exact composePrint_sound room
        · rw [if_neg room]
          exact .refl s

/-! ## Line buffers -/

theorem LineBuffer.emptied_used (b : LineBuffer) : b.emptied.used ≤ b.used := by
  simp only [LineBuffer.emptied, LineBuffer.used, Option.isSome_map, Option.isSome_none, Bool.false_eq_true, if_false, List.length_nil]
  omega

theorem LineBuffer.endRow_used (b : LineBuffer) : b.endRow.used ≤ b.used := by
  have := List.length_filter_le (·.forSlot) b.lines
  simp only [LineBuffer.endRow, LineBuffer.used, Option.isSome_map, Option.isSome_none, Bool.false_eq_true, if_false]
  omega

theorem LineBuffer.beginRow_used (b : LineBuffer) : b.beginRow.used ≤ b.used := by
  simp only [LineBuffer.beginRow, LineBuffer.used, Option.isSome_map, Option.isSome_none, Bool.false_eq_true, if_false, List.length_map]
  omega

theorem LineBuffer.feed_used (b : LineBuffer) (k : Nat) : (b.feed k).1.used ≤ b.used := by
  unfold LineBuffer.feed
  split
  · rename_i x rest e
    split
    · simp only [LineBuffer.used, e, List.length_cons]
      split <;> simp <;> omega
    · exact Nat.le_refl _
  · exact Nat.le_refl _

theorem LineBuffer.complete_used (b : LineBuffer) (r : LineRead) (head : Option Nat) (data : List Byte)
    (h : b.reading.isSome) : (b.complete r head data).used ≤ b.used := by
  unfold LineBuffer.complete
  dsimp only
  split
  · simp [LineBuffer.used]
  · simp [LineBuffer.used, h, Nat.add_assoc]
  · split
    · simp [LineBuffer.used]
    · simp [LineBuffer.used, h, Nat.add_assoc]

theorem setBuffer_sound {l : Lane} {b : LineBuffer} {s : State}
    (h : b.used ≤ max (s.ee.buffers.get l).used Config.linePlaces) : Sound s (setBuffer l b s) where
  buffers m := by
    rw [setBuffer_buffers]
    by_cases e : m = l
    · subst e
      rwa [PerLane.get_set_self]
    · rw [PerLane.get_set_ne _ _ e]
      exact Nat.le_max_left _ _

/-- The Exposure Engine changed, its buffers no fuller than before. -/
theorem setEe_sound {s : State} {e : EeState} (a : e.buffers.a.used ≤ s.ee.buffers.a.used)
    (b : e.buffers.b.used ≤ s.ee.buffers.b.used) : Sound s { s with ee := e } where
  buffers l := by
    cases l
    · exact a.trans (Nat.le_max_left _ _)
    · exact b.trans (Nat.le_max_left _ _)

theorem startRead_sound (l : Lane) (s : State) : Sound s (startRead l s) := by
  unfold startRead
  dsimp only
  split
  · exact .refl s
  · rename_i idle
    split
    · exact .refl s
    · refine setBuffer_sound ?_
      simp only [not_or, Bool.not_eq_true, LineBuffer.used] at idle ⊢
      simp only [idle.1, Option.isSome_some] at idle ⊢
      simp only [Bool.false_eq_true, if_false, if_true] at idle ⊢
      omega

theorem startReads_sound (s : State) : Sound s (startReads s) := (startRead_sound _ _).trans (startRead_sound _ _)

theorem emptyBuffers_sound (s : State) : Sound s (emptyBuffers s) :=
  setEe_sound (LineBuffer.emptied_used _) (LineBuffer.emptied_used _)

theorem setMc_sound (m : McState) (s : State) : Sound s { s with mc := m } where

/-! ## Row starts -/

theorem makeCutRoom_sound (s : State) : Sound s (makeCutRoom s) := by
  unfold makeCutRoom
  split
  · exact .refl s
  · split
    · exact .refl s
    · exact loseWhere_sound _ _ _

theorem addBoundary_sound (b : Word) (s : State) : Sound s (addBoundary b s) := by
  unfold addBoundary
  dsimp only
  refine (makeCutRoom_sound s).trans ?_
  split
  · exact { cut := by simp only [List.length_append, List.length_singleton]; omega }
  · exact .refl _

/-- A list cut in three by two tests is no longer than it was. -/
theorem length_filter_three {α : Type} (p q : α → Bool) (l : List α) (h : ∀ x, q x = true → p x = false) :
    (l.filter p ++ l.filter q ++ l.filter fun x => !p x && !q x).length = l.length := by
  induction l with
  | nil => rfl
  | cons x l ih =>
    simp only [List.length_append, List.filter_cons, List.length_cons] at ih ⊢
    cases hq : q x with
    | true =>
      simp only [h x hq, Bool.false_eq_true, if_false, if_true, Bool.not_true, Bool.and_false, List.length_cons]
      omega
    | false =>
      cases p x <;> simp <;> omega

theorem startEntries_sound (blank : Bool) (x0 : Word) (s : State) : Sound s (startEntries blank x0 s) := by
  refine setTrack_sound ?_
  have := length_filter_three (·.x0.isSome) (·.starting blank) s.wt.track fun e he => by
    simp only [Entry.starting, Bool.and_eq_true] at he
    simpa using he.1
  simp only [List.length_append, List.length_map, Option.not_isSome] at this ⊢
  omega

theorem judgeDrift_sound (theta : Nat) (s : State) : Sound s (judgeDrift theta s) := by
  unfold judgeDrift
  split
  · exact trigger_sound s
  · exact .refl s

theorem startPatch_sound (x0 : Word) (theta : Nat) (s : State) : Sound s (startPatch x0 theta s) where
  calibration := by
    rintro ⟨bal, -⟩
    refine ⟨bal, fun p hp b hb => bal b ?_⟩
    obtain rfl := Option.mem_some_iff.1 hp
    exact hb

theorem flagUncalibrated_sound (x0 : Word) (s : State) : Sound s (flagUncalibrated x0 s) := mapTrack_sound _ s

/-- The exposing row the slot row becomes (R64). -/
def slotRowRun (r : SlotRow) (s : State) : ExposingRow :=
  { kind := r.kind, x0 := s.wt.x, length := r.length
    ctx := some
      { theta := s.ee.sample, phi := factors s.cfg s.ee.sample, bal := s.ca.bal, mask := some r.mask
        stale := decide (s.ca.state = .stale) }
    prints := ⟨r.prints.a.map (·.run), r.prints.b.map (·.run)⟩ }

/-- The slot row moved from its slot under the head (R64). -/
def headTaken (r : SlotRow) (s : State) : State :=
  { s with
    rc := { s.rc with slot := none }
    ee := { s.ee with
      expo := some (.row (slotRowRun r s))
      maskInForce := r.mask
      buffers := ⟨s.ee.buffers.a.beginRow, s.ee.buffers.b.beginRow⟩ } }

/-- The entries of a row that starts: those of a STALE one flagged (R64). -/
def flagIfStale (stale : Bool) (x0 : Word) (s : State) : State := if stale then flagUncalibrated x0 s else s

/-- The Calibration Unit at a row's start: a CALIB row's patch is in flight (R84). -/
def patchIfCalib (k : RowKind) (x0 : Word) (theta : Nat) (s : State) : State :=
  if k = .calib then startPatch x0 theta s else s

/-- The start of the slot row, part by part. -/
theorem startSlotRow_eq (r : SlotRow) (s : State) :
    startSlotRow r s = askAttempt (askStatus (judgeDrift s.ee.sample (patchIfCalib r.kind s.wt.x s.ee.sample
      (addBoundary s.wt.x (flagIfStale (decide (s.ca.state = .stale)) s.wt.x
        (startEntries false s.wt.x (headTaken r s))))))) := rfl

theorem headTaken_sound (r : SlotRow) (s : State) : Sound s (headTaken r s) :=
  (emptySlot_sound s).trans (setEe_sound (LineBuffer.beginRow_used _) (LineBuffer.beginRow_used _))

theorem flagIfStale_sound (stale : Bool) (x0 : Word) (s : State) : Sound s (flagIfStale stale x0 s) := by
  unfold flagIfStale
  split
  · exact flagUncalibrated_sound x0 s
  · exact .refl s

theorem patchIfCalib_sound (k : RowKind) (x0 : Word) (theta : Nat) (s : State) :
    Sound s (patchIfCalib k x0 theta s) := by
  unfold patchIfCalib
  split
  · exact startPatch_sound x0 theta s
  · exact .refl s

theorem startSlotRow_sound (r : SlotRow) (s : State) : Sound s (startSlotRow r s) := by
  rw [startSlotRow_eq]
  exact ((headTaken_sound r s).trans (startEntries_sound _ _ _)).trans ((flagIfStale_sound _ _ _).trans
    ((addBoundary_sound _ _).trans ((patchIfCalib_sound _ _ _ _).trans ((judgeDrift_sound _ _).trans
      ((askStatus_sound _).trans (askAttempt_sound _))))))

/-- The exposing row of a BLANK row's start: θ alone is latched (R66). -/
def blankRun (s : State) : ExposingRow :=
  { kind := .blank, x0 := s.wt.x, length := s.cfg.minPiece
    ctx := some
      { theta := s.ee.sample, phi := factors s.cfg s.ee.sample, bal := none, mask := none, stale := false } }

/-- Something passes under the head (R62). -/
def setExpo (e : Option Exposing) (s : State) : State := { s with ee := { s.ee with expo := e } }

/-- The start of a BLANK row, part by part. -/
theorem startBlankRow_eq (s : State) :
    startBlankRow s = askStatus (judgeDrift s.ee.sample (addBoundary s.wt.x
      (startEntries true s.wt.x (setExpo (some (.row (blankRun s))) s)))) := rfl

theorem setExpo_sound (e : Option Exposing) (s : State) : Sound s (setExpo e s) :=
  setEe_sound (Nat.le_refl _) (Nat.le_refl _)

theorem startBlankRow_sound (s : State) : Sound s (startBlankRow s) := by
  rw [startBlankRow_eq]
  exact (setExpo_sound _ s).trans ((startEntries_sound _ _ _).trans ((addBoundary_sound _ _).trans
    ((judgeDrift_sound _ _).trans (askStatus_sound _))))

/-- The BLANK row that last started, made longer and exposing again (R67, R100). -/
def blankExtended (e : Entry) (x0 : Word) (s : State) : State :=
  setExpo (some (.row { kind := .blank, x0 := x0, length := e.length + s.cfg.minPiece, ctx := none }))
    (updateEntry e.key (fun x => { x with length := e.length + s.cfg.minPiece, stage := .exposing }) s)

theorem extendBlank_sound (s : State) : Sound s (extendBlank s) := by
  unfold extendBlank
  split
  · rename_i e _
    split
    · rename_i x0 _ _
      exact show Sound s (blankExtended e x0 s) from (updateEntry_sound _ _ s).trans (setExpo_sound _ _)
    · exact .refl s
  · exact .refl s

/-- A BLANK entry joins the track table (R38). -/
def blankAdded (s : State) : State :=
  { s with wt := { s.wt with track := s.wt.track ++ [{ kind := .blank, lane := .a, length := s.cfg.minPiece }] } }

theorem blankAdded_sound {s : State} (room : s.wt.track.length < Config.trackCap) : Sound s (blankAdded s) :=
  setTrack_sound (by simp only [List.length_append, List.length_singleton]; omega)

/-- A request for blank paper, by the room in the table and the continuity mark (R66, R67, R70). -/
theorem requestBlank_eq (s : State) :
    requestBlank s =
      if s.wt.track.length < Config.trackCap then
        if s.ee.continuity then startBlankRow (blankAdded s) else setExpo (some (.leadIn 0 true)) (blankAdded s)
      else extendBlank s := rfl

theorem requestBlank_sound (s : State) : Sound s (requestBlank s) := by
  rw [requestBlank_eq]
  split
  · rename_i room
    refine (blankAdded_sound room).trans ?_
    split
    · exact startBlankRow_sound _
    · exact setExpo_sound _ _
  · exact extendBlank_sound s

theorem keepLoop_sound (s : State) : Sound s (keepLoop s) := by
  unfold keepLoop
  split
  · exact requestBlank_sound s
  · exact .refl s

/-! ## Lines and row ends -/

theorem advanceX_sound (w : Bool) (s : State) : Sound s (advanceX w s) where

theorem flagUnderrun_sound (x0 : Word) (l : Lane) (p : Option PrintRun) (s : State) :
    Sound s (flagUnderrun x0 l p s) := by
  unfold flagUnderrun
  split
  · exact updateEntry_sound _ _ _
  · exact .refl s

theorem feedLane_used (c : Conf) (ctx : RowContext) (k : Nat) (b : LineBuffer) (p : Option PrintRun) :
    (feedLane c ctx k b p).1.used ≤ b.used := by
  cases p with
  | none => exact Nat.le_refl _
  | some p => exact LineBuffer.feed_used b k

theorem exposeLine_sound (r : ExposingRow) (k : Nat) (s : State) : Sound s (exposeLine r k s) := by
  unfold exposeLine
  dsimp only
  exact (setEe_sound (feedLane_used _ _ _ _ _) (feedLane_used _ _ _ _ _)).trans ((flagUnderrun_sound _ _ _ _).trans
    ((flagUnderrun_sound _ _ _ _).trans (advanceX_sound _ _)))

theorem exposeLeadIn_sound (n : Nat) (blank : Bool) (s : State) : Sound s (exposeLeadIn n blank s) := by
  refine Sound.trans ?_ (advanceX_sound _ _)
  exact setEe_sound (Nat.le_refl _) (Nat.le_refl _)

theorem endEntries_sound (x0 : Word) (s : State) : Sound s (endEntries x0 s) := mapTrack_sound _ s

theorem judgeClip_sound (x0 : Word) (l : Lane) (p : Option PrintRun) (s : State) : Sound s (judgeClip x0 l p s) := by
  unfold judgeClip
  split
  · exact updateEntry_sound _ _ _
  · exact .refl s

/-- An entry flagged REJECT (R73). -/
def flagReject (k : EntryKey) (s : State) : State :=
  updateEntry k (fun x => { x with flags := { x.flags with reject := true } }) s

theorem judgeUnderrun_sound (x0 : Word) (l : Lane) (s : State) : Sound s (judgeUnderrun x0 l s) := by
  unfold judgeUnderrun
  split
  · exact .refl s
  · rename_i e _
    split
    · change Sound s (e.ref.elim (flagReject e.key s) fun r => rejectReport .underrun r (flagReject e.key s))
      have flagged : Sound s (flagReject e.key s) := updateEntry_sound _ _ s
      cases e.ref with
      | none => exact flagged
      | some r => exact flagged.trans (rejectReport_sound _ _ _)
    · exact .refl s

theorem endRow_sound (s : State) : Sound s (endRow s) :=
  setEe_sound (LineBuffer.endRow_used _) (LineBuffer.endRow_used _)

theorem judgePrints_sound (r : ExposingRow) (s : State) : Sound s (judgePrints r s) :=
  ((judgeClip_sound _ _ _ s).trans (judgeClip_sound _ _ _ _)).trans
    ((judgeUnderrun_sound _ _ _).trans (judgeUnderrun_sound _ _ _))

/-- The head standing, with nothing exposing and no continuity (R77). -/
def headStopped (s : State) : State :=
  { s with ee := { s.ee with expo := none, continuity := false, drive := [] } }

theorem headStopped_sound (s : State) : Sound s (headStopped s) := setEe_sound (Nat.le_refl _) (Nat.le_refl _)

theorem abandonRow_eq (s : State) :
    abandonRow s = removeEntry ⟨none, .a, .blank⟩ (emptyBuffers (headStopped s)) := rfl

theorem abandonRow_sound (s : State) : Sound s (abandonRow s) := by
  rw [abandonRow_eq]
  exact (headStopped_sound s).trans ((emptyBuffers_sound _).trans (removeEntry_sound _ _))

/-! ## Faults and pauses -/

theorem faultFates_sound (v : Bool) (s : State) : Sound s (faultFates v s) := by
  unfold faultFates
  dsimp only
  refine Sound.trans ?_ ((loseWhere_sound _ _ _).trans (returnSlot_sound _))
  split
  · exact raiseLateForConveyor_sound s
  · exact .refl s

theorem enterFault_sound (c : FaultCause) (s : State) : Sound s (enterFault c s) :=
  (setMc_sound _ s).trans ((abandonRow_sound _).trans ((faultFates_sound _ _).trans
    ((post_sound _ _ _).trans (askStatus_sound _))))

theorem stopIfRunning_sound (s : State) : Sound s (if s.mc.convStop then s else stopConveyor s) := by
  split
  · exact .refl s
  · exact stopConveyor_sound s

theorem furtherFault_sound (c : FaultCause) (s : State) : Sound s (furtherFault c s) := by
  unfold furtherFault
  split
  · exact (stopIfRunning_sound s).trans (post_sound _ _ _)
  · exact stopIfRunning_sound s
  · exact .refl s
  · exact .refl s
  · exact .refl s

theorem takeCondition_sound (c : FaultCause) (s : State) : Sound s (takeCondition c s) := by
  unfold takeCondition
  split
  · exact enterFault_sound c s
  · exact enterFault_sound c s
  · exact enterFault_sound c s
  · exact furtherFault_sound c s
  · exact .refl s
  · exact .refl s

theorem judgeConditions_sound (s : State) : Sound s (judgeConditions s) :=
  .foldl (fun t c => by
    split
    · exact takeCondition_sound c t
    · exact .refl t) _ s

/-- Machine Control in PAUSED with its cause (R167). -/
def pausedFor (c : PauseCause) (s : State) : State :=
  { s with mc := { s.mc with state := .paused, pauseCause := c } }

/-- The committed BLANK entries leave the table at the drain's end (R70). -/
def blanksRemoved (s : State) : State := (blankKeys s).foldl (fun t k => removeEntry k t) s

/-- The continuity mark at the drain's end (R110). -/
def continuityFor (c : PauseCause) (s : State) : State :=
  { s with ee := { s.ee with continuity := s.ee.continuity && decide (c ≠ .paperOut), drive := [] } }

theorem enterPaused_eq (s : State) :
    enterPaused s = judgeConditions (askStatus (post .paused (BitVec.ofNat 32 (drainCause s).code)
      (continuityFor (drainCause s) (blanksRemoved (pausedFor (drainCause s) s))))) := rfl

theorem blanksRemoved_sound (s : State) : Sound s (blanksRemoved s) := .foldl (fun t k => removeEntry_sound k t) _ s

theorem continuityFor_sound (c : PauseCause) (s : State) : Sound s (continuityFor c s) :=
  setEe_sound (Nat.le_refl _) (Nat.le_refl _)

theorem enterPaused_sound (s : State) : Sound s (enterPaused s) := by
  rw [enterPaused_eq]
  exact (setMc_sound _ s).trans ((blanksRemoved_sound _).trans ((continuityFor_sound _ _).trans
    ((post_sound _ _ _).trans ((askStatus_sound _).trans (judgeConditions_sound _)))))

/-- Machine Control in PAUSING with its cause, and the request taken (R165, R166). -/
def pausingFor (c : PauseCause) (s : State) : State :=
  askStatus { s with mc := { s.mc with state := .pausing, pauseCause := c, paperOutReq := false } }

theorem enterPausing_eq (c : PauseCause) (s : State) :
    enterPausing c s = if drained (pausingFor c s) then enterPaused (pausingFor c s) else pausingFor c s := rfl

theorem pausingFor_sound (c : PauseCause) (s : State) : Sound s (pausingFor c s) :=
  (setMc_sound _ s).trans (askStatus_sound _)

theorem enterPausing_sound (c : PauseCause) (s : State) : Sound s (enterPausing c s) := by
  rw [enterPausing_eq]
  refine (pausingFor_sound c s).trans ?_
  split
  · exact enterPaused_sound _
  · exact .refl _

theorem requestPaperPause_sound (s : State) : Sound s (requestPaperPause s) := by
  unfold requestPaperPause
  split
  · exact .refl s
  · split
    · exact enterPausing_sound _ s
    · exact setMc_sound _ s

theorem judgePaperRequest_sound (s : State) : Sound s (judgePaperRequest s) := by
  unfold judgePaperRequest
  split
  · exact .refl s
  · split
    · exact enterPausing_sound _ s
    · exact setMc_sound _ s

/-! ## Events -/

theorem clearWork_sound (s : State) (w : Work) : Sound s { s with work := w } where

theorem settled_sound (s : State) : Sound s (settled s) := by
  unfold settled
  split
  · exact (writeStatus_sound s).trans (clearWork_sound _ _)
  · exact clearWork_sound _ _

theorem settle_sound (s : State) : Sound s (settle s) := by
  rw [settle_eq]
  split
  · exact (compose_sound s).trans ((startReads_sound _).trans (settled_sound _))
  · exact (startReads_sound s).trans (settled_sound _)

/-- An event whose effect is sound is sound. -/
theorem event_sound {f : State → State} {s : State} (h : ∀ u, Sound u (f u)) : Sound s (event f s) :=
  (clearWork_sound s _).trans ((h _).trans (settle_sound _))

theorem eventWhen_sound {due : State → Bool} {f : State → State} {s : State} (h : ∀ u, Sound u (f u)) :
    Sound s (eventWhen due f s) := by
  unfold eventWhen
  split
  · exact event_sound h
  · exact .refl s

end Sys2Proof.Machine
end

section
/-! SUPPORT. The events and the commands of the cell, each with what it keeps. -/

namespace Sys2Proof.Machine

/-! ## The Sorter Unit's events -/

theorem raiseRouted_sound (d : Fin 34) (s : State) : Sound s (raiseRouted d s) := by
  unfold raiseRouted
  split
  · exact setBin_sound rfl
  · exact .refl s

theorem splitPiece_sound (k : EntryKey) (r : Routing) (s : State) : Sound s (splitPiece k r s) := by
  unfold splitPiece
  split
  · exact .refl s
  · exact (updateEntry_sound _ _ _).trans (post_sound _ _ _)

/-- A piece joins the conveyor queue. -/
def conveyorJoined (e : Entry) (r : Routing) (s : State) : State :=
  { s with su := { s.su with
      conveyor := s.su.conveyor ++ [{ piece := e.key, dest := r.dest, stamp := s.cu.lineClock }] } }

theorem placePiece_eq (e : Entry) (r : Routing) (s : State) :
    placePiece e r s = conveyorJoined e r (updateEntry e.key (fun x => { x with stage := .conveyor })
      (raiseRouted r.dest (splitPiece e.key r s))) := rfl

theorem conveyorJoined_sound (e : Entry) (r : Routing) {s : State} (room : s.su.conveyor.length < Config.conveyorCap) :
    Sound s (conveyorJoined e r s) := by
  unfold conveyorJoined
  exact { conveyor := by rw [List.length_append, List.length_singleton]; omega }

theorem placePiece_sound (e : Entry) (r : Routing) {s : State} (room : s.su.conveyor.length < Config.conveyorCap) :
    Sound s (placePiece e r s) := by
  rw [placePiece_eq]
  refine (splitPiece_sound _ _ _).trans ((raiseRouted_sound _ _).trans ((updateEntry_sound _ _ _).trans
    (conveyorJoined_sound _ _ ?_)))
  simpa using room

theorem overflowPiece_sound (e : Entry) (r : Routing) (s : State) : Sound s (overflowPiece e r s) :=
  (post_sound _ _ _).trans (loseEntry_sound _ _ _)

theorem divertPiece_sound (k : EntryKey) (s : State) : Sound s (divertPiece k s) := by
  refine (shorterConveyor_sound (a := s.su.awaiting.tail) (Nat.le_refl s.su.conveyor.length)).trans ?_
  unfold divertPiece
  dsimp only
  split
  · exact .refl _
  · split
    case isTrue room => exact placePiece_sound _ _ room
    case isFalse => exact overflowPiece_sound _ _ _

theorem stray_sound (d : Fin 34) (s : State) : Sound s (stray d s) := post_sound _ _ _

theorem leaveConveyor_sound (c : ConvEntry) (s : State) : Sound s (leaveConveyor c s) :=
  shorterConveyor_sound (List.length_filter_le _ _)

theorem deliver_sound (k : EntryKey) (toCatch : Bool) (s : State) : Sound s (deliver k toCatch s) := by
  unfold deliver
  split
  · rename_i e _
    cases e.ref with
    | none => exact .refl s
    | some r => exact countDelivery_sound _ _ _ _
  · exact .refl s

theorem applyArrival_sound (c : ConvEntry) (s : State) : Sound s (applyArrival c s) := by
  refine (leaveConveyor_sound c s).trans ?_
  unfold applyArrival
  dsimp only
  split
  · exact (binArrival_sound _ _).trans ((deliver_sound _ _ _).trans (removeEntry_sound _ _))
  · split
    · exact (deliver_sound _ _ _).trans (removeEntry_sound _ _)
    · exact removeEntry_sound _ _

theorem arrive_sound (d : Fin 34) (s : State) : Sound s (arrive d s) := by
  unfold arrive
  dsimp only
  split
  · refine (setLate_sound ?_).trans (stray_sound _ _)
    exact (Nat.sub_le _ _).trans (Nat.le_max_left _ _)
  · split
    · exact applyArrival_sound _ _
    · exact stray_sound _ _

theorem misroute_sound (c : ConvEntry) (s : State) : Sound s (misroute c s) :=
  ((leaveConveyor_sound c s).trans (lowerRouted_sound _ _)).trans ((raiseLate_sound _ _ _).trans
    ((post_sound _ _ _).trans (loseEntry_sound _ _ _)))

theorem expireLate_sound (d : Fin 34) (s : State) : Sound s (expireLate d s) := setLate_sound (Nat.zero_le _)

theorem expireCountdown_sound (i : Fin 32) (s : State) : Sound s (expireCountdown i s) := by
  refine Sound.trans (setBin_sound ?_) (post_sound _ _ _)
  rfl

theorem unloadEarly_sound (i : Fin 32) (s : State) : Sound s (unloadEarly i s) := by
  unfold unloadEarly
  dsimp only
  cases s.su.bins[i].owner with
  | none => exact freeBin_sound i s
  | some o => exact (freeBin_sound i s).trans (markEarly_sound _ _ _)

/-! ## Commands -/

/-- The state in which a command leaves the part. -/
def Taken.after : Taken → State
  | .reply _ _ t => t
  | .reading t => t

theorem setJob_sound (j : Option Job) (s : State) : Sound s { s with cu := { s.cu with job := j } } where
  notices h := h
  told _ _ h := h

/-- The start of a run from READY, before the calibration trigger (R164). -/
def runBegun (s : State) : State :=
  { s with rc := { s.rc with firstCal := true }, ee := { s.ee with continuity := false } }

theorem runBegun_sound (s : State) : Sound s (runBegun s) := by
  unfold runBegun
  exact { buffers := fun l => by cases l <;> exact Nat.le_max_left _ _ }

theorem beginRun_eq (s : State) : beginRun s = trigger (runBegun s) := rfl

theorem beginRun_sound (s : State) : Sound s (beginRun s) := by
  rw [beginRun_eq]
  exact (runBegun_sound s).trans (trigger_sound _)

theorem composeNow_sound (s : State) : Sound s (composeNow s) := (compose_sound s).trans (clearWork_sound _ _)

/-- Machine Control in RUNNING by START (R164). -/
def runningBy (s : State) : State :=
  askStatus { s with mc := { s.mc with state := .running, pauseCause := .noPause } }

/-- What START adds in the state it is given in (R164, R82). -/
def startedFrom (m : MachineState) (s : State) : State :=
  composeNow (if m = .ready then beginRun (runningBy s) else runningBy s)

/-- The paper looked at by START (R106). -/
def paperJudged (s : State) : State := if s.wt.paperEnd then requestPaperPause s else s

/-- The conditions looked at by START (R168). -/
def conditionsJudged (s : State) : State := if s.mc.state = .faulted then s else judgeConditions s

theorem takeStart_eq (s : State) :
    takeStart s = if s.mc.state = .ready ∨ s.mc.state = .paused then
      done (conditionsJudged (paperJudged (startedFrom s.mc.state s))) else refuse .illegalState s := by
  unfold takeStart startedFrom
  simp only [decide_eq_true_eq]
  rfl

theorem runningBy_sound (s : State) : Sound s (runningBy s) := (setMc_sound _ s).trans (askStatus_sound _)

theorem startedFrom_sound (m : MachineState) (s : State) : Sound s (startedFrom m s) := by
  refine (runningBy_sound s).trans (Sound.trans ?_ (composeNow_sound _))
  split
  · exact beginRun_sound _
  · exact .refl _

theorem paperJudged_sound (s : State) : Sound s (paperJudged s) := by
  unfold paperJudged
  split
  · exact requestPaperPause_sound s
  · exact .refl s

theorem conditionsJudged_sound (s : State) : Sound s (conditionsJudged s) := by
  unfold conditionsJudged
  split
  · exact .refl s
  · exact judgeConditions_sound s

theorem leaveFault_sound (s : State) : Sound s (leaveFault s) := by
  unfold leaveFault
  dsimp only
  refine Sound.trans ?_ (askStatus_sound _)
  split
  · exact (setMc_sound _ s).trans (restartLate_sound _)
  · exact setMc_sound _ s

theorem withdrawDeferred_sound (d : Deferred) (s : State) : Sound s (withdrawDeferred d s) :=
  (writeRecord_sound _ _ _).trans ((post_sound _ _ _).trans (dropDeferred_sound _ _))

/-- Remakes and prints of an order leave the composer's and the track's care at a WITHDRAW (R23). -/
def copiesWithdrawn (i : Fin 8) (number : Word) (s : State) : State :=
  { s with
    rc := { s.rc with remakes := s.rc.remakes.filter fun r => !(decide (r.slot = i) && decide (r.number = number)) }
    wt := { s.wt with
      track := s.wt.track.map fun e =>
        if e.withdrawable i number then { e with flags := { e.flags with withdrawn := true } } else e } }

/-- What a WITHDRAW counts dropped (R23). -/
def withdrawnCopies (i : Fin 8) (o : OpenOrder) (s : State) : Nat :=
  uncomposed s.store o +
    (s.rc.remakes.filter fun r => decide (r.slot = i) && decide (r.number = o.number)).length +
    (s.wt.track.filter (·.withdrawable i o.number)).length

theorem withdrawOpen_eq (i : Fin 8) (o : OpenOrder) (charge : Bool) (s : State) :
    withdrawOpen i o charge s = judgeClose i o.number (putOrder i
      { o with dropped := o.dropped + withdrawnCopies i o s, cursor := none, phase := .withdrawing charge }
      (copiesWithdrawn i o.number s)) := rfl

theorem copiesWithdrawn_sound (i : Fin 8) (number : Word) (s : State) : Sound s (copiesWithdrawn i number s) :=
  (shorterRemakes_sound (List.length_filter_le _ _)).trans (mapTrack_sound _ _)

theorem withdrawOpen_sound (i : Fin 8) (o : OpenOrder) (charge : Bool) (s : State) :
    Sound s (withdrawOpen i o charge s) := by
  rw [withdrawOpen_eq]
  exact (copiesWithdrawn_sound _ _ _).trans ((putOrder_sound _ _ _).trans (judgeClose_sound _ _ _))

theorem setMask_sound (m : LaneMask) (s : State) : Sound s { s with rc := { s.rc with mask := m } } where

theorem stageMask_sound (m : LaneMask) (s : State) : Sound s (stageMask m s) := by
  unfold stageMask
  dsimp only
  split
  · exact (setMask_sound m s).trans (askAttempt_sound _)
  · exact setMask_sound m s

/-- The hold cleared and the initial mask staged by an EXPOSURE section reset (R78). -/
def composerReset (s : State) : State :=
  { s with rc := { s.rc with mask := s.cfg.initMask, hot := false }, ee := { s.ee with hot := false } }

theorem composerReset_sound (s : State) : Sound s (composerReset s) := by
  unfold composerReset
  exact { buffers := fun l => by cases l <;> exact Nat.le_max_left _ _ }

theorem resetExposure_eq (s : State) : resetExposure s = composerReset (emptyBuffers s) := rfl

theorem resetExposure_sound (s : State) : Sound s (resetExposure s) := by
  rw [resetExposure_eq]
  exact (emptyBuffers_sound s).trans (composerReset_sound _)

theorem rebuildBoundary_length (s : State) (kept : List Boundary) (b : Boundary) :
    (rebuildBoundary s kept b).length ≤ kept.length + 1 := by
  unfold rebuildBoundary
  dsimp only
  generalize Boundary.mk _ _ _ _ _ _ = n
  split
  · simp
  · exact Nat.le_succ _

theorem rebuilt_length (s : State) (l kept : List Boundary) :
    (l.foldl (rebuildBoundary s) kept).length ≤ kept.length + l.length := by
  induction l generalizing kept with
  | nil => exact Nat.le_refl _
  | cons b l ih =>
    have first := rebuildBoundary_length s kept b
    have rest := ih (rebuildBoundary s kept b)
    rw [List.foldl_cons, List.length_cons]
    omega

theorem resetCutter_sound (s : State) : Sound s (resetCutter s) :=
  shorterCut_sound (by simpa using rebuilt_length s s.ct.queue []) (Nat.zero_le _)

/-! ## What a command leaves the part with -/

/-- The effects a command of the cell can have on the part, apart from its reply (R177). -/
inductive Effect (s : State) : State → Prop
  | none : Effect s s
  | reading (j : Job) : Effect s { s with cu := { s.cu with job := some j } }
  | started (h : s.mc.state = .ready ∨ s.mc.state = .paused) :
      Effect s (conditionsJudged (paperJudged (startedFrom s.mc.state s)))
  | pausing (h : s.mc.state = .running) : Effect s (enterPausing .host s)
  | faultLeft (h : s.mc.state = .faulted) : Effect s (leaveFault s)
  | queue (q : QueueId) (c : QueueCtx) : Effect s (askAttempt (setQueue q c s))
  | halted (q : QueueId) (link carrier : Word) (c : QueueCtx) : Effect s (haltQueue q link carrier c s)
  | released (q : QueueId) (c : QueueCtx) : Effect s (setBinWait q false (setQueue q c s))
  | withdrawn (i : Fin 8) (o : OpenOrder) (charge : Bool) : Effect s (withdrawOpen i o charge s)
  | withdrawnDeferred (d : Deferred) : Effect s (withdrawDeferred d s)
  | staged (m : LaneMask) : Effect s (stageMask m s)
  | triggered : Effect s (trigger s)
  | binFreed (i : Fin 32) : Effect s (freeBin i s)
  | exposureReset : Effect s (resetExposure s)
  | cutterReset : Effect s (resetCutter s)
  | sorterReset : Effect s (resetSorter s)

theorem takeConfigure_effect (addr : Word) (s : State) : Effect s (takeConfigure addr s).after := by
  unfold takeConfigure
  split
  · exact .none
  · split
    · exact .none
    · exact .reading _

theorem takeStart_effect (s : State) : Effect s (takeStart s).after := by
  rw [takeStart_eq]
  split
  case isTrue admitted => exact .started admitted
  case isFalse => exact .none

theorem takePause_effect (s : State) : Effect s (takePause s).after := by
  unfold takePause
  split
  case isTrue running => exact .pausing running
  case isFalse => exact .none

theorem takeClearFault_effect (s : State) : Effect s (takeClearFault s).after := by
  unfold takeClearFault
  split
  case isTrue => exact .none
  case isFalse faulted =>
    split
    · exact .none
    · exact .faultLeft (not_not.1 faulted)

theorem takeInitiate_effect (queue addr : Word) (s : State) : Effect s (takeInitiate queue addr s).after := by
  unfold takeInitiate
  split
  · exact .none
  · split
    · exact .none
    · dsimp only
      split
      · exact .none
      · exact .none
      · exact .none
      · split
        · exact .queue _ _
        · exact .none
      · split
        · exact .queue _ _
        · exact .none

theorem takeResume_effect (queue : Word) (s : State) : Effect s (takeResume queue s).after := by
  unfold takeResume
  split
  · exact .none
  · dsimp only
    split
    · exact .none
    · exact .none
    · exact .none
    · exact .none
    · split
      · exact .none
      · split
        · exact .queue _ _
        · exact .halted _ _ _ _

theorem takeReleaseQueue_effect (queue : Word) (s : State) : Effect s (takeReleaseQueue queue s).after := by
  unfold takeReleaseQueue
  split
  · exact .none
  · dsimp only
    split
    · exact .released _ _
    · exact .released _ _
    · exact .released _ _
    · exact .none
    · exact .none

theorem takeWithdraw_effect (number charge : Word) (s : State) : Effect s (takeWithdraw number charge s).after := by
  unfold takeWithdraw
  split
  · exact .none
  · split
    · exact .none
    · split
      · split
        · exact .none
        · split
          · exact .none
          · exact .withdrawn _ _ _
          · exact .withdrawn _ _ _
      · split
        · exact .withdrawnDeferred _
        · exact .none

theorem takeSetLanes_effect (mask : Word) (s : State) : Effect s (takeSetLanes mask s).after := by
  unfold takeSetLanes
  split
  · exact .none
  · split
    · exact .none
    · split
      · exact .none
      · exact .staged _

theorem takeRecalibrate_effect (s : State) : Effect s (takeRecalibrate s).after := by
  unfold takeRecalibrate
  split
  · exact .triggered
  · exact .triggered
  · exact .triggered
  · exact .none
  · exact .none
  · exact .none

theorem takeLoadPrices_effect (addr : Word) (s : State) : Effect s (takeLoadPrices addr s).after := by
  unfold takeLoadPrices
  split
  · exact .none
  · split
    · exact .none
    · split
      · exact .none
      · exact .reading _

theorem takeReleaseBin_effect (bin : Word) (s : State) : Effect s (takeReleaseBin bin s).after := by
  unfold takeReleaseBin
  split
  · exact .none
  · split
    · split
      · split
        · exact .binFreed _
        · exact .none
      · exact .none
    · exact .none

theorem takeSectionReset_effect (w : Word) (s : State) : Effect s (takeSectionReset w s).after := by
  unfold takeSectionReset
  split
  · exact .none
  · exact .none
  · exact .none
  all_goals
    split
    · exact .none
    · exact .exposureReset
    · exact .cutterReset
    · exact .sorterReset

theorem runCommand_effect (c : Command) (v w : Word) (s : State) : Effect s (runCommand c v w s).after := by
  cases c with
  | configure => exact takeConfigure_effect v s
  | start => exact takeStart_effect s
  | pause => exact takePause_effect s
  | clearFault => exact takeClearFault_effect s
  | initiate => exact takeInitiate_effect v w s
  | resume => exact takeResume_effect v s
  | releaseQueue => exact takeReleaseQueue_effect v s
  | withdraw => exact takeWithdraw_effect v w s
  | setLanes => exact takeSetLanes_effect v s
  | recalibrate => exact takeRecalibrate_effect s
  | loadPrices => exact takeLoadPrices_effect v s
  | releaseBin => exact takeReleaseBin_effect v s
  | sectionReset => exact takeSectionReset_effect v s

end Sys2Proof.Machine
end

section
/-! SUPPORT. What every step keeps, from the steps that are sound and from those that move a pin, free a slot or
install a configuration. -/

namespace Sys2Proof.Machine

/-! ## The events of the head, the knife and the web -/

theorem lineArrives_sound {lane : Lane} {r : LineRead} {s : State}
    (h : (s.ee.buffers.get lane).reading = some r) : Sound s (lineArrives lane r s) :=
  setBuffer_sound ((LineBuffer.complete_used _ _ _ _ (by simp [h])).trans (Nat.le_max_left _ _))

theorem beginLeadIn_sound (s : State) : Sound s (beginLeadIn s) := by
  unfold beginLeadIn
  split
  · exact setExpo_sound _ s
  · exact requestBlank_sound s

/-- Whether the lead-in that exposes stands before a BLANK row. -/
def leadInForBlank (s : State) : Bool :=
  match s.ee.expo with
  | some (.leadIn _ blank) => blank
  | _ => false

/-- The head at the end of a lead-in: the continuity mark is set (R70). -/
def leadInPassed (s : State) : State :=
  { s with ee := { s.ee with expo := none, continuity := true, drive := [] } }

theorem endLeadIn_eq (s : State) :
    endLeadIn s = if leadInForBlank s then judgePaperRequest (startBlankRow (leadInPassed s))
      else keepLoop (judgePaperRequest (leadInPassed s)) := by
  unfold endLeadIn leadInForBlank
  rfl

theorem leadInPassed_sound (s : State) : Sound s (leadInPassed s) := setEe_sound (Nat.le_refl _) (Nat.le_refl _)

theorem endLeadIn_sound (s : State) : Sound s (endLeadIn s) := by
  rw [endLeadIn_eq]
  refine (leadInPassed_sound s).trans ?_
  split
  · exact (startBlankRow_sound _).trans (judgePaperRequest_sound _)
  · exact (judgePaperRequest_sound _).trans (keepLoop_sound _)

theorem startRow_sound (s : State) : Sound s (startRow s) := by
  unfold startRow
  split
  · exact startSlotRow_sound _ s
  · exact .refl s

theorem feedStep_sound (s : State) : Sound s (feedStep s) := by
  unfold feedStep
  split
  · exact exposeLeadIn_sound _ _ s
  · exact exposeLine_sound _ _ s
  · exact .refl s

theorem passRow_sound (r : ExposingRow) (s : State) : Sound s (passRow r s) :=
  (endEntries_sound _ s).trans ((endRow_sound _).trans ((judgePaperRequest_sound _).trans (keepLoop_sound _)))

theorem setHot_sound (v : Bool) (s : State) : Sound s (setHot v s) := by
  unfold setHot
  exact { buffers := fun l => by cases l <;> exact Nat.le_max_left _ _ }

theorem judgeSample_sound (q : Nat) (s : State) : Sound s (judgeSample q s) := by
  unfold judgeSample
  split
  · exact .refl s
  · split
    · split
      · exact .refl s
      · exact (setHot_sound _ _).trans (post_sound _ _ _)
    · split
      · exact (setHot_sound _ _).trans ((post_sound _ _ _).trans (askAttempt_sound _))
      · exact .refl s

/-- The sample held and its instant (R75). -/
def sampleHeld (q : Nat) (s : State) : State :=
  { s with ee := { s.ee with sample := q, sampleAt := s.ee.sampleAt + lines sampleEvery } }

theorem takeSample_eq (q : Nat) (s : State) : takeSample q s = judgeSample q (sampleHeld q s) := rfl

theorem sampleHeld_sound (q : Nat) (s : State) : Sound s (sampleHeld q s) := setEe_sound (Nat.le_refl _) (Nat.le_refl _)

theorem takeSample_sound (q : Nat) (s : State) : Sound s (takeSample q s) := by
  rw [takeSample_eq]
  exact (sampleHeld_sound q s).trans (judgeSample_sound q _)

theorem setBoundary_sound (i : Nat) (b : Boundary) (s : State) : Sound s (setBoundary i b s) :=
  shorterCut_sound (by simp) (Nat.le_max_left _ _)

theorem setMisses_sound {n : Nat} {s : State} (h : n ≤ 2) : Sound s { s with ct := { s.ct with misses := n } } :=
  shorterCut_sound (Nat.le_refl _) (h.trans (Nat.le_max_right _ _))

theorem seeMark_sound (i : Nat) (b : Boundary) (y : Word) (s : State) : Sound s (seeMark i b y s) := by
  unfold seeMark
  exact (setBoundary_sound _ _ _).trans (setMisses_sound (Nat.zero_le _))

theorem flagMarkMissed_sound (x : Option Word) (s : State) : Sound s (flagMarkMissed x s) := mapTrack_sound _ s

/-- A miss counted (R118). -/
def missCounted (s : State) : State := { s with ct := { s.ct with misses := min 2 (s.ct.misses + 1) } }

/-- A boundary missed, and the miss counted (R118). -/
def markMissed (i : Nat) (b : Boundary) (s : State) : State :=
  missCounted (flagMarkMissed b.rowAfter (setBoundary i { b with mark := .missed, delta := 0, window := .closed } s))

theorem missMark_eq (i : Nat) (b : Boundary) (s : State) :
    missMark i b s = if (markMissed i b s).ct.marksLost then takeCondition .marksLost (markMissed i b s)
      else markMissed i b s := rfl

theorem markMissed_sound (i : Nat) (b : Boundary) (s : State) : Sound s (markMissed i b s) := by
  unfold markMissed missCounted
  exact (setBoundary_sound _ _ _).trans ((flagMarkMissed_sound _ _).trans (setMisses_sound (Nat.min_le_left _ _)))

theorem missMark_sound (i : Nat) (b : Boundary) (s : State) : Sound s (missMark i b s) := by
  rw [missMark_eq]
  refine (markMissed_sound i b s).trans ?_
  split
  · exact takeCondition_sound _ _
  · exact .refl _

theorem cutEntry_sound (s : State) (e : Entry) : Sound s (cutEntry s e) := by
  unfold cutEntry
  split
  · exact removeEntry_sound _ s
  · exact (updateEntry_sound _ _ _).trans (shorterConveyor_sound (Nat.le_refl _))
  · exact (updateEntry_sound _ _ _).trans (shorterConveyor_sound (Nat.le_refl _))

/-- The boundary at the head of the cut queue leaves it (R120). -/
def cutTaken (s : State) : State := { s with ct := { s.ct with queue := s.ct.queue.tail } }

theorem fireKnife_eq (b : Boundary) (s : State) :
    fireKnife b s = (processingOf (cutTaken s) b.rowBefore).foldl cutEntry (cutTaken s) := rfl

theorem cutTaken_sound (s : State) : Sound s (cutTaken s) := shorterCut_sound (by simp) (Nat.le_max_left _ _)

theorem fireKnife_sound (b : Boundary) (s : State) : Sound s (fireKnife b s) := by
  rw [fireKnife_eq]
  exact (cutTaken_sound s).trans (.foldl cutEntry_sound _ _)

theorem enterDrum_sound (s : State) : Sound s (enterDrum s) := mapTrack_sound _ s

/-- Y one line further. -/
def yMoved (s : State) : State := { s with wt := { s.wt with y := s.wt.y + 1 } }

theorem yMoved_sound (s : State) : Sound s (yMoved s) := by
  unfold yMoved
  exact {}

theorem advanceY_eq (s : State) : advanceY s = if loopFill s = 0 then s else enterDrum (yMoved s) := rfl

theorem advanceY_sound (s : State) : Sound s (advanceY s) := by
  rw [advanceY_eq]
  split
  · exact .refl s
  · exact (yMoved_sound s).trans (enterDrum_sound _)

theorem endFirstCal_sound (s : State) : Sound s (endFirstCal s) := by
  unfold endFirstCal
  split
  · refine Sound.trans (t := { s with rc := { s.rc with firstCal := false } }) ?_ (askAttempt_sound _)
    exact {}
  · exact .refl s

theorem clamp_range (n : Nat) :
    2048 ≤ (if n < 2048 then 2048 else if 6143 < n then 6143 else n) ∧
      (if n < 2048 then 2048 else if 6143 < n then 6143 else n) ≤ 6143 := by
  split
  · omega
  · split <;> omega

/-- The balance of R87 lies within 2048 to 6143. -/
theorem newBalance_range (old t r : Nat) : 2048 ≤ newBalance old t r ∧ newBalance old t r ≤ 6143 := clamp_range _

theorem newBalances_inRange (c : Conf) (old m : PerChan Nat) : balancesInRange (newBalances c old m) := by
  intro k
  rw [newBalances, PerChan.get_ofFn]
  exact newBalance_range _ _ _

theorem applyReading_sound (p : Patch) (m : PerChan Nat) (s : State) : Sound s (applyReading p m s) := by
  refine Sound.trans ?_ (endFirstCal_sound _)
  exact { calibration := fun _ => ⟨fun b hb => by
    simp only [Option.mem_def, Option.map_eq_some_iff] at hb
    obtain ⟨old, -, rfl⟩ := hb
    exact newBalances_inRange _ _ _, fun p hp => by simp at hp⟩ }

theorem failReading_sound (p : Patch) (s : State) : Sound s (failReading p s) := by
  unfold failReading
  split
  · refine Sound.trans ?_ (askAttempt_sound _)
    exact setCal_sound rfl (.inr rfl)
  · refine Sound.trans (Sound.trans ?_ (post_sound _ _ _)) (endFirstCal_sound _)
    exact setCal_sound rfl (.inr rfl)

theorem judgeReading_sound (p : Patch) (m : PerChan Nat) (s : State) : Sound s (judgeReading p m s) := by
  unfold judgeReading
  split
  · exact applyReading_sound p m s
  · exact failReading_sound p s

theorem tick_sound (s : State) : Sound s (tick s) := by
  unfold tick
  exact { notices := fun h => h, told := fun _ _ h => h }


/-! ## The steps that are not sound

A pin moves, a slot is freed, a configuration is installed or the part is cleared: what these keep is the invariants. -/

/-- What every step keeps of the invariants of the store, the notices, the capacities, the balances and the sensors. -/
structure Keeps (s t : State) : Prop where
  store : StoreCanonical s → StoreCanonical t
  notices : NoticesOk s → NoticesOk t
  capacity : WithinCapacity s → WithinCapacity t
  calibration : CalibrationOk s → CalibrationOk t
  sensors : SensorsFollowed s → SensorsFollowed t

theorem Sound.keeps {s t : State} (h : Sound s t) : Keeps s t where
  store := h.store
  notices := h.notices
  capacity := h.withinCapacity
  calibration := h.calibration
  sensors g := by
    refine ⟨fun i => ?_, ?_⟩
    · rw [h.doors, h.pins, g.1]
    · rw [h.paperEnd, h.pins, g.2]

theorem Keeps.refl (s : State) : Keeps s s := ⟨id, id, id, id, id⟩

theorem Keeps.trans {s t u : State} (h : Keeps s t) (g : Keeps t u) : Keeps s u :=
  ⟨g.store ∘ h.store, g.notices ∘ h.notices, g.capacity ∘ h.capacity, g.calibration ∘ h.calibration,
    g.sensors ∘ h.sensors⟩

/-- A state that agrees with another in what the notices do not concern. -/
theorem keeps_of_notices {s t : State} (store : StoreCanonical s → StoreCanonical t) (notices : NoticesOk s → NoticesOk t)
    (om : t.om = s.om) (rc : t.rc = s.rc) (ee : t.ee = s.ee) (ca : t.ca = s.ca) (wt : t.wt = s.wt) (ct : t.ct = s.ct)
    (su : t.su = s.su) (pins : t.pins = s.pins) : Keeps s t where
  store := store
  notices := notices
  capacity h := by simpa only [WithinCapacity, slotRemakes, om, rc, ee, wt, ct, su] using h
  calibration h := by simpa only [CalibrationOk, ca] using h
  sensors h := by simpa only [SensorsFollowed, wt, su, pins] using h

/-! ### Attentions -/

/-- A class whose posted notice is dropped, the oldest held one taking its place, is in order. -/
theorem ClassOk.advance {k : NoticeClass} {c : ClassState} (h : ClassOk k c) :
    ClassOk k { posted := c.held.head?, held := c.held.tail } := by
  obtain ⟨len, free, cls, distinct⟩ := h
  have all : c.held.head?.toList ++ c.held.tail = c.held := by cases c.held <;> rfl
  refine ⟨?_, ?_, ?_, ?_⟩
  · rw [List.length_tail]; omega
  · intro none
    rw [List.head?_eq_none_iff.1 none, List.tail_nil]
  · intro n hn
    rw [all] at hn
    exact cls n (List.mem_append_right _ hn)
  · rw [all]
    exact (List.pairwise_append.1 distinct).2.1

/-- What the reading of a class's slot comes to: nothing, or the next held notice in the slot (R183). -/
theorem freeSlot_classes (k : NoticeClass) (s : State) :
    freeSlot k s = s ∨
      (freeSlot k s).cu.irq = (freeSlot k s).cu.lineLevel ∧
        (freeSlot k s).cu.classes = s.cu.classes.set k
          { posted := (s.cu.classes.get k).held.head?, held := (s.cu.classes.get k).held.tail } := by
  unfold freeSlot
  split
  · right
    split
    next n rest e => rw [e]; exact ⟨rfl, rfl⟩
    next e => rw [e]; exact ⟨rfl, rfl⟩
  · exact .inl rfl

theorem freeSlot_noticesOk (k : NoticeClass) {s : State} (h : NoticesOk s) : NoticesOk (freeSlot k s) := by
  obtain e | ⟨irq, classes⟩ := freeSlot_classes k s
  · rwa [e]
  · rw [noticesOk_iff] at h ⊢
    refine ⟨fun j => ?_, irq⟩
    rw [classes]
    by_cases e : j = k
    · subst e
      rw [PerClass.get_set_self]
      exact (h.1 j).advance
    · rw [PerClass.get_set_ne _ _ e]
      exact h.1 j

theorem freeSlot_keeps (k : NoticeClass) (s : State) : Keeps s (freeSlot k s) := by
  apply keeps_of_notices (freeSlot_wf k) (freeSlot_noticesOk k) <;> simp

theorem readSlots_keeps (s : State) : Keeps s (readSlots s) :=
  (freeSlot_keeps _ s).trans ((freeSlot_keeps _ _).trans (freeSlot_keeps _ _))

theorem setAttn_keeps (v : Bool) (s : State) : Keeps s (setAttn v s) := by
  refine keeps_of_notices (fun h => h) (fun h => h) ?_ ?_ ?_ ?_ ?_ ?_ ?_ ?_ <;> rfl

theorem setStore_keeps {m : Memory} {s : State} (h : Memory.wf s.store → Memory.wf m) : Keeps s { s with store := m } := by
  refine keeps_of_notices h (fun h => h) ?_ ?_ ?_ ?_ ?_ ?_ ?_ ?_ <;> rfl

theorem complete_sound (code : Nat) (rc : ReplyCode) (data : Nat) (s : State) : Sound s (complete code rc data s) := by
  unfold complete
  exact { store := fun h => Memory.wf_write32 (Memory.wf_write32 h _ _) _ _, notices := fun h => h, told := fun _ _ h => h }

end Sys2Proof.Machine
end

section
/-! SUPPORT. What every command of the table keeps. -/

namespace Sys2Proof.Machine

/-! ### Doors and sensors -/

/-- A door's sensor reads anew and the bin's door flag follows it. -/
theorem doorFollowed_keeps {i : Fin 32} {v : Bool} {b : Bin} {s : State} (h : b.doorOpen = v) :
    Keeps s (setBin i b (setDoorPin i v s)) where
  store g := g
  notices g := g
  capacity g := g
  calibration g := g
  sensors g := by
    refine ⟨fun j => ?_, g.2⟩
    rw [setBin_get, show (setBin i b (setDoorPin i v s)).pins.doors = s.pins.doors.set i.1 v i.2 from rfl]
    simp only [Fin.getElem_fin, Vector.getElem_set, Fin.ext_iff]
    split
    · exact h
    · exact g.1 j

theorem openDoor_keeps (i : Fin 32) (s : State) : Keeps s (openDoor i s) := by
  unfold openDoor
  dsimp only
  split
  · exact doorFollowed_keeps rfl
  · exact doorFollowed_keeps rfl
  · exact (doorFollowed_keeps rfl).trans (post_sound _ _ _).keeps
  · exact (doorFollowed_keeps rfl).trans (post_sound _ _ _).keeps
  · exact doorFollowed_keeps rfl

theorem closeDoor_keeps (i : Fin 32) (s : State) : Keeps s (closeDoor i s) := by
  unfold closeDoor
  dsimp only
  split
  · exact doorFollowed_keeps rfl
  · exact doorFollowed_keeps rfl
  · exact doorFollowed_keeps rfl
  · exact (doorFollowed_keeps rfl).trans (unloadEarly_sound _ _).keeps
  · exact (doorFollowed_keeps rfl).trans (freeBin_sound _ _).keeps

/-- The paper-end sensor reads anew and the paper-end state follows it. -/
def paperFollowed (v : Bool) (s : State) : State :=
  { s with pins := { s.pins with paperEnd := v }, wt := { s.wt with paperEnd := v } }

theorem changePaper_eq (v : Bool) (s : State) :
    changePaper v s = if v then requestPaperPause (paperFollowed v s) else paperFollowed v s := rfl

theorem paperFollowed_keeps (v : Bool) (s : State) : Keeps s (paperFollowed v s) :=
  ⟨fun g => g, fun g => g, fun g => g, fun g => g, fun g => ⟨g.1, rfl⟩⟩

theorem changePaper_keeps (v : Bool) (s : State) : Keeps s (changePaper v s) := by
  rw [changePaper_eq]
  refine (paperFollowed_keeps v s).trans ?_
  split
  · exact (requestPaperPause_sound _).keeps
  · exact .refl _

/-- The pins at a sensor that no flag follows. -/
theorem setPins_keeps {p : Pins} {s : State} (h : p.doors = s.pins.doors) (g : p.paperEnd = s.pins.paperEnd) :
    Keeps s { s with pins := p } :=
  ⟨fun k => k, fun k => k, fun k => k, fun k => k, fun k => by
    simpa only [SensorsFollowed, h, g] using k⟩

theorem changeLineStop_keeps (v : Bool) (s : State) : Keeps s (changeLineStop v s) := by
  refine Keeps.trans (setPins_keeps (p := { s.pins with lineStop := v }) rfl rfl) ?_
  unfold changeLineStop
  split
  · exact (takeCondition_sound _ _).keeps
  · exact .refl _

theorem changeWebJam_keeps (v : Bool) (s : State) : Keeps s (changeWebJam v s) := by
  refine Keeps.trans (setPins_keeps (p := { s.pins with webJam := v }) rfl rfl) ?_
  unfold changeWebJam
  split
  · exact (takeCondition_sound _ _).keeps
  · exact .refl _

theorem changeConvJam_keeps (v : Bool) (s : State) : Keeps s (changeConvJam v s) := by
  refine Keeps.trans (setPins_keeps (p := { s.pins with convJam := v }) rfl rfl) ?_
  unfold changeConvJam
  split
  · exact (takeCondition_sound _ _).keeps
  · exact .refl _

/-! ### The SORTER section reset -/

/-- The bins, the pieces awaiting and the conveyor at a SORTER section reset (R143). -/
def sorterCleared (s : State) : State :=
  { s with su := { s.su with
    bins := Vector.ofFn fun i => resetBin s i s.su.bins[i]
    awaiting := []
    conveyor := [] } }

theorem resetSorter_eq (s : State) :
    resetSorter s = sorterCleared (loseWhere .lost (·.cutFree) (raiseLateForConveyor s)) := rfl

@[simp] theorem sorterCleared_frame (s : State) :
    (sorterCleared s).cu = s.cu ∧ (sorterCleared s).om = s.om ∧ (sorterCleared s).rc = s.rc ∧
      (sorterCleared s).ee = s.ee ∧ (sorterCleared s).ca = s.ca ∧ (sorterCleared s).wt = s.wt ∧
      (sorterCleared s).ct = s.ct ∧ (sorterCleared s).pins = s.pins ∧ (sorterCleared s).store = s.store ∧
      (sorterCleared s).su.late = s.su.late ∧ (sorterCleared s).su.conveyor = [] :=
  by unfold sorterCleared; exact ⟨rfl, rfl, rfl, rfl, rfl, rfl, rfl, rfl, rfl, rfl, rfl⟩

theorem sorterCleared_doorOpen (s : State) (i : Fin 32) : (sorterCleared s).su.bins[i].doorOpen = s.pins.doors[i] := by
  simp only [sorterCleared, Fin.getElem_fin, Vector.getElem_ofFn]
  rfl

theorem sorterCleared_keeps (s : State) : Keeps s (sorterCleared s) where
  store g := by simpa [StoreCanonical] using g
  notices g := by simpa [NoticesOk] using g
  capacity g := by
    obtain ⟨track, cut, misses, -, rest⟩ := g
    simp only [WithinCapacity, slotRemakes, sorterCleared_frame]
    exact ⟨track, cut, misses, Nat.zero_le _, rest⟩
  calibration g := by simpa [CalibrationOk] using g
  sensors g := ⟨fun i => by rw [sorterCleared_doorOpen]; simp, by simpa using g.2⟩

theorem resetSorter_keeps (s : State) : Keeps s (resetSorter s) := by
  rw [resetSorter_eq]
  exact ((raiseLateForConveyor_sound s).trans (loseWhere_sound _ _ _)).keeps.trans (sorterCleared_keeps _)

/-! ### The cell -/

theorem Effect.keeps {s t : State} (h : Effect s t) : Keeps s t := by
  cases h with
  | none => exact .refl s
  | reading j => exact (setJob_sound _ s).keeps
  | started =>
    exact ((startedFrom_sound _ s).trans ((paperJudged_sound _).trans (conditionsJudged_sound _))).keeps
  | pausing => exact (enterPausing_sound _ s).keeps
  | faultLeft => exact (leaveFault_sound s).keeps
  | queue q c => exact ((setQueue_sound q c s).trans (askAttempt_sound _)).keeps
  | halted q link carrier c => exact (haltQueue_sound _ _ _ _ s).keeps
  | released q c => exact ((setQueue_sound q c s).trans (setBinWait_sound _ _ _)).keeps
  | withdrawn i o charge => exact (withdrawOpen_sound _ _ _ s).keeps
  | withdrawnDeferred d => exact (withdrawDeferred_sound d s).keeps
  | staged m => exact (stageMask_sound m s).keeps
  | triggered => exact (trigger_sound s).keeps
  | binFreed i => exact (freeBin_sound i s).keeps
  | exposureReset => exact (resetExposure_sound s).keeps
  | cutterReset => exact (resetCutter_sound s).keeps
  | sorterReset => exact resetSorter_keeps s

theorem runCommand_keeps (c : Command) (v w : Word) (s : State) : Keeps s (runCommand c v w s).after :=
  (runCommand_effect c v w s).keeps

theorem takeCommand_keeps (s : State) : Keeps s (takeCommand s) := by
  unfold takeCommand
  split
  · exact (complete_sound _ _ _ s).keeps
  · rename_i c _
    have h := runCommand_keeps c (cellWord1 s.store) (cellWord2 s.store) s
    split
    next e => rw [e] at h; exact h.trans (complete_sound _ _ _ _).keeps
    next e => rw [e] at h; exact h

theorem serve_keeps (s : State) : Keeps s (serve s) := by
  refine (setAttn_keeps false s).trans ?_
  unfold serve
  dsimp only
  split
  · exact takeCommand_keeps _
  · exact .refl _

theorem attention_keeps (s : State) : Keeps s (attention s) := by
  rw [attention_eq]
  refine ((setAttn_keeps true s).trans (readSlots_keeps _)).trans ?_
  split
  · exact serve_keeps _
  · exact .refl _

theorem postWord0_keeps (c : Command) (s : State) : Keeps s (postWord0 c s) := setStore_keeps (Memory.wf_write32 · _ _)

theorem postWord1_keeps (w : Word) (s : State) : Keeps s (postWord1 w s) := setStore_keeps (Memory.wf_writeWord · _ _)

theorem postWord2_keeps (w : Word) (s : State) : Keeps s (postWord2 w s) := setStore_keeps (Memory.wf_writeWord · _ _)

theorem posted0_keeps (c : Command) (s : State) : Keeps s (posted0 c s) :=
  (postWord0_keeps c s).trans (attention_keeps _)

theorem posted1_keeps (c : Command) (w : Word) (s : State) : Keeps s (posted1 c w s) :=
  (postWord1_keeps w s).trans ((postWord0_keeps c _).trans (attention_keeps _))

theorem posted2_keeps (c : Command) (w v : Word) (s : State) : Keeps s (posted2 c w v s) :=
  (postWord1_keeps w s).trans ((postWord2_keeps v _).trans ((postWord0_keeps c _).trans (attention_keeps _)))

theorem completeReading_keeps (c : Command) {s : State} {r : ReplyCode × Nat × State} (h : Keeps s r.2.2) :
    Keeps s (completeReading c r) := by
  refine h.trans ((complete_sound c.code r.1 r.2.1 r.2.2).keeps.trans ?_)
  unfold completeReading
  dsimp only
  split
  · exact serve_keeps _
  · exact .refl _

/-! ### CONFIGURE -/

/-- No check fails when no offset is named (R179). -/
theorem lowestFailing_none_iff (l : List FieldCheck) : lowestFailing l = none ↔ ∀ c ∈ l, c.2 = true := by
  rw [lowestFailing, List.min?_eq_none_iff, List.map_eq_nil_iff, List.filter_eq_nil_iff]
  simp

/-- A record that passes has its initial balances in range (R81). -/
theorem initBal_inRange {m : Memory} {a n : Nat} {bins : Vector Bin 32}
    (h : lowestFailing (confChecks m a n bins) = none) : balancesInRange (parseConf m a).initBal := by
  intro k
  have passed := (lowestFailing_none_iff _).1 h (0x38 + 2 * k.index, within 2048 ((parseConf m a).initBal.get k) 6143) (by
    rw [confChecks]
    refine List.mem_append_left _ (List.mem_append_right _ (List.mem_flatMap.2 ⟨k, ?_, ?_⟩))
    · cases k <;> decide
    · rw [chanChecks]
      refine List.mem_append_left _ ?_
      simp)
  simpa [within] using passed

/-- The record's values in force, before the conveyor and the orders are looked at (R163). -/
def configured (addr : Word) (s : State) : State :=
  judgeLine { s with
    conf := some (parseConf s.store addr.toNat)
    mc := { s.mc with state := .ready, pauseCause := .noPause }
    ca := installCal (parseConf s.store addr.toNat)
    rc := { s.rc with mask := (parseConf s.store addr.toNat).initMask, firstCal := false }
    cu := { s.cu with enables := parseEnables s.store addr.toNat } }

/-- The conveyor of a machine that leaves CLEARED starts (R142). -/
def conveyorStarted (left : Bool) (s : State) : State := if left then restartLate s else s

/-- The control blocks are written at the first CONFIGURE (R3). -/
def blocksWritten (first : Bool) (s : State) : State := if first then writeControlBlocks s else s

theorem installConfigure_eq (addr : Word) (s : State) :
    installConfigure addr s = askStatus (reexamineAll (blocksWritten s.conf.isNone
      (conveyorStarted (decide (s.mc.state = .cleared)) (configured addr s)))) := rfl

theorem configured_keeps {addr : Word} {s : State} (h : balancesInRange (parseConf s.store addr.toNat).initBal) :
    Keeps s (configured addr s) where
  store g := g
  notices := fun ⟨a, b, c, _⟩ => ⟨a, b, c, rfl⟩
  capacity g := g
  calibration _ := ⟨fun b hb => by
    obtain rfl : (parseConf s.store addr.toNat).initBal = b := by simpa [configured, judgeLine, installCal] using hb
    exact h, fun p hp => by simp [configured, judgeLine, installCal] at hp⟩
  sensors g := g

theorem writeControlBlock_sound (q : QueueId) (s : State) : Sound s (writeControlBlock q s) :=
  { store := (wf_writeControlBlock · q) }

theorem blocksWritten_sound (first : Bool) (s : State) : Sound s (blocksWritten first s) := by
  unfold blocksWritten
  split
  · exact .foldl (fun t q => writeControlBlock_sound q t) _ s
  · exact .refl s

theorem conveyorStarted_sound (left : Bool) (s : State) : Sound s (conveyorStarted left s) := by
  unfold conveyorStarted
  split
  · exact restartLate_sound s
  · exact .refl s

theorem installConfigure_keeps {addr : Word} {s : State}
    (h : balancesInRange (parseConf s.store addr.toNat).initBal) : Keeps s (installConfigure addr s) := by
  rw [installConfigure_eq]
  exact (configured_keeps h).trans ((conveyorStarted_sound _ _).trans ((blocksWritten_sound _ _).trans
    ((reexamineAll_sound _).trans (askStatus_sound _)))).keeps

theorem endConfigure_keeps (addr : Word) (s : State) : Keeps s (endConfigure addr s).2.2 := by
  unfold endConfigure
  split
  · exact .refl s
  · rename_i passed
    split
    · exact installConfigure_keeps (initBal_inRange passed)
    · exact .refl s

theorem endLoadPrices_keeps (addr : Word) (s : State) : Keeps s (endLoadPrices addr s).2.2 := by
  unfold endLoadPrices
  split
  · exact .refl s
  · exact (installPrices_sound _ s).keeps

/-! ### Chip clear -/

theorem emptyClass_ok (k : NoticeClass) : ClassOk k {} := by simp [ClassOk]

theorem chipClear_keeps (s : State) : Keeps s (chipClear s) where
  store g := g
  notices _ := (noticesOk_iff _).2 ⟨fun k => by cases k <;> exact emptyClass_ok _, rfl⟩
  capacity _ := by
    refine ⟨Nat.zero_le _, Nat.zero_le _, Nat.zero_le _, Nat.zero_le _, fun d => ?_, Nat.zero_le _, Nat.zero_le _,
      fun l => ?_⟩
    · simp [chipClear]
    · cases l <;> exact Nat.zero_le _
  calibration _ := ⟨fun b hb => by simp [chipClear] at hb, fun p hp => by simp [chipClear] at hp⟩
  sensors _ := ⟨fun i => by simp [chipClear], rfl⟩

/-! ### Every step -/

theorem event_keeps {f : State → State} {s : State} (h : Keeps { s with work := {} } (f { s with work := {} })) :
    Keeps s (event f s) :=
  (clearWork_sound s _).keeps.trans (h.trans (settle_sound _).keeps)

theorem eventWhen_keeps {due : State → Bool} {f : State → State} {s : State}
    (h : Keeps { s with work := {} } (f { s with work := {} })) : Keeps s (eventWhen due f s) := by
  unfold eventWhen
  split
  · exact event_keeps h
  · exact .refl s

end Sys2Proof.Machine
end

section
/-! SUPPORT. What every step of the part keeps. -/

namespace Sys2Proof.Machine

/-- What an outcome keeps: nothing is asked of a stop. -/
def OutcomeKeeps (s : State) (o : Outcome) : Prop := ∀ t, o = .next t → Keeps s t

theorem keeps_next {s t : State} (h : Keeps s t) : OutcomeKeeps s (.next t) := by
  rintro _ ⟨⟩
  exact h

theorem keeps_refused (s : State) (r : Refusal) : OutcomeKeeps s (.refused r) := by rintro _ ⟨⟩

theorem keeps_fault (s : State) (f : Fault) : OutcomeKeeps s (.fault f) := by rintro _ ⟨⟩

/-- A sound event keeps the invariants. -/
theorem keeps_event {f : State → State} {s : State} (h : ∀ u, Sound u (f u)) : OutcomeKeeps s (.next (event f s)) :=
  keeps_next (event_sound h).keeps

theorem keeps_eventWhen {due : State → Bool} {f : State → State} {s : State} (h : ∀ u, Sound u (f u)) :
    OutcomeKeeps s (.next (eventWhen due f s)) :=
  keeps_next (eventWhen_sound h).keeps

theorem keeps_id (s : State) : OutcomeKeeps s (.next s) := keeps_next (.refl s)

theorem execAttn_keeps (v : Word) (ws : List HostWrite) (s : State) : OutcomeKeeps s (execAttn v ws s) := by
  unfold execAttn
  split
  · exact keeps_next (event_keeps ((setStore_keeps (Memory.wf_hostWrites · ws)).trans (attention_keeps _)))
  · exact keeps_refused _ _

theorem execConfigureComplete_keeps (s : State) : OutcomeKeeps s (execConfigureComplete s) := by
  unfold execConfigureComplete
  split
  · exact keeps_next (event_keeps (completeReading_keeps _ (endConfigure_keeps _ _)))
  · exact keeps_id s

theorem execLoadPricesComplete_keeps (s : State) : OutcomeKeeps s (execLoadPricesComplete s) := by
  unfold execLoadPricesComplete
  split
  · exact keeps_next (event_keeps (completeReading_keeps _ (endLoadPrices_keeps _ _)))
  · exact keeps_id s

theorem execImageLineReadComplete_keeps (l : Lane) (s : State) : OutcomeKeeps s (execImageLineReadComplete l s) := by
  unfold execImageLineReadComplete
  split
  · exact keeps_id s
  · rename_i r reading
    split
    · exact keeps_next (event_keeps (lineArrives_sound (s := { s with work := {} }) reading).keeps)
    · exact keeps_fault _ _

theorem execRowEnd_keeps (s : State) : OutcomeKeeps s (execRowEnd s) := by
  unfold execRowEnd
  split
  · split
    · exact keeps_event fun u => (judgePrints_sound _ u).trans (passRow_sound _ _)
    · exact keeps_id s
  · exact keeps_id s

theorem execCalibOrBlankRowEnd_keeps (s : State) : OutcomeKeeps s (execCalibOrBlankRowEnd s) := by
  unfold execCalibOrBlankRowEnd
  split
  · split
    · exact keeps_id s
    · exact keeps_event (passRow_sound _)
  · exact keeps_id s

theorem execHeadTemperatureSample_keeps (q : Nat) (s : State) : OutcomeKeeps s (execHeadTemperatureSample q s) := by
  unfold execHeadTemperatureSample
  split
  · exact keeps_eventWhen (takeSample_sound q)
  · exact keeps_refused _ _

theorem execDensitometerReading_keeps (r g b : Nat) (s : State) : OutcomeKeeps s (execDensitometerReading r g b s) := by
  unfold execDensitometerReading
  split
  · split
    · exact keeps_event (judgeReading_sound _ _)
    · exact keeps_id s
  · exact keeps_refused _ _

theorem execMarkWindowOpen_keeps (s : State) : OutcomeKeeps s (execMarkWindowOpen s) := by
  unfold execMarkWindowOpen
  split
  · split
    · exact keeps_event (setBoundary_sound _ _)
    · exact keeps_id s
  · exact keeps_id s

theorem execMarkReport_keeps (y : Word) (s : State) : OutcomeKeeps s (execMarkReport y s) := by
  unfold execMarkReport
  split
  · split
    · exact keeps_event (seeMark_sound _ _ _)
    · exact keeps_id s
  · exact keeps_id s

theorem execMarkMissed_keeps (s : State) : OutcomeKeeps s (execMarkMissed s) := by
  unfold execMarkMissed
  split
  · split
    · exact keeps_event (missMark_sound _ _)
    · exact keeps_id s
  · exact keeps_id s

theorem execKnifeFire_keeps (s : State) : OutcomeKeeps s (execKnifeFire s) := by
  unfold execKnifeFire
  split
  · split
    · exact keeps_event (fireKnife_sound _)
    · exact keeps_id s
  · exact keeps_id s

theorem execPieceAtDiverter_keeps (s : State) : OutcomeKeeps s (execPieceAtDiverter s) := by
  unfold execPieceAtDiverter
  split
  · split
    · exact keeps_event (divertPiece_sound _)
    · exact keeps_id s
  · exact keeps_id s

theorem execMisrouted_keeps (s : State) : OutcomeKeeps s (execMisrouted s) := by
  unfold execMisrouted
  split
  · split
    · exact keeps_event (misroute_sound _)
    · exact keeps_id s
  · exact keeps_id s

theorem keeps_posted0 (c : Command) (s : State) : OutcomeKeeps s (.next (event (posted0 c) s)) :=
  keeps_next (event_keeps (posted0_keeps c _))

theorem keeps_posted1 (c : Command) (w : Word) (s : State) : OutcomeKeeps s (.next (event (posted1 c w) s)) :=
  keeps_next (event_keeps (posted1_keeps c w _))

theorem keeps_posted2 (c : Command) (w v : Word) (s : State) : OutcomeKeeps s (.next (event (posted2 c w v) s)) :=
  keeps_next (event_keeps (posted2_keeps c w v _))

theorem exec_keeps (i : Instr) (s : State) : OutcomeKeeps s (exec i s) := by
  cases i with
  | attn v ws => exact execAttn_keeps v ws s
  | clear v => exact keeps_next (chipClear_keeps s)
  | powerUp => exact keeps_next (chipClear_keeps s)
  | registerWriteIgnored o v => exact keeps_id s
  | configure a => exact keeps_posted1 _ _ s
  | configureComplete => exact execConfigureComplete_keeps s
  | start => exact keeps_posted0 _ s
  | pause => exact keeps_posted0 _ s
  | clearFault => exact keeps_posted0 _ s
  | initiate q a => exact keeps_posted2 _ _ _ s
  | resume q => exact keeps_posted1 _ _ s
  | releaseQueue q => exact keeps_posted1 _ _ s
  | withdraw n c => exact keeps_posted2 _ _ _ s
  | setLanes m => exact keeps_posted1 _ _ s
  | recalibrate => exact keeps_posted0 _ s
  | loadPrices a => exact keeps_posted1 _ _ s
  | loadPricesComplete => exact execLoadPricesComplete_keeps s
  | releaseBin b => exact keeps_posted1 _ _ s
  | sectionResetExposure => exact keeps_posted1 _ _ s
  | sectionResetCutter => exact keeps_posted1 _ _ s
  | sectionResetSorter => exact keeps_posted1 _ _ s
  | imageLineReadComplete l => exact execImageLineReadComplete_keeps l s
  | leadInStart => exact keeps_eventWhen beginLeadIn_sound
  | leadInEnd => exact keeps_eventWhen endLeadIn_sound
  | rowStart => exact keeps_eventWhen startRow_sound
  | exposureFeedStep => exact keeps_eventWhen feedStep_sound
  | rowEnd => exact execRowEnd_keeps s
  | calibOrBlankRowEnd => exact execCalibOrBlankRowEnd_keeps s
  | headTemperatureSample q => exact execHeadTemperatureSample_keeps q s
  | processFeedStep => exact keeps_eventWhen fun u => (advanceY_sound u).trans (keepLoop_sound _)
  | densitometerReading r g b => exact execDensitometerReading_keeps r g b s
  | markWindowOpen => exact execMarkWindowOpen_keeps s
  | markReport y => exact execMarkReport_keeps y s
  | markMissed => exact execMarkMissed_keeps s
  | knifeFire => exact execKnifeFire_keeps s
  | pieceAtDiverter => exact execPieceAtDiverter_keeps s
  | arrival d => exact keeps_eventWhen (arrive_sound d)
  | misrouted => exact execMisrouted_keeps s
  | lateExpiry d => exact keeps_eventWhen (expireLate_sound d)
  | binWaiting i => exact keeps_eventWhen (expireCountdown_sound i)
  | doorOpen i => exact keeps_next (eventWhen_keeps (openDoor_keeps i _))
  | doorClose i => exact keeps_next (eventWhen_keeps (closeDoor_keeps i _))
  | paperEnd v => exact keeps_next (eventWhen_keeps (changePaper_keeps v _))
  | drainComplete => exact keeps_eventWhen enterPaused_sound
  | lineStopInput v => exact keeps_next (eventWhen_keeps (changeLineStop_keeps v _))
  | webJamSensor v => exact keeps_next (eventWhen_keeps (changeWebJam_keeps v _))
  | conveyorJamSensor v => exact keeps_next (eventWhen_keeps (changeConvJam_keeps v _))
  | lineClockTick => exact keeps_event tick_sound

theorem setPending_keeps (l : List Instr) (s : State) : Keeps s { s with pending := l } :=
  ⟨fun g => g, fun g => g, fun g => g, fun g => g, fun g => g⟩

/-- Every step keeps the invariants of the store, the notices, the capacities, the balances and the sensors. -/
theorem step_keeps {s t : State} (h : step s = .next t) : Keeps s t := by
  unfold step at h
  split at h
  · exact keeps_id s t h
  · exact (setPending_keeps _ s).trans (exec_keeps _ _ t h)

end Sys2Proof.Machine
end

section
/-! CLAIMS. The invariants of the store, the notices, the capacities, the balances and the sensors. -/

namespace Sys2Proof.Machine

/-- Settles O55: no operation of the part writes the store but through the laws that keep its canonical form. -/
theorem storeStaysCanonical : Obligations.StoreStaysCanonical := fun _ _ h g => (step_keeps g).store h

/-- Settles O57: a notice raised, a slot freed and the enables installed are the only changes to the classes. -/
theorem noticesStayOk : Obligations.NoticesStayOk := fun _ _ h g => (step_keeps g).notices h

/-- Settles O58: every growth of a table is judged against its places. -/
theorem capacitiesHold : Obligations.CapacitiesHold := fun _ _ h g => (step_keeps g).capacity h

/-- Settles O59: balances come from a checked record or from R87's clamp, and a flag moves with its pin. -/
theorem balancesAndSensorsHold : Obligations.BalancesAndSensorsHold :=
  ⟨fun _ _ h g => (step_keeps g).calibration h, fun _ _ h g => (step_keeps g).sensors h⟩

end Sys2Proof.Machine
end

section
/-! SUPPORT. Machine Control: what each operation makes of the machine state, its causes and its request (R161, R162). -/

namespace Sys2Proof.Machine

/-! ## Consistency -/

/-- Machine Control as R161 gives it, but that a request may outlive its row until the row's end is judged. -/
def ControlSettled (m : McState) : Prop :=
  (m.state ≠ .faulted → m.faultCause = .noFault ∧ m.convStop = false) ∧
  (m.state = .faulted → m.faultCause ≠ .noFault) ∧
  (m.state ≠ .pausing → m.state ≠ .paused → m.pauseCause = .noPause) ∧
  (m.paperOutReq = true → m.state = .running)

theorem controlConsistent_iff (s : State) :
    ControlConsistent s ↔ ControlSettled s.mc ∧ (s.mc.paperOutReq = true → s.ee.expo.isSome) := by
  unfold ControlConsistent ControlSettled
  tauto

/-- A request that is not pending asks for no row. -/
theorem ControlSettled.consistent {s : State} (h : ControlSettled s.mc) (g : s.mc.paperOutReq = false) :
    ControlConsistent s :=
  (controlConsistent_iff s).2 ⟨h, by simp [g]⟩

/-- With Machine Control unchanged and a row or lead-in no less exposing, consistency stays. -/
theorem ControlConsistent.congr {s t : State} (h : ControlConsistent s) (mc : t.mc = s.mc)
    (expo : s.ee.expo.isSome → t.ee.expo.isSome) : ControlConsistent t := by
  rw [controlConsistent_iff] at h ⊢
  rw [mc]
  exact ⟨h.1, expo ∘ h.2⟩

/-! ## Faults -/

theorem enterFault_mc (c : FaultCause) (s : State) :
    (enterFault c s).mc =
      { state := .faulted, faultCause := c, pauseCause := .noPause, paperOutReq := false,
        convStop := s.mc.convStop || c.stopsConveyor } := by
  simp [enterFault]

theorem enterFault_consistent {c : FaultCause} (h : c ≠ .noFault) (s : State) : ControlConsistent (enterFault c s) := by
  refine ControlSettled.consistent ?_ (by rw [enterFault_mc])
  rw [enterFault_mc]
  simpa [ControlSettled] using h

@[simp] theorem stopConveyor_mc (s : State) : (stopConveyor s).mc = { s.mc with convStop := true } := by
  simp [stopConveyor]

@[simp] theorem stopConveyor_ee (s : State) : (stopConveyor s).ee = s.ee := by
  simp [stopConveyor]

/-- In FAULTED a further condition stops the conveyor at most. -/
theorem furtherFault_mc (c : FaultCause) (s : State) :
    (furtherFault c s).mc = s.mc ∨ (furtherFault c s).mc = { s.mc with convStop := true } := by
  unfold furtherFault
  split
  · dsimp only
    split
    · left; simp
    · right; simp
  · split
    · exact .inl rfl
    · right; simp
  · exact .inl rfl
  · exact .inl rfl
  · exact .inl rfl

theorem furtherFault_expo (c : FaultCause) (s : State) : (furtherFault c s).ee.expo = s.ee.expo := by
  unfold furtherFault
  split
  · dsimp only
    split <;> simp
  · split <;> simp
  · rfl
  · rfl
  · rfl

theorem furtherFault_consistent {c : FaultCause} {s : State} (h : ControlConsistent s) (f : s.mc.state = .faulted) :
    ControlConsistent (furtherFault c s) := by
  obtain e | e := furtherFault_mc c s
  · exact h.congr e fun g => by rwa [furtherFault_expo]
  · rw [controlConsistent_iff] at h ⊢
    rw [e, furtherFault_expo]
    obtain ⟨⟨-, cause, pause, request⟩, row⟩ := h
    exact ⟨⟨fun g => absurd f g, cause, pause, request⟩, row⟩

/-- The machine state after a condition was taken or not: as it was, or FAULTED (R168). -/
def faultReaches (m m' : MachineState) : Prop := m' = m ∨ (m ≠ .cleared ∧ m ≠ .ready ∧ m' = .faulted)

theorem takeCondition_control {c : FaultCause} (h : c ≠ .noFault) {s : State} (g : ControlConsistent s) :
    ControlConsistent (takeCondition c s) ∧ faultReaches s.mc.state (takeCondition c s).mc.state := by
  have entered (live : s.mc.state ≠ .cleared ∧ s.mc.state ≠ .ready) :
      ControlConsistent (enterFault c s) ∧ faultReaches s.mc.state (enterFault c s).mc.state :=
    ⟨enterFault_consistent h s, .inr ⟨live.1, live.2, by rw [enterFault_mc]⟩⟩
  unfold takeCondition
  split
  next e => exact entered (by simp [e])
  next e => exact entered (by simp [e])
  next e => exact entered (by simp [e])
  next e =>
    refine ⟨furtherFault_consistent g e, .inl ?_⟩
    obtain f | f := furtherFault_mc c s <;> rw [f]
  next => exact ⟨g, .inl rfl⟩
  next => exact ⟨g, .inl rfl⟩

theorem faultReaches.trans {l m n : MachineState} (h : faultReaches l m) (g : faultReaches m n) : faultReaches l n := by
  obtain rfl | ⟨a, b, rfl⟩ := h
  · exact g
  · refine .inr ⟨a, b, ?_⟩
    obtain e | ⟨-, -, e⟩ := g <;> exact e

/-- The state is as it was or FAULTED after conditions are judged. -/
theorem judgeList_control (l : List FaultCause) (h : ∀ c ∈ l, c ≠ .noFault) {s : State} (g : ControlConsistent s) :
    ControlConsistent (l.foldl (fun t c => if present t c then takeCondition c t else t) s) ∧
      faultReaches s.mc.state (l.foldl (fun t c => if present t c then takeCondition c t else t) s).mc.state := by
  induction l generalizing s with
  | nil => exact ⟨g, .inl rfl⟩
  | cons c l ih =>
    have first : ControlConsistent (if present s c then takeCondition c s else s) ∧
        faultReaches s.mc.state (if present s c then takeCondition c s else s).mc.state := by
      split
      · exact takeCondition_control (h c List.mem_cons_self) g
      · exact ⟨g, .inl rfl⟩
    have rest := ih (fun c hc => h c (List.mem_cons_of_mem _ hc)) first.1
    exact ⟨rest.1, first.2.trans rest.2⟩

theorem judgeConditions_control {s : State} (g : ControlConsistent s) :
    ControlConsistent (judgeConditions s) ∧ faultReaches s.mc.state (judgeConditions s).mc.state :=
  judgeList_control _ (by decide) g

/-! ## Pauses -/

/-- The state before the conditions are judged at an entry into PAUSED. -/
def pausedEntered (s : State) : State :=
  askStatus (post .paused (BitVec.ofNat 32 (drainCause s).code)
    (continuityFor (drainCause s) (blanksRemoved (pausedFor (drainCause s) s))))

theorem blanksRemoved_frame (s : State) : (blanksRemoved s).mc = s.mc ∧ (blanksRemoved s).ee = s.ee := by
  unfold blanksRemoved
  simp

theorem pausedEntered_mc (s : State) :
    (pausedEntered s).mc = { s.mc with state := .paused, pauseCause := drainCause s } := by
  simp [pausedEntered, continuityFor, blanksRemoved_frame, pausedFor]

theorem enterPaused_control {s : State} (h : ControlSettled s.mc) (p : s.mc.state = .pausing) :
    ControlConsistent (enterPaused s) ∧ ((enterPaused s).mc.state = .paused ∨ (enterPaused s).mc.state = .faulted) := by
  obtain ⟨fault, -, -, request⟩ := h
  have noRequest : s.mc.paperOutReq = false := by
    by_contra r
    have := request (by simpa using r)
    simp [p] at this
  have before : ControlConsistent (pausedEntered s) := by
    refine ControlSettled.consistent ?_ (by rw [pausedEntered_mc]; exact noRequest)
    rw [pausedEntered_mc]
    refine ⟨fun _ => fault (by simp [p]), by simp, by simp, by simp [noRequest]⟩
  obtain ⟨consistent, reach⟩ := judgeConditions_control before
  rw [pausedEntered_mc] at reach
  refine ⟨consistent, ?_⟩
  obtain e | ⟨-, -, e⟩ := reach
  · exact .inl e
  · exact .inr e

theorem pausingFor_mc (c : PauseCause) (s : State) :
    (pausingFor c s).mc = { s.mc with state := .pausing, pauseCause := c, paperOutReq := false } := by
  simp [pausingFor]

theorem enterPausing_control (c : PauseCause) {s : State} (h : ControlSettled s.mc) (r : s.mc.state = .running) :
    ControlConsistent (enterPausing c s) ∧ (enterPausing c s).mc.state ∈ [.pausing, .paused, MachineState.faulted] := by
  obtain ⟨fault, -, -, -⟩ := h
  have pausing : ControlSettled (pausingFor c s).mc := by
    rw [pausingFor_mc]
    exact ⟨fun _ => fault (by simp [r]), by simp, by simp, by simp⟩
  rw [enterPausing_eq]
  split
  · obtain ⟨consistent, e⟩ := enterPaused_control pausing (by rw [pausingFor_mc])
    refine ⟨consistent, ?_⟩
    obtain e | e := e <;> simp [e]
  · exact ⟨pausing.consistent (by rw [pausingFor_mc]), by simp [pausingFor_mc]⟩

/-- The machine state after a request for a pause: as it was, or from RUNNING a state of the pause (R166). -/
def pauseReaches (m m' : MachineState) : Prop := m' = m ∨ (m = .running ∧ m' ∈ [.pausing, .paused, MachineState.faulted])

theorem requestPaperPause_control {s : State} (h : ControlConsistent s) :
    ControlConsistent (requestPaperPause s) ∧ pauseReaches s.mc.state (requestPaperPause s).mc.state := by
  unfold requestPaperPause
  split
  · exact ⟨h, .inl rfl⟩
  · rename_i running
    rw [not_not] at running
    have settled := ((controlConsistent_iff s).1 h).1
    split
    · obtain ⟨consistent, e⟩ := enterPausing_control .paperOut settled running
      exact ⟨consistent, .inr ⟨running, e⟩⟩
    · rename_i exposing
      refine ⟨(controlConsistent_iff _).2 ⟨?_, fun _ => ?_⟩, .inl rfl⟩
      · obtain ⟨fault, faulted, pause, -⟩ := settled
        exact ⟨fault, faulted, pause, fun _ => running⟩
      · simpa [Option.isSome_iff_ne_none] using exposing

/-- The pending request is judged at the end of a row; what exposes is then of no account (R166). -/
theorem judgePaperRequest_control {s : State} (h : ControlSettled s.mc) :
    ControlConsistent (judgePaperRequest s) ∧ pauseReaches s.mc.state (judgePaperRequest s).mc.state := by
  unfold judgePaperRequest
  split
  · rename_i none
    exact ⟨h.consistent (by simpa using none), .inl rfl⟩
  · rename_i pending
    have running : s.mc.state = .running := h.2.2.2 (by simpa using pending)
    split
    · obtain ⟨consistent, e⟩ := enterPausing_control .paperOut h running
      exact ⟨consistent, .inr ⟨running, e⟩⟩
    · refine ⟨ControlSettled.consistent ?_ rfl, .inl rfl⟩
      obtain ⟨fault, faulted, pause, -⟩ := h
      exact ⟨fault, faulted, pause, by simp⟩

end Sys2Proof.Machine
end

section
/-! SUPPORT. The machine state over every command of the table (R161, R162). -/

namespace Sys2Proof.Machine

/-- From a state in which Machine Control is consistent an operation leads to one in which it is, by a transition of R162. -/
def Steers (s t : State) : Prop :=
  ControlConsistent s → ControlConsistent t ∧ t.mc.state ∈ reachableStates s.mc.state

theorem self_mem_reachableStates (m : MachineState) : m ∈ reachableStates m := by cases m <;> decide

/-- Machine Control unchanged, a row or lead-in no less exposing. -/
theorem Steers.same {s t : State} (mc : t.mc = s.mc) (expo : s.ee.expo.isSome → t.ee.expo.isSome) : Steers s t :=
  fun h => ⟨h.congr mc expo, by rw [mc]; exact self_mem_reachableStates _⟩

theorem Steers.refl (s : State) : Steers s s := .same rfl id

/-- What follows leaves Machine Control as it is. -/
theorem Steers.before {s t u : State} (h : Steers s t) (mc : u.mc = t.mc) (expo : t.ee.expo.isSome → u.ee.expo.isSome) :
    Steers s u := fun g => by
  obtain ⟨consistent, reach⟩ := h g
  exact ⟨consistent.congr mc expo, by rwa [mc]⟩

/-- What goes before leaves Machine Control as it is. -/
theorem Steers.behind {s t u : State} (h : Steers t u) (mc : t.mc = s.mc) (expo : s.ee.expo.isSome → t.ee.expo.isSome) :
    Steers s u := fun g => by
  obtain ⟨consistent, reach⟩ := h (g.congr mc expo)
  exact ⟨consistent, by rwa [← mc]⟩

theorem faultReaches.mem {m m' : MachineState} (h : faultReaches m m') : m' ∈ reachableStates m := by
  obtain rfl | ⟨cleared, ready, rfl⟩ := h
  · exact self_mem_reachableStates _
  · cases m with
    | cleared => exact absurd rfl cleared
    | ready => exact absurd rfl ready
    | running | pausing | paused | faulted => decide

theorem pauseReaches.mem {m m' : MachineState} (h : pauseReaches m m') : m' ∈ reachableStates m := by
  obtain rfl | ⟨rfl, h⟩ := h
  · exact self_mem_reachableStates _
  · simp only [List.mem_cons, List.not_mem_nil, or_false] at h
    obtain rfl | rfl | rfl := h <;> decide

theorem takeCondition_steers {c : FaultCause} (h : c ≠ .noFault) (s : State) : Steers s (takeCondition c s) := fun g => by
  obtain ⟨consistent, reach⟩ := takeCondition_control h g
  exact ⟨consistent, reach.mem⟩

theorem requestPaperPause_steers (s : State) : Steers s (requestPaperPause s) := fun g => by
  obtain ⟨consistent, reach⟩ := requestPaperPause_control g
  exact ⟨consistent, reach.mem⟩

/-- A row or lead-in ended, and the request then judged. -/
theorem judgePaperRequest_steers {s t : State} (mc : t.mc = s.mc) : Steers s (judgePaperRequest t) := fun g => by
  have settled := ((controlConsistent_iff s).1 g).1
  rw [← mc] at settled
  obtain ⟨consistent, reach⟩ := judgePaperRequest_control settled
  rw [mc] at reach
  exact ⟨consistent, reach.mem⟩

/-! ## The head -/

theorem startBlankRow_expo (s : State) : (startBlankRow s).ee.expo = some (.row (blankRun s)) := by
  simp [startBlankRow_eq, setExpo]

theorem extendBlank_exposes {s : State} (h : s.ee.expo.isSome) : (extendBlank s).ee.expo.isSome := by
  unfold extendBlank
  split
  · split
    · rfl
    · exact h
  · exact h

theorem requestBlank_exposes {s : State} (h : s.ee.expo.isSome) : (requestBlank s).ee.expo.isSome := by
  rw [requestBlank_eq]
  split
  · split
    · rw [startBlankRow_expo]; rfl
    · rfl
  · exact extendBlank_exposes h

theorem keepLoop_exposes {s : State} (h : s.ee.expo.isSome) : (keepLoop s).ee.expo.isSome := by
  unfold keepLoop
  split
  · exact requestBlank_exposes h
  · exact h

theorem beginLeadIn_steers (s : State) : Steers s (beginLeadIn s) := by
  refine .same (by simp) fun h => ?_
  unfold beginLeadIn
  split
  · rfl
  · exact requestBlank_exposes h

theorem endLeadIn_steers (s : State) : Steers s (endLeadIn s) := by
  rw [endLeadIn_eq]
  split
  · exact judgePaperRequest_steers (by simp [leadInPassed])
  · exact (judgePaperRequest_steers (s := s) (t := leadInPassed s) rfl).before (by simp) keepLoop_exposes

theorem startSlotRow_expo (r : SlotRow) (s : State) : (startSlotRow r s).ee.expo = some (.row (slotRowRun r s)) := by
  rw [startSlotRow_eq]
  simp only [patchIfCalib, flagIfStale]
  split <;> split <;> simp [headTaken]

theorem startRow_steers (s : State) : Steers s (startRow s) := by
  refine .same (by simp) fun h => ?_
  unfold startRow
  split
  · rw [startSlotRow_expo]; rfl
  · exact h

theorem feedStep_steers (s : State) : Steers s (feedStep s) := by
  refine .same (by simp) fun h => ?_
  unfold feedStep
  split
  · rfl
  · simp [exposeLine]
  · exact h

theorem passRow_steers (r : ExposingRow) {s t : State} (mc : t.mc = s.mc) : Steers s (passRow r t) := by
  unfold passRow
  exact (judgePaperRequest_steers (s := s) (t := endRow (endEntries r.x0 t)) (by simp [mc])).before (by simp) keepLoop_exposes

theorem missMark_steers (i : Nat) (b : Boundary) (s : State) : Steers s (missMark i b s) := by
  have kept : (markMissed i b s).mc = s.mc ∧ (markMissed i b s).ee = s.ee := by simp [markMissed, missCounted]
  obtain ⟨mc, ee⟩ := kept
  rw [missMark_eq]
  split
  · exact (takeCondition_steers (by decide) _).behind mc fun h => by rwa [ee]
  · exact .same mc fun h => by rwa [ee]

theorem advanceY_ee (s : State) : (advanceY s).ee = s.ee := by
  rw [advanceY_eq]
  split
  · rfl
  · rw [yMoved]
    simp

theorem processFeed_steers (s : State) : Steers s (keepLoop (advanceY s)) :=
  .same (by simp) fun h => keepLoop_exposes (by rwa [advanceY_ee])

/-! ## Machine Control's commands -/

theorem mem_reachable_start {m m' : MachineState} (h : m = .ready ∨ m = .paused)
    (g : m' ∈ [.running, .pausing, .paused, MachineState.faulted]) : m' ∈ reachableStates m := by
  simp only [List.mem_cons, List.not_mem_nil, or_false] at g
  obtain rfl | rfl := h <;> obtain rfl | rfl | rfl | rfl := g <;> decide

theorem startedFrom_mc (m : MachineState) (s : State) :
    (startedFrom m s).mc = { s.mc with state := .running, pauseCause := .noPause } := by
  unfold startedFrom
  split <;> simp [runningBy]

theorem startedFrom_consistent {m : MachineState} {s : State} (h : ControlConsistent s) (n : s.mc.state ≠ .faulted)
    (r : s.mc.state ≠ .running) : ControlConsistent (startedFrom m s) := by
  obtain ⟨⟨fault, -, -, request⟩, -⟩ := (controlConsistent_iff s).1 h
  have noRequest : s.mc.paperOutReq = false := by
    by_contra g
    exact r (request (by simpa using g))
  refine ControlSettled.consistent ?_ (by rw [startedFrom_mc]; exact noRequest)
  rw [startedFrom_mc]
  exact ⟨fun _ => fault n, by simp, by simp, by simp⟩

/-- START (R164): RUNNING, or by the paper and the conditions what follows it. -/
theorem started_steers {s : State} (admitted : s.mc.state = .ready ∨ s.mc.state = .paused) :
    Steers s (conditionsJudged (paperJudged (startedFrom s.mc.state s))) := by
  intro h
  have live : s.mc.state ≠ .faulted ∧ s.mc.state ≠ .running := by obtain e | e := admitted <;> simp [e]
  have started := startedFrom_consistent (m := s.mc.state) h live.1 live.2
  have state : (startedFrom s.mc.state s).mc.state = .running := by rw [startedFrom_mc]
  have paper : ControlConsistent (paperJudged (startedFrom s.mc.state s)) ∧
      (paperJudged (startedFrom s.mc.state s)).mc.state ∈ [.running, .pausing, .paused, MachineState.faulted] := by
    unfold paperJudged
    split
    · obtain ⟨consistent, reach⟩ := requestPaperPause_control started
      refine ⟨consistent, ?_⟩
      obtain e | ⟨-, e⟩ := reach
      · rw [e, state]; decide
      · exact List.mem_cons_of_mem _ e
    · exact ⟨started, by rw [state]; decide⟩
  unfold conditionsJudged
  split
  · exact ⟨paper.1, mem_reachable_start admitted paper.2⟩
  · obtain ⟨consistent, reach⟩ := judgeConditions_control paper.1
    refine ⟨consistent, mem_reachable_start admitted ?_⟩
    obtain e | ⟨-, -, e⟩ := reach
    · rw [e]; exact paper.2
    · rw [e]; decide

theorem pausing_steers {s : State} (running : s.mc.state = .running) : Steers s (enterPausing .host s) := by
  intro h
  obtain ⟨consistent, e⟩ := enterPausing_control .host ((controlConsistent_iff s).1 h).1 running
  exact ⟨consistent, pauseReaches.mem (.inr ⟨running, e⟩)⟩

theorem leaveFault_mc (s : State) :
    (leaveFault s).mc =
      { s.mc with state := .paused, faultCause := .noFault, pauseCause := .faultCleared, convStop := false } := by
  unfold leaveFault
  dsimp only
  split <;> simp

theorem leaveFault_steers {s : State} (faulted : s.mc.state = .faulted) : Steers s (leaveFault s) := by
  intro h
  obtain ⟨⟨-, -, -, request⟩, -⟩ := (controlConsistent_iff s).1 h
  have noRequest : s.mc.paperOutReq = false := by
    by_contra g
    have := request (by simpa using g)
    simp [faulted] at this
  refine ⟨ControlSettled.consistent ?_ (by rw [leaveFault_mc]; exact noRequest), ?_⟩
  · rw [leaveFault_mc]
    exact ⟨by simp, by simp, by simp, by simp [noRequest]⟩
  · rw [leaveFault_mc, faulted]
    exact List.mem_cons_of_mem _ List.mem_cons_self

/-! ## The other commands of the cell -/

theorem stageMask_mc_ee (m : LaneMask) (s : State) : (stageMask m s).mc = s.mc ∧ (stageMask m s).ee = s.ee := by
  unfold stageMask
  dsimp only
  split <;> exact ⟨rfl, rfl⟩

theorem Effect.steers {s t : State} (h : Effect s t) : Steers s t := by
  cases h with
  | started h => exact started_steers h
  | pausing h => exact pausing_steers h
  | faultLeft h => exact leaveFault_steers h
  | staged m => exact .same (stageMask_mc_ee m s).1 fun h => by rwa [(stageMask_mc_ee m s).2]
  | none => exact .refl s
  | reading => exact .same rfl id
  | queue | halted | released | withdrawn | withdrawnDeferred | triggered | binFreed | exposureReset
  | cutterReset | sorterReset =>
    exact .same (by simp) (by simp)

theorem takeCommand_steers (s : State) : Steers s (takeCommand s) := by
  unfold takeCommand
  split
  · exact .same (by simp) (by simp)
  · rename_i c _
    have h := (runCommand_effect c (cellWord1 s.store) (cellWord2 s.store) s).steers
    split
    next e => rw [e] at h; exact h.before (by simp [Taken.after]) (by simp [Taken.after])
    next e => rw [e] at h; exact h

theorem serve_steers (s : State) : Steers s (serve s) := by
  unfold serve
  dsimp only
  split
  · exact (takeCommand_steers _).behind rfl id
  · exact .same rfl id

theorem attention_steers (s : State) : Steers s (attention s) := by
  have kept : (readSlots (setAttn true s)).mc = s.mc ∧ (readSlots (setAttn true s)).ee = s.ee := by simp [setAttn]
  obtain ⟨mc, ee⟩ := kept
  rw [attention_eq]
  split
  · exact (serve_steers _).behind mc fun h => by rwa [ee]
  · exact .same mc fun h => by rwa [ee]

/-- The host's stores ahead of an attention are of no account. -/
theorem attention_steers_stored (m : Memory) (s : State) : Steers s (attention { s with store := m }) :=
  (attention_steers _).behind rfl id

/-- After a completion the cell shows TAKEN, so an attention that waited takes nothing (R178). -/
theorem completeReading_eq (c : Command) (r : ReplyCode × Nat × State) :
    completeReading c r = setAttn false (complete c.code r.1 r.2.1 r.2.2) := by
  have taken := complete_not_posted c r.1 r.2.1 r.2.2
  unfold completeReading serve
  dsimp only
  split
  · exact if_neg (by simpa using taken)
  · rename_i none
    have e : (complete c.code r.1 r.2.1 r.2.2).cu.attnPending = false := by simpa using none
    rw [setAttn, ← e]

theorem completeReading_steers (c : Command) {s : State} {r : ReplyCode × Nat × State} (h : Steers s r.2.2) :
    Steers s (completeReading c r) := by
  rw [completeReading_eq]
  exact h.before (by simp [setAttn]) (by simp [setAttn])

theorem configured_mc_ee (addr : Word) (s : State) :
    (configured addr s).mc = { s.mc with state := .ready, pauseCause := .noPause } ∧ (configured addr s).ee = s.ee :=
  ⟨rfl, rfl⟩

theorem blocksWritten_mc_ee (first : Bool) (s : State) :
    (blocksWritten first s).mc = s.mc ∧ (blocksWritten first s).ee = s.ee := by
  unfold blocksWritten
  split <;> simp

theorem conveyorStarted_mc_ee (left : Bool) (s : State) :
    (conveyorStarted left s).mc = s.mc ∧ (conveyorStarted left s).ee = s.ee := by
  unfold conveyorStarted
  split <;> simp

theorem installConfigure_mc_ee (addr : Word) (s : State) :
    (installConfigure addr s).mc = { s.mc with state := .ready, pauseCause := .noPause } ∧
      (installConfigure addr s).ee = s.ee := by
  rw [installConfigure_eq]
  simp [blocksWritten_mc_ee, conveyorStarted_mc_ee, configured_mc_ee]

theorem installConfigure_steers {addr : Word} {s : State} (h : configureAdmitted s = true) :
    Steers s (installConfigure addr s) := by
  intro g
  have admitted : s.mc.state = .cleared ∨ s.mc.state = .ready ∨ s.mc.state = .paused := by
    unfold configureAdmitted at h
    split at h <;> simp_all
  obtain ⟨⟨fault, -, -, request⟩, -⟩ := (controlConsistent_iff s).1 g
  have noRequest : s.mc.paperOutReq = false := by
    by_contra r
    have running := request (by simpa using r)
    obtain e | e | e := admitted <;> simp [e] at running
  have noFault := fault (by obtain e | e | e := admitted <;> simp [e])
  have mc := (installConfigure_mc_ee addr s).1
  refine ⟨ControlSettled.consistent ?_ (by rw [mc]; exact noRequest), ?_⟩
  · rw [mc]
    exact ⟨fun _ => noFault, by simp, by simp, by simp [noRequest]⟩
  · rw [mc]
    obtain e | e | e := admitted <;> rw [e] <;> simp [reachableStates]

theorem endConfigure_steers (addr : Word) (s : State) : Steers s (endConfigure addr s).2.2 := by
  unfold endConfigure
  split
  · exact .refl s
  · split
    case isTrue h => exact installConfigure_steers h
    case isFalse => exact .refl s

theorem endLoadPrices_steers (addr : Word) (s : State) : Steers s (endLoadPrices addr s).2.2 := by
  unfold endLoadPrices
  split
  · exact .refl s
  · exact .same (by simp) (by simp)

theorem chipClear_steers (s : State) : Steers s (chipClear s) := fun _ =>
  ⟨ControlSettled.consistent ⟨by simp [chipClear], by simp [chipClear], by simp [chipClear], by simp [chipClear]⟩ rfl,
    show MachineState.cleared ∈ _ by cases s.mc.state <;> decide⟩

/-! ## Every command -/

/-- Every outcome of a command with a next state steers. -/
def OutcomeSteers (s : State) (o : Outcome) : Prop := ∀ t, o = .next t → Steers s t

theorem steers_next {s t : State} (h : Steers s t) : OutcomeSteers s (.next t) := by
  rintro _ ⟨⟩
  exact h

theorem steers_id (s : State) : OutcomeSteers s (.next s) := steers_next (.refl s)

theorem steers_refused (s : State) (r : Refusal) : OutcomeSteers s (.refused r) := by rintro _ ⟨⟩

theorem event_steers {f : State → State} {s : State} (h : Steers { s with work := {} } (f { s with work := {} })) :
    Steers s (event f s) :=
  (h.behind rfl id).before (by simp [event]) (by simp [event])

theorem steers_event {f : State → State} {s : State} (h : ∀ u, Steers u (f u)) : OutcomeSteers s (.next (event f s)) :=
  steers_next (event_steers (h _))

theorem steers_eventWhen {due : State → Bool} {f : State → State} {s : State} (h : ∀ u, Steers u (f u)) :
    OutcomeSteers s (.next (eventWhen due f s)) := by
  unfold eventWhen
  split
  · exact steers_event h
  · exact steers_id s

/-- An event that leaves Machine Control and what exposes as they are. -/
theorem steers_quiet {f : State → State} {s : State} (mc : ∀ u, (f u).mc = u.mc)
    (expo : ∀ u, (f u).ee.expo = u.ee.expo) : OutcomeSteers s (.next (event f s)) :=
  steers_event fun u => .same (mc u) fun h => by rwa [expo]

end Sys2Proof.Machine
end

section
/-! SUPPORT. Every command of the table steers the machine by the transitions of R162. -/

namespace Sys2Proof.Machine

theorem steers_posted0 (c : Command) (s : State) : OutcomeSteers s (.next (event (posted0 c) s)) :=
  steers_event fun u => attention_steers_stored (Memory.write32 u.store 0 (1 + 256 * c.code)) u

theorem steers_posted1 (c : Command) (w : Word) (s : State) : OutcomeSteers s (.next (event (posted1 c w) s)) :=
  steers_event fun _ => (attention_steers _).behind rfl id

theorem steers_posted2 (c : Command) (w v : Word) (s : State) : OutcomeSteers s (.next (event (posted2 c w v) s)) :=
  steers_event fun _ => (attention_steers _).behind rfl id

theorem execAttn_steers (v : Word) (ws : List HostWrite) (s : State) : OutcomeSteers s (execAttn v ws s) := by
  unfold execAttn
  split
  · exact steers_event fun u => attention_steers_stored (Memory.hostWrites u.store ws) u
  · exact steers_refused _ _

theorem execConfigureComplete_steers (s : State) : OutcomeSteers s (execConfigureComplete s) := by
  unfold execConfigureComplete
  split
  · exact steers_event fun u => completeReading_steers _ (endConfigure_steers _ u)
  · exact steers_id s

theorem execLoadPricesComplete_steers (s : State) : OutcomeSteers s (execLoadPricesComplete s) := by
  unfold execLoadPricesComplete
  split
  · exact steers_event fun u => completeReading_steers _ (endLoadPrices_steers _ u)
  · exact steers_id s

theorem execImageLineReadComplete_steers (l : Lane) (s : State) : OutcomeSteers s (execImageLineReadComplete l s) := by
  unfold execImageLineReadComplete
  split
  · exact steers_id s
  · split
    · exact steers_quiet (by simp) (by simp)
    · rintro _ ⟨⟩

theorem execRowEnd_steers (s : State) : OutcomeSteers s (execRowEnd s) := by
  unfold execRowEnd
  split
  · split
    · exact steers_event fun u => passRow_steers _ (by simp)
    · exact steers_id s
  · exact steers_id s

theorem execCalibOrBlankRowEnd_steers (s : State) : OutcomeSteers s (execCalibOrBlankRowEnd s) := by
  unfold execCalibOrBlankRowEnd
  split
  · split
    · exact steers_id s
    · exact steers_event fun u => passRow_steers _ rfl
  · exact steers_id s

theorem execHeadTemperatureSample_steers (q : Nat) (s : State) : OutcomeSteers s (execHeadTemperatureSample q s) := by
  unfold execHeadTemperatureSample
  split
  · exact steers_eventWhen fun u => .same (by simp) (by simp)
  · exact steers_refused _ _

theorem execDensitometerReading_steers (r g b : Nat) (s : State) :
    OutcomeSteers s (execDensitometerReading r g b s) := by
  unfold execDensitometerReading
  split
  · split
    · exact steers_quiet (by simp) (by simp)
    · exact steers_id s
  · exact steers_refused _ _

theorem execMarkWindowOpen_steers (s : State) : OutcomeSteers s (execMarkWindowOpen s) := by
  unfold execMarkWindowOpen
  split
  · split
    · exact steers_quiet (by simp) (by simp)
    · exact steers_id s
  · exact steers_id s

theorem execMarkReport_steers (y : Word) (s : State) : OutcomeSteers s (execMarkReport y s) := by
  unfold execMarkReport
  split
  · split
    · exact steers_quiet (by simp) (by simp)
    · exact steers_id s
  · exact steers_id s

theorem execMarkMissed_steers (s : State) : OutcomeSteers s (execMarkMissed s) := by
  unfold execMarkMissed
  split
  · split
    · exact steers_event (missMark_steers _ _)
    · exact steers_id s
  · exact steers_id s

theorem execKnifeFire_steers (s : State) : OutcomeSteers s (execKnifeFire s) := by
  unfold execKnifeFire
  split
  · split
    · exact steers_quiet (by simp) (by simp)
    · exact steers_id s
  · exact steers_id s

theorem execPieceAtDiverter_steers (s : State) : OutcomeSteers s (execPieceAtDiverter s) := by
  unfold execPieceAtDiverter
  split
  · split
    · exact steers_quiet (by simp) (by simp)
    · exact steers_id s
  · exact steers_id s

theorem execMisrouted_steers (s : State) : OutcomeSteers s (execMisrouted s) := by
  unfold execMisrouted
  split
  · split
    · exact steers_quiet (by simp) (by simp)
    · exact steers_id s
  · exact steers_id s

theorem changePaper_steers (v : Bool) (s : State) : Steers s (changePaper v s) := by
  rw [changePaper_eq]
  split
  · exact (requestPaperPause_steers _).behind rfl id
  · exact .same rfl id

/-- A sensor of a fault condition: the pin, and the condition taken when it comes up (R168). -/
theorem sensor_steers {c : FaultCause} (h : c ≠ .noFault) (p : Pins) (v : Bool) (s : State) :
    Steers s (if v then takeCondition c { s with pins := p } else { s with pins := p }) := by
  split
  · exact (takeCondition_steers h _).behind rfl id
  · exact .same rfl id

theorem enterPaused_steers {s : State} (p : s.mc.state = .pausing) : Steers s (enterPaused s) := fun h => by
  obtain ⟨consistent, e⟩ := enterPaused_control ((controlConsistent_iff s).1 h).1 p
  refine ⟨consistent, ?_⟩
  rw [p]
  obtain e | e := e <;> rw [e] <;> decide

theorem drainComplete_steers (s : State) : Steers s (eventWhen drainDue enterPaused s) := by
  unfold eventWhen
  split
  · rename_i due
    simp only [drainDue, Bool.and_eq_true, decide_eq_true_eq] at due
    exact event_steers (enterPaused_steers (s := { s with work := {} }) due.1)
  · exact .refl s

theorem exec_steers (i : Instr) (s : State) : OutcomeSteers s (exec i s) := by
  cases i with
  | attn v ws => exact execAttn_steers v ws s
  | clear v => exact steers_next (chipClear_steers s)
  | powerUp => exact steers_next (chipClear_steers s)
  | registerWriteIgnored o v => exact steers_id s
  | configure a => exact steers_posted1 _ _ s
  | configureComplete => exact execConfigureComplete_steers s
  | start => exact steers_posted0 _ s
  | pause => exact steers_posted0 _ s
  | clearFault => exact steers_posted0 _ s
  | initiate q a => exact steers_posted2 _ _ _ s
  | resume q => exact steers_posted1 _ _ s
  | releaseQueue q => exact steers_posted1 _ _ s
  | withdraw n c => exact steers_posted2 _ _ _ s
  | setLanes m => exact steers_posted1 _ _ s
  | recalibrate => exact steers_posted0 _ s
  | loadPrices a => exact steers_posted1 _ _ s
  | loadPricesComplete => exact execLoadPricesComplete_steers s
  | releaseBin b => exact steers_posted1 _ _ s
  | sectionResetExposure => exact steers_posted1 _ _ s
  | sectionResetCutter => exact steers_posted1 _ _ s
  | sectionResetSorter => exact steers_posted1 _ _ s
  | imageLineReadComplete l => exact execImageLineReadComplete_steers l s
  | leadInStart => exact steers_eventWhen beginLeadIn_steers
  | leadInEnd => exact steers_eventWhen endLeadIn_steers
  | rowStart => exact steers_eventWhen startRow_steers
  | exposureFeedStep => exact steers_eventWhen feedStep_steers
  | rowEnd => exact execRowEnd_steers s
  | calibOrBlankRowEnd => exact execCalibOrBlankRowEnd_steers s
  | headTemperatureSample q => exact execHeadTemperatureSample_steers q s
  | processFeedStep => exact steers_eventWhen processFeed_steers
  | densitometerReading r g b => exact execDensitometerReading_steers r g b s
  | markWindowOpen => exact execMarkWindowOpen_steers s
  | markReport y => exact execMarkReport_steers y s
  | markMissed => exact execMarkMissed_steers s
  | knifeFire => exact execKnifeFire_steers s
  | pieceAtDiverter => exact execPieceAtDiverter_steers s
  | arrival d => exact steers_eventWhen fun u => .same (by simp) (by simp)
  | misrouted => exact execMisrouted_steers s
  | lateExpiry d => exact steers_eventWhen fun u => .same (by simp) (by simp)
  | binWaiting i => exact steers_eventWhen fun u => .same (by simp) (by simp)
  | doorOpen i => exact steers_eventWhen fun u => .same (by simp) (by simp)
  | doorClose i => exact steers_eventWhen fun u => .same (by simp) (by simp)
  | paperEnd v => exact steers_eventWhen (changePaper_steers v)
  | drainComplete => exact steers_next (drainComplete_steers s)
  | lineStopInput v => exact steers_eventWhen fun u => sensor_steers (by decide) _ v u
  | webJamSensor v => exact steers_eventWhen fun u => sensor_steers (by decide) _ v u
  | conveyorJamSensor v => exact steers_eventWhen fun u => sensor_steers (by decide) _ v u
  | lineClockTick => exact steers_quiet (by simp) (by simp)

end Sys2Proof.Machine
end

section
/-! CLAIMS. Machine Control stays consistent, and its states follow the transitions. -/

namespace Sys2Proof.Machine

/-- Settles O56: outside Machine Control's own operations its state stands, and no row ends without its request judged. -/
theorem controlStaysConsistent : Obligations.ControlStaysConsistent := by
  intro s t h g
  unfold step at g
  split at g
  · cases g
    exact h
  · exact (exec_steers _ _ t g (h.congr rfl id)).1

/-- Settles O3, by the transition that each operation of Machine Control makes. -/
theorem machineStateTransitions : Obligations.MachineStateTransitions := fun c s t h g => (exec_steers c s t g h).2

end Sys2Proof.Machine
end

section
/-! SUPPORT. The clock, the positions and paper counts, the configuration, the enables, the balances, the pins and the
waiting commands: what leaves them as they are. -/

namespace Sys2Proof.Machine

/-- What few commands move is as it was. -/
structure Fixed (s t : State) : Prop where
  pending : t.pending = s.pending := by simp
  lineClock : t.cu.lineClock = s.cu.lineClock := by simp
  enables : t.cu.enables = s.cu.enables := by simp
  x : t.wt.x = s.wt.x := by simp
  y : t.wt.y = s.wt.y := by simp
  paperUsed : t.wt.paperUsed = s.wt.paperUsed := by simp
  waste : t.wt.waste = s.wt.waste := by simp
  conf : t.conf = s.conf := by simp
  bal : t.ca.bal = s.ca.bal := by simp
  thetaCal : t.ca.thetaCal = s.ca.thetaCal := by simp
  pins : t.pins = s.pins := by simp

theorem Fixed.refl (s : State) : Fixed s s where

theorem Fixed.trans {s t u : State} (h : Fixed s t) (g : Fixed t u) : Fixed s u where
  pending := g.pending.trans h.pending
  lineClock := g.lineClock.trans h.lineClock
  enables := g.enables.trans h.enables
  x := g.x.trans h.x
  y := g.y.trans h.y
  paperUsed := g.paperUsed.trans h.paperUsed
  waste := g.waste.trans h.waste
  conf := g.conf.trans h.conf
  bal := g.bal.trans h.bal
  thetaCal := g.thetaCal.trans h.thetaCal
  pins := g.pins.trans h.pins

theorem settle_fixed (s : State) : Fixed s (settle s) where

theorem event_fixed {f : State → State} {s : State} (h : Fixed { s with work := {} } (f { s with work := {} })) :
    Fixed s (event f s) :=
  (Fixed.trans (t := { s with work := {} }) {} h).trans (settle_fixed _)

theorem eventWhen_fixed {due : State → Bool} {f : State → State} {s : State} (h : ∀ u, Fixed u (f u)) :
    Fixed s (eventWhen due f s) := by
  unfold eventWhen
  split
  · exact event_fixed (h _)
  · exact .refl s

/-! ## The cell -/

theorem startedFrom_fixed (m : MachineState) (s : State) : Fixed s (startedFrom m s) := by
  unfold startedFrom runningBy
  split <;> exact {}

theorem paperJudged_fixed (s : State) : Fixed s (paperJudged s) := by
  unfold paperJudged
  split <;> exact {}

theorem conditionsJudged_fixed (s : State) : Fixed s (conditionsJudged s) := by
  unfold conditionsJudged
  split <;> exact {}

theorem stageMask_fixed (m : LaneMask) (s : State) : Fixed s (stageMask m s) := by
  unfold stageMask
  dsimp only
  split <;> exact {}

theorem Effect.fixed {s t : State} (h : Effect s t) : Fixed s t := by
  cases h with
  | started => exact (startedFrom_fixed _ s).trans ((paperJudged_fixed _).trans (conditionsJudged_fixed _))
  | staged m => exact stageMask_fixed m s
  | none | reading | pausing | faultLeft | queue | halted | released | withdrawn | withdrawnDeferred | triggered
  | binFreed | exposureReset | cutterReset | sorterReset => exact {}

theorem complete_fixed (code : Nat) (rc : ReplyCode) (data : Nat) (s : State) : Fixed s (complete code rc data s) where

theorem takeCommand_fixed (s : State) : Fixed s (takeCommand s) := by
  unfold takeCommand
  split
  · exact {}
  · rename_i c _
    have h := (runCommand_effect c (cellWord1 s.store) (cellWord2 s.store) s).fixed
    split
    next e => rw [e] at h; exact h.trans (complete_fixed _ _ _ _)
    next e => rw [e] at h; exact h

theorem serve_fixed (s : State) : Fixed s (serve s) := by
  refine Fixed.trans (t := setAttn false s) ?_ ?_
  · unfold setAttn; exact {}
  · unfold serve
    dsimp only
    split
    · exact takeCommand_fixed _
    · exact .refl _

theorem attention_fixed (s : State) : Fixed s (attention s) := by
  rw [attention_eq]
  refine Fixed.trans (t := readSlots (setAttn true s)) ?_ ?_
  · unfold setAttn; exact {}
  · split
    · exact serve_fixed _
    · exact .refl _

theorem stored_fixed (m : Memory) (s : State) : Fixed s { s with store := m } where

theorem posted0_fixed (c : Command) (s : State) : Fixed s (posted0 c s) := (stored_fixed _ s).trans (attention_fixed _)

theorem posted1_fixed (c : Command) (w : Word) (s : State) : Fixed s (posted1 c w s) :=
  (stored_fixed _ s).trans ((stored_fixed _ _).trans (attention_fixed _))

theorem posted2_fixed (c : Command) (w v : Word) (s : State) : Fixed s (posted2 c w v s) :=
  (stored_fixed _ s).trans ((stored_fixed _ _).trans ((stored_fixed _ _).trans (attention_fixed _)))

theorem completeReading_fixed (c : Command) {s : State} {r : ReplyCode × Nat × State} (h : Fixed s r.2.2) :
    Fixed s (completeReading c r) := by
  rw [completeReading_eq]
  refine h.trans ?_
  unfold setAttn
  exact {}

theorem endLoadPrices_fixed (addr : Word) (s : State) : Fixed s (endLoadPrices addr s).2.2 := by
  unfold endLoadPrices
  split
  · exact .refl s
  · exact {}

/-! ## Every command -/

/-- The commands that move the clock, the positions, the configuration, the balances or the pins. -/
inductive LineMover : Instr → Prop
  | clear (v : Word) : LineMover (.clear v)
  | powerUp : LineMover .powerUp
  | tick : LineMover .lineClockTick
  | feedStep : LineMover .exposureFeedStep
  | processFeed : LineMover .processFeedStep
  | configured : LineMover .configureComplete
  | reading (r g b : Nat) : LineMover (.densitometerReading r g b)
  | doorOpen (i : Fin 32) : LineMover (.doorOpen i)
  | doorClose (i : Fin 32) : LineMover (.doorClose i)
  | paperEnd (v : Bool) : LineMover (.paperEnd v)
  | lineStop (v : Bool) : LineMover (.lineStopInput v)
  | webJam (v : Bool) : LineMover (.webJamSensor v)
  | convJam (v : Bool) : LineMover (.conveyorJamSensor v)

/-- An outcome whose next state, if there is one, leaves it fixed. -/
def OutcomeFixed (s : State) (o : Outcome) : Prop := ∀ t, o = .next t → Fixed s t

theorem fixed_next {s t : State} (h : Fixed s t) : OutcomeFixed s (.next t) := by
  rintro _ ⟨⟩
  exact h

theorem fixed_id (s : State) : OutcomeFixed s (.next s) := fixed_next (.refl s)

theorem fixed_event {f : State → State} {s : State} (h : ∀ u, Fixed u (f u)) : OutcomeFixed s (.next (event f s)) :=
  fixed_next (event_fixed (h _))

theorem execAttn_fixed (v : Word) (ws : List HostWrite) (s : State) : OutcomeFixed s (execAttn v ws s) := by
  unfold execAttn
  split
  · exact fixed_event fun u => (stored_fixed _ u).trans (attention_fixed _)
  · rintro _ ⟨⟩

theorem execLoadPricesComplete_fixed (s : State) : OutcomeFixed s (execLoadPricesComplete s) := by
  unfold execLoadPricesComplete
  split
  · exact fixed_event fun u => completeReading_fixed _ (endLoadPrices_fixed _ u)
  · exact fixed_id s

theorem execImageLineReadComplete_fixed (l : Lane) (s : State) : OutcomeFixed s (execImageLineReadComplete l s) := by
  unfold execImageLineReadComplete
  split
  · exact fixed_id s
  · split
    · exact fixed_event fun u => {}
    · rintro _ ⟨⟩

theorem execRowEnd_fixed (s : State) : OutcomeFixed s (execRowEnd s) := by
  unfold execRowEnd
  split
  · split
    · exact fixed_event fun u => {}
    · exact fixed_id s
  · exact fixed_id s

theorem execCalibOrBlankRowEnd_fixed (s : State) : OutcomeFixed s (execCalibOrBlankRowEnd s) := by
  unfold execCalibOrBlankRowEnd
  split
  · split
    · exact fixed_id s
    · exact fixed_event fun u => {}
  · exact fixed_id s

theorem execHeadTemperatureSample_fixed (q : Nat) (s : State) : OutcomeFixed s (execHeadTemperatureSample q s) := by
  unfold execHeadTemperatureSample
  split
  · exact fixed_next (eventWhen_fixed fun u => {})
  · rintro _ ⟨⟩

theorem execMarkWindowOpen_fixed (s : State) : OutcomeFixed s (execMarkWindowOpen s) := by
  unfold execMarkWindowOpen
  split
  · split
    · exact fixed_event fun u => {}
    · exact fixed_id s
  · exact fixed_id s

theorem execMarkReport_fixed (y : Word) (s : State) : OutcomeFixed s (execMarkReport y s) := by
  unfold execMarkReport
  split
  · split
    · exact fixed_event fun u => {}
    · exact fixed_id s
  · exact fixed_id s

theorem execMarkMissed_fixed (s : State) : OutcomeFixed s (execMarkMissed s) := by
  unfold execMarkMissed
  split
  · split
    · exact fixed_event fun u => {}
    · exact fixed_id s
  · exact fixed_id s

theorem execKnifeFire_fixed (s : State) : OutcomeFixed s (execKnifeFire s) := by
  unfold execKnifeFire
  split
  · split
    · exact fixed_event fun u => {}
    · exact fixed_id s
  · exact fixed_id s

theorem execPieceAtDiverter_fixed (s : State) : OutcomeFixed s (execPieceAtDiverter s) := by
  unfold execPieceAtDiverter
  split
  · split
    · exact fixed_event fun u => {}
    · exact fixed_id s
  · exact fixed_id s

theorem execMisrouted_fixed (s : State) : OutcomeFixed s (execMisrouted s) := by
  unfold execMisrouted
  split
  · split
    · exact fixed_event fun u => {}
    · exact fixed_id s
  · exact fixed_id s

theorem exec_fixed {c : Instr} (h : ¬LineMover c) (s : State) : OutcomeFixed s (exec c s) := by
  cases c with
  | attn v ws => exact execAttn_fixed v ws s
  | clear v => exact absurd (.clear v) h
  | powerUp => exact absurd .powerUp h
  | registerWriteIgnored o v => exact fixed_id s
  | configure a => exact fixed_event (posted1_fixed _ _)
  | configureComplete => exact absurd .configured h
  | start => exact fixed_event (posted0_fixed _)
  | pause => exact fixed_event (posted0_fixed _)
  | clearFault => exact fixed_event (posted0_fixed _)
  | initiate q a => exact fixed_event (posted2_fixed _ _ _)
  | resume q => exact fixed_event (posted1_fixed _ _)
  | releaseQueue q => exact fixed_event (posted1_fixed _ _)
  | withdraw n c => exact fixed_event (posted2_fixed _ _ _)
  | setLanes m => exact fixed_event (posted1_fixed _ _)
  | recalibrate => exact fixed_event (posted0_fixed _)
  | loadPrices a => exact fixed_event (posted1_fixed _ _)
  | loadPricesComplete => exact execLoadPricesComplete_fixed s
  | releaseBin b => exact fixed_event (posted1_fixed _ _)
  | sectionResetExposure => exact fixed_event (posted1_fixed _ _)
  | sectionResetCutter => exact fixed_event (posted1_fixed _ _)
  | sectionResetSorter => exact fixed_event (posted1_fixed _ _)
  | imageLineReadComplete l => exact execImageLineReadComplete_fixed l s
  | leadInStart => exact fixed_next (eventWhen_fixed fun u => {})
  | leadInEnd => exact fixed_next (eventWhen_fixed fun u => {})
  | rowStart => exact fixed_next (eventWhen_fixed fun u => {})
  | exposureFeedStep => exact absurd .feedStep h
  | rowEnd => exact execRowEnd_fixed s
  | calibOrBlankRowEnd => exact execCalibOrBlankRowEnd_fixed s
  | headTemperatureSample q => exact execHeadTemperatureSample_fixed q s
  | processFeedStep => exact absurd .processFeed h
  | densitometerReading r g b => exact absurd (.reading r g b) h
  | markWindowOpen => exact execMarkWindowOpen_fixed s
  | markReport y => exact execMarkReport_fixed y s
  | markMissed => exact execMarkMissed_fixed s
  | knifeFire => exact execKnifeFire_fixed s
  | pieceAtDiverter => exact execPieceAtDiverter_fixed s
  | arrival d => exact fixed_next (eventWhen_fixed fun u => {})
  | misrouted => exact execMisrouted_fixed s
  | lateExpiry d => exact fixed_next (eventWhen_fixed fun u => {})
  | binWaiting i => exact fixed_next (eventWhen_fixed fun u => {})
  | doorOpen i => exact absurd (.doorOpen i) h
  | doorClose i => exact absurd (.doorClose i) h
  | paperEnd v => exact absurd (.paperEnd v) h
  | drainComplete => exact fixed_next (eventWhen_fixed fun u => {})
  | lineStopInput v => exact absurd (.lineStop v) h
  | webJamSensor v => exact absurd (.webJam v) h
  | conveyorJamSensor v => exact absurd (.convJam v) h
  | lineClockTick => exact absurd .tick h

/-! ## The commands that move something -/

/-- An event that moves the pins alone. -/
theorem pinEvent_fixed {due : State → Bool} {f : State → State} {s : State}
    (h : ∀ u, Fixed { u with pins := (f u).pins } (f u)) :
    Fixed { s with pins := (eventWhen due f s).pins } (eventWhen due f s) := by
  unfold eventWhen
  split
  · have pins : (event f s).pins = (f { s with work := {} }).pins := by simp [event]
    rw [pins]
    exact (Fixed.trans {} (h { s with work := {} })).trans (settle_fixed _)
  · exact .refl s

/-- The exposure feed moves X and the paper count by one, or nothing exposes (R94, R105). -/
theorem feedStep_moves (u : State) :
    ((feedStep u).wt.x = u.wt.x ∧ (feedStep u).wt.paperUsed = u.wt.paperUsed ∧ (feedStep u).wt.waste = u.wt.waste) ∨
      ((feedStep u).wt.x = u.wt.x + 1 ∧ (feedStep u).wt.paperUsed = u.wt.paperUsed + 1) := by
  unfold feedStep
  split
  · exact .inr ⟨rfl, rfl⟩
  · right; simp [exposeLine, advanceX]
  · exact .inl ⟨rfl, rfl, rfl⟩

theorem advanceY_moves (u : State) : (advanceY u).wt.y = u.wt.y ∨ (advanceY u).wt.y = u.wt.y + 1 := by
  rw [advanceY_eq]
  split
  · exact .inl rfl
  · right; simp [yMoved]

theorem blocksWritten_fixed (first : Bool) (s : State) : Fixed s (blocksWritten first s) := by
  unfold blocksWritten
  split
  · exact {}
  · exact .refl s

theorem conveyorStarted_fixed (left : Bool) (s : State) : Fixed s (conveyorStarted left s) := by
  unfold conveyorStarted
  split
  · exact {}
  · exact .refl s

theorem reexamined_fixed (s : State) : Fixed s (askStatus (reexamineAll s)) where

/-- What the configuration, the enables and the calibration state may differ in. -/
def reconfigured (s t : State) : State :=
  { s with conf := t.conf, cu := { s.cu with enables := t.cu.enables }, ca := t.ca }

theorem installConfigure_fixed (addr : Word) (u : State) :
    Fixed (reconfigured u (installConfigure addr u)) (installConfigure addr u) := by
  have h : Fixed (configured addr u) (installConfigure addr u) := by
    rw [installConfigure_eq]
    exact (conveyorStarted_fixed _ _).trans ((blocksWritten_fixed _ _).trans (reexamined_fixed _))
  generalize installConfigure addr u = t at h
  unfold configured judgeLine at h
  unfold reconfigured
  exact { pending := h.pending, lineClock := h.lineClock, enables := rfl, x := h.x, y := h.y, paperUsed := h.paperUsed,
          waste := h.waste, conf := rfl, bal := rfl, thetaCal := rfl, pins := h.pins }

/-- CONFIGURE's completion moves the configuration, the enables and the calibration state alone. -/
theorem endConfigure_fixed (addr : Word) (u : State) :
    Fixed (reconfigured u (endConfigure addr u).2.2) (endConfigure addr u).2.2 := by
  unfold endConfigure
  split
  · exact .refl u
  · split
    · exact installConfigure_fixed addr u
    · exact .refl u

theorem configureComplete_fixed {s t : State} (h : exec .configureComplete s = .next t) : Fixed (reconfigured s t) t := by
  change execConfigureComplete s = .next t at h
  unfold execConfigureComplete at h
  split at h
  · rename_i addr _
    cases h
    have done := endConfigure_fixed addr { s with work := {} }
    have e : event (fun t => completeReading .configure (endConfigure addr t)) s =
        settle (setAttn false (complete 1 (endConfigure addr { s with work := {} }).1
          (endConfigure addr { s with work := {} }).2.1 (endConfigure addr { s with work := {} }).2.2)) := by
      rw [event, completeReading_eq]
      rfl
    rw [e]
    generalize (endConfigure addr { s with work := {} }) = r at done
    have rest : Fixed r.2.2 (settle (setAttn false (complete 1 r.1 r.2.1 r.2.2))) := by
      refine Fixed.trans ?_ (settle_fixed _)
      unfold setAttn
      exact {}
    exact { pending := rest.pending.trans done.pending, lineClock := rest.lineClock.trans done.lineClock, enables := rfl,
            x := rest.x.trans done.x, y := rest.y.trans done.y, paperUsed := rest.paperUsed.trans done.paperUsed,
            waste := rest.waste.trans done.waste, conf := rfl, bal := rfl, thetaCal := rfl,
            pins := rest.pins.trans done.pins }
  · cases h
    exact .refl s

/-! What each of the commands that move something leaves as it was. -/

section
variable {s t : State}

theorem doorOpen_fixed {i : Fin 32} (h : exec (.doorOpen i) s = .next t) : Fixed { s with pins := t.pins } t := by
  cases h
  exact pinEvent_fixed fun u => {}

theorem doorClose_fixed {i : Fin 32} (h : exec (.doorClose i) s = .next t) : Fixed { s with pins := t.pins } t := by
  cases h
  exact pinEvent_fixed fun u => {}

theorem paperEnd_fixed {v : Bool} (h : exec (.paperEnd v) s = .next t) : Fixed { s with pins := t.pins } t := by
  cases h
  exact pinEvent_fixed fun u => {}

theorem lineStopInput_fixed {v : Bool} (h : exec (.lineStopInput v) s = .next t) : Fixed { s with pins := t.pins } t := by
  cases h
  exact pinEvent_fixed fun u => {}

theorem webJamSensor_fixed {v : Bool} (h : exec (.webJamSensor v) s = .next t) : Fixed { s with pins := t.pins } t := by
  cases h
  exact pinEvent_fixed fun u => {}

theorem conveyorJamSensor_fixed {v : Bool} (h : exec (.conveyorJamSensor v) s = .next t) :
    Fixed { s with pins := t.pins } t := by
  cases h
  exact pinEvent_fixed fun u => {}

theorem lineClockTick_fixed (h : exec .lineClockTick s = .next t) :
    Fixed { s with cu := { s.cu with lineClock := s.cu.lineClock + 1 } } t := by
  cases h
  exact (Fixed.trans (t := tick { s with work := {} }) (by unfold tick; exact {}) (settle_fixed _))

/-- The positions and paper counts are those of another state. -/
def fedAs (s t : State) : State :=
  { s with wt := { s.wt with x := t.wt.x, y := t.wt.y, paperUsed := t.wt.paperUsed, waste := t.wt.waste } }

theorem exposureFeedStep_fixed (h : exec .exposureFeedStep s = .next t) :
    Fixed (fedAs s t) t ∧ t.wt.y = s.wt.y ∧
      (t.wt.x = s.wt.x ∧ t.wt.paperUsed = s.wt.paperUsed ∧ t.wt.waste = s.wt.waste ∨
        t.wt.x = s.wt.x + 1 ∧ t.wt.paperUsed = s.wt.paperUsed + 1) := by
  cases h
  unfold eventWhen
  split
  · have moves := feedStep_moves { s with work := {} }
    refine ⟨?_, by simp [event], by simpa [event] using moves⟩
    unfold fedAs event
    exact {}
  · exact ⟨.refl s, rfl, .inl ⟨rfl, rfl, rfl⟩⟩

theorem processFeedStep_fixed (h : exec .processFeedStep s = .next t) :
    Fixed (fedAs s t) t ∧ (t.wt.y = s.wt.y ∨ t.wt.y = s.wt.y + 1) ∧
      t.wt.x = s.wt.x ∧ t.wt.paperUsed = s.wt.paperUsed ∧ t.wt.waste = s.wt.waste := by
  cases h
  unfold eventWhen
  split
  · have moves := advanceY_moves { s with work := {} }
    refine ⟨?_, by simpa [event] using moves, by simp [event]⟩
    unfold fedAs event
    exact {}
  · exact ⟨.refl s, .inl rfl, rfl, rfl, rfl⟩

theorem densitometerReading_fixed {r g b : Nat} (h : exec (.densitometerReading r g b) s = .next t) :
    Fixed { s with ca := t.ca } t := by
  change execDensitometerReading r g b s = .next t at h
  unfold execDensitometerReading at h
  split at h
  · split at h
    · cases h
      unfold event
      exact {}
    · cases h
      exact .refl s
  · cases h

theorem chipClear_pending (s : State) : (chipClear s).pending = s.pending ∧ (chipClear s).cu.lineClock = 0 := ⟨rfl, rfl⟩

end

/-- The line clock after a command (R175). -/
def clockAfter (s : State) : Instr → Word
  | .clear _ | .powerUp => 0
  | .lineClockTick => s.cu.lineClock + 1
  | _ => s.cu.lineClock

/-- The clock and the waiting commands after a command. -/
theorem exec_clock {c : Instr} {s t : State} (h : exec c s = .next t) :
    t.pending = s.pending ∧ t.cu.lineClock = clockAfter s c := by
  by_cases mover : LineMover c
  · cases mover with
    | clear => cases h; exact chipClear_pending s
    | powerUp => cases h; exact chipClear_pending s
    | tick => exact ⟨(lineClockTick_fixed h).pending, (lineClockTick_fixed h).lineClock⟩
    | feedStep => exact ⟨(exposureFeedStep_fixed h).1.pending, (exposureFeedStep_fixed h).1.lineClock⟩
    | processFeed => exact ⟨(processFeedStep_fixed h).1.pending, (processFeedStep_fixed h).1.lineClock⟩
    | configured => exact ⟨(configureComplete_fixed h).pending, (configureComplete_fixed h).lineClock⟩
    | reading => exact ⟨(densitometerReading_fixed h).pending, (densitometerReading_fixed h).lineClock⟩
    | doorOpen => exact ⟨(doorOpen_fixed h).pending, (doorOpen_fixed h).lineClock⟩
    | doorClose => exact ⟨(doorClose_fixed h).pending, (doorClose_fixed h).lineClock⟩
    | paperEnd => exact ⟨(paperEnd_fixed h).pending, (paperEnd_fixed h).lineClock⟩
    | lineStop => exact ⟨(lineStopInput_fixed h).pending, (lineStopInput_fixed h).lineClock⟩
    | webJam => exact ⟨(webJamSensor_fixed h).pending, (webJamSensor_fixed h).lineClock⟩
    | convJam => exact ⟨(conveyorJamSensor_fixed h).pending, (conveyorJamSensor_fixed h).lineClock⟩
  · have fixed := exec_fixed mover s t h
    refine ⟨fixed.pending, ?_⟩
    cases c with
    | clear v => exact absurd (.clear v) mover
    | powerUp => exact absurd .powerUp mover
    | lineClockTick => exact absurd .tick mover
    | _ => exact fixed.lineClock

/-- What O2 says of the positions, the configuration, the balances and the pins. -/
def LineMoves (c : Instr) (s t : State) : Prop :=
  (t.wt.x = s.wt.x ∧ t.wt.paperUsed = s.wt.paperUsed ∧ t.wt.waste = s.wt.waste ∨
    c = .exposureFeedStep ∧ t.wt.x = s.wt.x + 1 ∧ t.wt.paperUsed = s.wt.paperUsed + 1) ∧
  (t.wt.y = s.wt.y ∨ c = .processFeedStep ∧ t.wt.y = s.wt.y + 1) ∧
  (t.conf = s.conf ∧ t.cu.enables = s.cu.enables ∨ c = .configureComplete) ∧
  (t.ca.bal = s.ca.bal ∧ t.ca.thetaCal = s.ca.thetaCal ∨ c = .configureComplete ∨
    ∃ r g b, c = .densitometerReading r g b) ∧
  (t.pins = s.pins ∨ (∃ i, c = .doorOpen i ∨ c = .doorClose i) ∨
    ∃ v, c = .paperEnd v ∨ c = .lineStopInput v ∨ c = .webJamSensor v ∨ c = .conveyorJamSensor v)

/-- Nothing of it moves but what the command itself names. -/
theorem LineMoves.of_fixed {c : Instr} {s t : State}
    (conf : t.conf = s.conf ∧ t.cu.enables = s.cu.enables ∨ c = .configureComplete)
    (x : t.wt.x = s.wt.x) (used : t.wt.paperUsed = s.wt.paperUsed) (waste : t.wt.waste = s.wt.waste) (y : t.wt.y = s.wt.y)
    (bal : t.ca.bal = s.ca.bal ∧ t.ca.thetaCal = s.ca.thetaCal ∨ c = .configureComplete ∨
      ∃ r g b, c = .densitometerReading r g b)
    (pins : t.pins = s.pins ∨ (∃ i, c = .doorOpen i ∨ c = .doorClose i) ∨
      ∃ v, c = .paperEnd v ∨ c = .lineStopInput v ∨ c = .webJamSensor v ∨ c = .conveyorJamSensor v) : LineMoves c s t :=
  ⟨Or.inl ⟨x, used, waste⟩, Or.inl y, conf, bal, pins⟩

/-- A command of a sensor that moves its pin. -/
theorem LineMoves.of_pins {c : Instr} {s t : State} (h : Fixed { s with pins := t.pins } t)
    (c' : (∃ i, c = .doorOpen i ∨ c = .doorClose i) ∨
      ∃ v, c = .paperEnd v ∨ c = .lineStopInput v ∨ c = .webJamSensor v ∨ c = .conveyorJamSensor v) : LineMoves c s t :=
  .of_fixed (Or.inl ⟨h.conf, h.enables⟩) h.x h.paperUsed h.waste h.y (Or.inl ⟨h.bal, h.thetaCal⟩) (Or.inr c')

theorem exec_lineMoves {c : Instr} {s t : State} (h : exec c s = .next t) (clear : ∀ v, c ≠ .clear v)
    (power : c ≠ .powerUp) : LineMoves c s t := by
  by_cases mover : LineMover c
  · cases mover with
    | clear v => exact absurd rfl (clear v)
    | powerUp => exact absurd rfl power
    | tick =>
      have f := lineClockTick_fixed h
      exact .of_fixed (Or.inl ⟨f.conf, f.enables⟩) f.x f.paperUsed f.waste f.y (Or.inl ⟨f.bal, f.thetaCal⟩) (Or.inl f.pins)
    | feedStep =>
      obtain ⟨f, y, moves⟩ := exposureFeedStep_fixed h
      refine ⟨moves.imp_right fun m => ⟨rfl, m⟩, Or.inl y, Or.inl ⟨f.conf, f.enables⟩, Or.inl ⟨f.bal, f.thetaCal⟩,
        Or.inl f.pins⟩
    | processFeed =>
      obtain ⟨f, moves, x⟩ := processFeedStep_fixed h
      exact ⟨Or.inl x, moves.imp_right fun m => ⟨rfl, m⟩, Or.inl ⟨f.conf, f.enables⟩, Or.inl ⟨f.bal, f.thetaCal⟩,
        Or.inl f.pins⟩
    | configured =>
      have f := configureComplete_fixed h
      exact .of_fixed (Or.inr rfl) f.x f.paperUsed f.waste f.y (Or.inr (Or.inl rfl)) (Or.inl f.pins)
    | reading r g b =>
      have f := densitometerReading_fixed h
      exact .of_fixed (Or.inl ⟨f.conf, f.enables⟩) f.x f.paperUsed f.waste f.y (Or.inr (Or.inr ⟨r, g, b, rfl⟩))
        (Or.inl f.pins)
    | doorOpen i => exact .of_pins (doorOpen_fixed h) (Or.inl ⟨i, Or.inl rfl⟩)
    | doorClose i => exact .of_pins (doorClose_fixed h) (Or.inl ⟨i, Or.inr rfl⟩)
    | paperEnd v => exact .of_pins (paperEnd_fixed h) (Or.inr ⟨v, Or.inl rfl⟩)
    | lineStop v => exact .of_pins (lineStopInput_fixed h) (Or.inr ⟨v, Or.inr (Or.inl rfl)⟩)
    | webJam v => exact .of_pins (webJamSensor_fixed h) (Or.inr ⟨v, Or.inr (Or.inr (Or.inl rfl))⟩)
    | convJam v => exact .of_pins (conveyorJamSensor_fixed h) (Or.inr ⟨v, Or.inr (Or.inr (Or.inr rfl))⟩)
  · have f := exec_fixed mover s t h
    exact .of_fixed (Or.inl ⟨f.conf, f.enables⟩) f.x f.paperUsed f.waste f.y (Or.inl ⟨f.bal, f.thetaCal⟩) (Or.inl f.pins)

end Sys2Proof.Machine
end

section
/-! CLAIMS. What moves the clock, the positions, the configuration, the balances and the pins. -/

namespace Sys2Proof.Machine

/-- Settles O2: for each command either nothing of it moves or the command is one of those that move their own part. -/
theorem whatMovesWhat : Obligations.WhatMovesWhat :=
  ⟨fun _ _ _ h => exec_clock h, fun _ _ _ h clear power => exec_lineMoves h clear power⟩

end Sys2Proof.Machine
end

section
/-! SUPPORT. The cell and the notice slots at an attention, and what a command posted to an idle or a busy cell comes to
(R176 to R178, R183). -/

namespace Sys2Proof.Machine

/-! ## The slots at an attention -/

theorem freeSlot_busy {k : NoticeClass} {s : State} (h : Memory.read32 s.store k.slotAddr ≠ 0) : freeSlot k s = s :=
  if_neg (by simp [h])

theorem freeSlot_get_ne {j k : NoticeClass} (h : k ≠ j) (s : State) :
    (freeSlot j s).cu.classes.get k = s.cu.classes.get k := by
  obtain e | ⟨-, classes⟩ := freeSlot_classes j s
  · rw [e]
  · rw [classes, PerClass.get_set_ne _ _ h]

theorem slotAddr_apart {j k : NoticeClass} (h : k ≠ j) : k.slotAddr + 16 ≤ j.slotAddr ∨ j.slotAddr + 16 ≤ k.slotAddr := by
  cases j <;> cases k <;> first | exact absurd rfl h | decide

theorem freeSlot_word_ne {j k : NoticeClass} (h : k ≠ j) (s : State) :
    Memory.read32 (freeSlot j s).store k.slotAddr = Memory.read32 s.store k.slotAddr :=
  Memory.read32_congr fun a _ _ => freeSlot_read j s (by have := slotAddr_apart h; omega)

/-- A class whose slot is not free is as it was after one slot is read. -/
theorem freeSlot_kept (j : NoticeClass) {k : NoticeClass} {s : State} (h : Memory.read32 s.store k.slotAddr ≠ 0) :
    (freeSlot j s).cu.classes.get k = s.cu.classes.get k ∧ Memory.read32 (freeSlot j s).store k.slotAddr ≠ 0 := by
  by_cases e : k = j
  · subst e
    rw [freeSlot_busy h]
    exact ⟨rfl, h⟩
  · rw [freeSlot_word_ne e]
    exact ⟨freeSlot_get_ne e s, h⟩

theorem readSlots_kept {k : NoticeClass} {s : State} (h : Memory.read32 s.store k.slotAddr ≠ 0) :
    (readSlots s).cu.classes.get k = s.cu.classes.get k := by
  obtain ⟨a, ha⟩ := freeSlot_kept .a h
  obtain ⟨b, hb⟩ := freeSlot_kept .b ha
  rw [readSlots, (freeSlot_kept .c hb).1, b, a]

/-! ## The state a command is taken in -/

/-- Stores of the host in the cell ahead of an attention. -/
structure CellWritten (s u : State) : Prop where
  rest : u = { s with store := u.store, work := {} }
  wf : Memory.wf u.store
  read : ∀ a, ¬inCell a → Memory.read u.store a = Memory.read s.store a

theorem CellWritten.idle {s : State} (h : StoreCanonical s) : CellWritten s { s with work := {} } := ⟨rfl, h, fun _ _ => rfl⟩

theorem CellWritten.word0 {s u : State} (h : CellWritten s u) (c : Command) : CellWritten s (postWord0 c u) := by
  obtain ⟨rest, wf, read⟩ := h
  refine ⟨?_, postWord0_wf c wf, fun a ha => ?_⟩
  · rw [postWord0, rest]
  · rw [postWord0, Memory.write32, Memory.read_writeNat _ _ _ (by simp only [inCell] at ha; omega), read a ha]

theorem CellWritten.word1 {s u : State} (h : CellWritten s u) (w : Word) : CellWritten s (postWord1 w u) := by
  obtain ⟨rest, wf, read⟩ := h
  refine ⟨?_, postWord1_wf w wf, fun a ha => ?_⟩
  · rw [postWord1, rest]
  · rw [postWord1, Memory.writeWord, Memory.read_writeNat _ _ _ (by simp only [inCell] at ha; omega), read a ha]

theorem CellWritten.word2 {s u : State} (h : CellWritten s u) (w : Word) : CellWritten s (postWord2 w u) := by
  obtain ⟨rest, wf, read⟩ := h
  refine ⟨?_, postWord2_wf w wf, fun a ha => ?_⟩
  · rw [postWord2, rest]
  · rw [postWord2, Memory.writeWord, Memory.read_writeNat _ _ _ (by simp only [inCell] at ha; omega), read a ha]

theorem NoticeClass.slot_beyond_cell (k : NoticeClass) : 16 ≤ k.slotAddr := by
  have := k.slotAddr_bounds
  omega

/-- The attention after stores in the cell changes notice slots and their classes alone. -/
theorem CellWritten.attends {s u : State} (h : CellWritten s u) : onlyAttended s (attended u) := by
  obtain ⟨rest, wf, read⟩ := h
  have kept := readSlots_frame u
  refine ⟨?_, ?_, ?_, ?_, ?_, ?_, ?_, ?_, ?_, ?_, ?_, ?_, ?_, ?_, ?_, ?_, attended_wf wf, fun a ha => ?_⟩
  case refine_17 =>
    rw [attended_read u (fun g => ha (.inr g)), read a fun g => ha (.inl g)]
  all_goals
    rw [rest]
    simp [attended]

theorem CellWritten.classes_kept {s u : State} (h : CellWritten s u) (k : NoticeClass)
    (busy : Memory.read32 s.store k.slotAddr ≠ 0) : (attended u).cu.classes.get k = s.cu.classes.get k := by
  obtain ⟨rest, wf, read⟩ := h
  have beyond := k.slot_beyond_cell
  have word : Memory.read32 u.store k.slotAddr = Memory.read32 s.store k.slotAddr :=
    Memory.read32_congr fun a ha _ => read a (by simp only [inCell]; omega)
  have cu : u.cu = s.cu := by rw [rest]
  change (readSlots u).cu.classes.get k = _
  rw [readSlots_kept (by rwa [word]), cu]

theorem CellWritten.of_offered0 (c : Command) {s : State} (h : StoreCanonical s) :
    CellWritten s (postWord0 c { s with work := {} }) := (CellWritten.idle h).word0 c

theorem CellWritten.of_offered1 (c : Command) (w : Word) {s : State} (h : StoreCanonical s) :
    CellWritten s (postWord0 c (postWord1 w { s with work := {} })) := ((CellWritten.idle h).word1 w).word0 c

theorem CellWritten.of_offered2 (c : Command) (w v : Word) {s : State} (h : StoreCanonical s) :
    CellWritten s (postWord0 c (postWord2 v (postWord1 w { s with work := {} }))) :=
  (((CellWritten.idle h).word1 w).word2 v).word0 c

/-- The operand words stand in the cell the command is taken from. -/
theorem attended_postWord0_cellWord1 (c : Command) (s : State) :
    cellWord1 (attended (postWord0 c s)).store = cellWord1 s.store :=
  (attended_readWord _ (by omega)).trans (postWord0_readWord c s (by omega))

theorem attended_postWord0_cellWord2 (c : Command) (s : State) :
    cellWord2 (attended (postWord0 c s)).store = cellWord2 s.store :=
  (attended_readWord _ (by omega)).trans (postWord0_readWord c s (by omega))

theorem event_posted0 (c : Command) {s : State} (h : StoreCanonical s) (idle : s.cu.job = none) :
    event (posted0 c) s =
      settle (answered c (runCommand c (cellWord1 s.store) (cellWord2 s.store) (offered0 c s))) := by
  rw [event, posted0, attention_postWord0 c (s := { s with work := {} }) h idle]
  rfl

/-! ## A busy cell -/

theorem onlyAttended.waits {s u : State} (h : onlyAttended s u) : onlyAttended s { setAttn true u with ee := s.ee } := by
  obtain ⟨job, clock, enables, om, rc, -, rest⟩ := h
  exact ⟨job, clock, enables, om, rc, rfl, rest⟩

/-- Stores in the cell and an attention at a busy cell leave line reads to begin and the attention waiting. -/
theorem CellWritten.busy {s u : State} (h : CellWritten s u) (busy : s.cu.job ≠ none) :
    (settle (attention u)).cu.attnPending = true ∧ onlyAttended s { settle (attention u) with ee := s.ee } ∧
      (settle (attention u)).ee = (startReads s).ee := by
  have only := h.attends
  obtain ⟨-, -, -, -, rc, ee, -, -, -, -, -, -, -, -, -, work, -⟩ := only
  rw [attention_busy u (by rw [h.rest]; exact busy), settle_idle (setAttn true (attended u)) work]
  refine ⟨by simp [setAttn], ?_, startReads_congr (t := setAttn true (attended u)) ee rc⟩
  rw [startReads_shape]
  exact h.attends.waits

/-- A command posted to a busy cell: its event, by the row that posts it. -/
theorem exec_posted_busy {i : Instr} {c : Command} {s : State} (h : StoreCanonical s) (p : postedBy i = some c) :
    ∃ u, CellWritten s u ∧ exec i s = .next (settle (attention u)) := by
  cases i with
  | configure a => exact ⟨_, .of_offered1 .configure a h, rfl⟩
  | start => exact ⟨_, .of_offered0 .start h, rfl⟩
  | pause => exact ⟨_, .of_offered0 .pause h, rfl⟩
  | clearFault => exact ⟨_, .of_offered0 .clearFault h, rfl⟩
  | initiate q a => exact ⟨_, .of_offered2 .initiate q a h, rfl⟩
  | resume q => exact ⟨_, .of_offered1 .resume q h, rfl⟩
  | releaseQueue q => exact ⟨_, .of_offered1 .releaseQueue q h, rfl⟩
  | withdraw n f => exact ⟨_, .of_offered2 .withdraw n f h, rfl⟩
  | setLanes m => exact ⟨_, .of_offered1 .setLanes m h, rfl⟩
  | recalibrate => exact ⟨_, .of_offered0 .recalibrate h, rfl⟩
  | loadPrices a => exact ⟨_, .of_offered1 .loadPrices a h, rfl⟩
  | releaseBin b => exact ⟨_, .of_offered1 .releaseBin b h, rfl⟩
  | sectionResetExposure => exact ⟨_, .of_offered1 .sectionReset 1 h, rfl⟩
  | sectionResetCutter => exact ⟨_, .of_offered1 .sectionReset 2 h, rfl⟩
  | sectionResetSorter => exact ⟨_, .of_offered1 .sectionReset 3 h, rfl⟩
  | _ => cases p

end Sys2Proof.Machine
end

section
/-! CLAIMS. The front of the queue, the invariants at reset, and the command cell. -/

namespace Sys2Proof.Machine

/-- Settles O1: it is how a step is defined. -/
theorem stepTakesFrontCommand : Obligations.StepTakesFrontCommand := fun _ _ _ => ⟨rfl, rfl⟩

/-- Settles O60: chip clear gives every invariant, and the empty store is canonical. -/
theorem invariantsAtReset : Obligations.InvariantsAtReset := by
  have canonical : StoreCanonical State.reset := ⟨List.Pairwise.nil, by simp [State.reset]⟩
  refine ⟨canonical, ?_, ?_, ?_, ?_, ?_, rfl⟩
  · exact ControlSettled.consistent ⟨by simp [State.reset], by simp [State.reset], by simp [State.reset],
      by simp [State.reset]⟩ rfl
  · exact (noticesOk_iff _).2 ⟨fun k => by cases k <;> exact emptyClass_ok _, rfl⟩
  · refine ⟨Nat.zero_le _, Nat.zero_le _, Nat.zero_le _, Nat.zero_le _, fun d => ?_, Nat.zero_le _, Nat.zero_le _,
      fun l => by cases l <;> exact Nat.zero_le _⟩
    simp [State.reset]
  · exact ⟨by simp [State.reset], by simp [State.reset]⟩
  · exact ⟨fun i => by simp [State.reset], rfl⟩

/-- Settles O4: the words posted stand in the cell after the attention, and nothing but slots is read meanwhile. -/
theorem postedCommandTaken : Obligations.PostedCommandTaken := by
  refine ⟨fun s h idle => ?_, fun c w v s h => ⟨?_, ?_, ?_⟩⟩
  · have one (c : Command) (w : Word) := congrArg (Host.Outcome.next (φ := Fault) (ρ := Refusal))
      (event_posted1 c w h idle)
    have none (c : Command) := congrArg (Host.Outcome.next (φ := Fault) (ρ := Refusal)) (event_posted0 c h idle)
    have two (c : Command) (w v : Word) := congrArg (Host.Outcome.next (φ := Fault) (ρ := Refusal))
      (event_posted2 c w v h idle)
    exact ⟨one .configure, none .start, none .pause, none .clearFault, two .initiate, one .resume, one .releaseQueue,
      two .withdraw, one .setLanes, none .recalibrate, one .loadPrices, one .releaseBin, one .sectionReset 1,
      one .sectionReset 2, one .sectionReset 3⟩
  · have written := CellWritten.of_offered2 c w v h
    have h1 : Memory.wf (postWord1 w { s with work := {} }).store := postWord1_wf w h
    refine ⟨written.attends, rfl, cellPosted_attended_postWord0 c (postWord2_wf v h1),
      cellCode_attended_postWord0 c (postWord2_wf v h1), ?_, ?_, written.classes_kept⟩
    · rw [offered2, attended_postWord0_cellWord1, postWord2_cellWord1]
      exact postWord1_cellWord1 w h
    · rw [offered2, attended_postWord0_cellWord2]
      exact postWord2_cellWord2 v h1
  · have written := CellWritten.of_offered1 c w h
    have h1 : Memory.wf (postWord1 w { s with work := {} }).store := postWord1_wf w h
    refine ⟨written.attends, rfl, cellPosted_attended_postWord0 c h1, cellCode_attended_postWord0 c h1, ?_,
      written.classes_kept⟩
    rw [offered1, attended_postWord0_cellWord1]
    exact postWord1_cellWord1 w h
  · have written := CellWritten.of_offered0 c h
    exact ⟨written.attends, rfl, cellPosted_attended_postWord0 c h, cellCode_attended_postWord0 c h,
      written.classes_kept⟩

/-- Settles O5: at a busy cell the attention waits, and a completion writes the reply and the marker. -/
theorem cellAnswersOrWaits : Obligations.CellAnswersOrWaits := by
  refine ⟨fun i c j s h job p => ?_, fun c rc data u h hd attn work => ?_⟩
  · obtain ⟨u, written, run⟩ := exec_posted_busy h p
    obtain ⟨attn, only, ee⟩ := written.busy (by simp [job])
    exact ⟨_, run, attn, only, ee⟩
  · intro t
    obtain ⟨reply, marker, kept⟩ := complete_words c rc data h hd
    have e : t = startReads (complete c.code rc data u) := settle_idle _ work
    have store : t.store = (complete c.code rc data u).store := by rw [e, startReads_shape]
    refine ⟨?_, fun a ha => ?_, ?_⟩
    · unfold answeredWith
      rw [store]
      exact ⟨reply, marker, by rw [e]; simp; rfl, by rw [e]; simpa using attn⟩
    · rw [store, kept a (by simp only [inCell] at ha; omega)]
    · rw [store, ← startReads_congr (s := u) (t := complete c.code rc data u) rfl rfl, e, startReads_shape]
      rfl

end Sys2Proof.Machine
end

section
/-! SUPPORT. Notices raised, line reads, control blocks, and RELEASE_QUEUE (R181, R71, R3, R12). -/

namespace Sys2Proof.Machine

/-! ## A notice raised -/

theorem markMore_concat (l : List Notice) (n : Notice) : markMore (l ++ [n]) = l ++ [{ n with more := true }] := by
  induction l with
  | nil => rfl
  | cons m l ih =>
    rw [List.cons_append, markMore, ih, List.cons_append]
    simp

section
variable {c : Cause} {w : Word} {s : State}

/-- Some notice of the class has the cause and the subject. -/
theorem news_mem_iff (k : ClassState) :
    (noticeOf c w s).news ∈ (k.posted.toList ++ k.held).map Notice.news ↔
      ∃ m ∈ k.posted.toList ++ k.held, m.cause = c ∧ m.subject = w := by
  simp only [List.mem_map, Notice.news, noticeOf, Prod.mk.injEq]

theorem post_merged (h : (noticeOf c w s).news ∈ ((s.cu.classes.get c.cls).posted.toList ++
    (s.cu.classes.get c.cls).held).map Notice.news) : post c w s = s :=
  if_pos ((alike_any_iff _ _).2 h)

theorem post_new (h : (noticeOf c w s).news ∉ ((s.cu.classes.get c.cls).posted.toList ++
    (s.cu.classes.get c.cls).held).map Notice.news) :
    post c w s =
      if !(s.cu.classes.get c.cls).occupied then occupy c.cls (noticeOf c w s) (s.cu.classes.get c.cls).held s
      else
        let held := if (s.cu.classes.get c.cls).held.length < Config.heldCap then
          (s.cu.classes.get c.cls).held ++ [noticeOf c w s] else markMore (s.cu.classes.get c.cls).held
        { s with
          cu := { s.cu with classes := s.cu.classes.set c.cls { s.cu.classes.get c.cls with held := held } } } :=
  if_neg (mt (alike_any_iff _ _).1 h)

end

/-- A notice in its slot: the slot's words, the class and the line (R188, R184). -/
theorem occupy_words (k : NoticeClass) (n : Notice) (held : List Notice) {s : State} (h : StoreCanonical s) :
    let t := occupy k n held s
    t = { s with
      cu := { s.cu with classes := s.cu.classes.set k { posted := some n, held := held }, irq := t.cu.lineLevel }
      store := t.store } ∧
    Memory.read32 t.store k.slotAddr = n.word0 ∧ Memory.readWord t.store (k.slotAddr + 4) = n.subject ∧
    Memory.readWord t.store (k.slotAddr + 8) = n.stamp ∧
    storeKept (fun a => k.slotAddr ≤ a ∧ a < k.slotAddr + 16) s t := by
  intro t
  obtain ⟨word0, subject, stamp⟩ := writeSlot_words h k n
  have store : t.store = writeSlot k n s.store := occupy_store _ _ _ _
  rw [store]
  refine ⟨rfl, word0, subject, stamp, fun a ha => ?_⟩
  rw [store]
  exact read_writeSlot k n s.store (by omega)

theorem freeSlot_empty {k : NoticeClass} {s : State} (full : (s.cu.classes.get k).posted.isSome)
    (slot : Memory.read32 s.store k.slotAddr = 0) (held : (s.cu.classes.get k).held = []) :
    freeSlot k s =
      judgeLine { s with cu := { s.cu with classes := s.cu.classes.set k { posted := none, held := [] } } } := by
  rw [freeSlot, if_pos (by simp [ClassState.occupied, full, slot]), held]

theorem freeSlot_next {k : NoticeClass} {s : State} {n : Notice} {rest : List Notice}
    (full : (s.cu.classes.get k).posted.isSome) (slot : Memory.read32 s.store k.slotAddr = 0)
    (held : (s.cu.classes.get k).held = n :: rest) : freeSlot k s = occupy k n rest s := by
  rw [freeSlot, if_pos (by simp [ClassState.occupied, full, slot]), held]

/-! ## Line reads -/

/-- A lane's buffer once its next read has begun, if one can (R71). -/
def laneRead (s : State) (l : Lane) : LineBuffer :=
  let b := s.ee.buffers.get l
  if b.reading.isSome ∨ Config.linePlaces ≤ b.used then b
  else match nextRead s l with
    | none => b
    | some r =>
      { b with
        reading := some r
        nextExp := if r.dest = .exposing then r.line + 1 else b.nextExp
        nextSlot := if r.dest = .slot then r.line + 1 else b.nextSlot }

theorem setBuffer_self (l : Lane) (s : State) : setBuffer l (s.ee.buffers.get l) s = s := by cases l <;> rfl

theorem startRead_eq (l : Lane) (s : State) : startRead l s = setBuffer l (laneRead s l) s := by
  unfold startRead laneRead
  dsimp only
  split
  · exact (setBuffer_self l s).symm
  · cases nextRead s l with
    | none => exact (setBuffer_self l s).symm
    | some r => rfl

theorem startRead_get (l m : Lane) (s : State) :
    (startRead l s).ee.buffers.get m = if m = l then laneRead s l else s.ee.buffers.get m := by
  rw [startRead_eq, setBuffer_buffers]
  split
  next e => rw [e, PerLane.get_set_self]
  next e => rw [PerLane.get_set_ne _ _ e]

/-- A lane's next read does not depend on the other lane. -/
theorem laneRead_startRead {l m : Lane} (h : m ≠ l) (s : State) : laneRead (startRead l s) m = laneRead s m := by
  have get : (startRead l s).ee.buffers.get m = s.ee.buffers.get m := by rw [startRead_get, if_neg h]
  unfold laneRead nextRead exposingPrint slotPrint
  rw [get]
  simp

theorem startReads_get (l : Lane) (s : State) : (startReads s).ee.buffers.get l = laneRead s l := by
  rw [startReads, startRead_get]
  cases l with
  | a => rw [if_neg (by decide), startRead_get, if_pos rfl]
  | b => rw [if_pos rfl, laneRead_startRead (by decide)]

theorem laneRead_full {s : State} {l : Lane}
    (h : (s.ee.buffers.get l).reading.isSome ∨ Config.linePlaces ≤ (s.ee.buffers.get l).used) :
    laneRead s l = s.ee.buffers.get l := if_pos h

theorem laneRead_free {s : State} {l : Lane}
    (h : ¬((s.ee.buffers.get l).reading.isSome ∨ Config.linePlaces ≤ (s.ee.buffers.get l).used)) :
    laneRead s l = (nextRead s l).elim (s.ee.buffers.get l) fun r =>
      { s.ee.buffers.get l with
        reading := some r
        nextExp := if r.dest = .exposing then r.line + 1 else (s.ee.buffers.get l).nextExp
        nextSlot := if r.dest = .slot then r.line + 1 else (s.ee.buffers.get l).nextSlot } := by
  rw [laneRead]
  dsimp only
  rw [if_neg h]
  cases nextRead s l <;> rfl

theorem exposingPrint_iff (s : State) (l : Lane) (p : PrintSpec) :
    exposingPrint s l = some p ↔ ∃ r q, s.ee.expo = some (.row r) ∧ r.prints.get l = some q ∧ q.spec = p := by
  unfold exposingPrint
  split
  next r e => simp [e]
  next h => 
    refine ⟨fun g => by simp at g, fun ⟨r, q, e, _⟩ => absurd e (h r)⟩

theorem slotPrint_iff (s : State) (l : Lane) (p : PrintSpec) :
    slotPrint s l = some p ↔ ∃ r, s.rc.slot = some r ∧ r.prints.get l = some p := by
  simp [slotPrint, Option.bind_eq_some_iff]

/-- The next line of the exposing print goes first (R71). -/
theorem nextRead_exposing {s : State} {l : Lane} {p : PrintSpec} (h : exposingPrint s l = some p)
    (g : (s.ee.buffers.get l).nextExp < p.height) :
    nextRead s l = some (lineRead .exposing p (s.ee.buffers.get l).nextExp) := by
  simp only [nextRead, h, g, if_true]

/-- With none of it left, the slot row's print is next (R71). -/
theorem nextRead_slot {s : State} {l : Lane} (h : ∀ p, exposingPrint s l = some p → p.height ≤ (s.ee.buffers.get l).nextExp) :
    nextRead s l = (slotPrint s l).bind fun p =>
      if (s.ee.buffers.get l).nextSlot < p.height then some (lineRead .slot p (s.ee.buffers.get l).nextSlot) else none := by
  unfold nextRead
  dsimp only
  split
  next p e => exact if_neg (Nat.not_lt.2 (h p e))
  next => rfl

/-! ## Control blocks -/

/-- What a queue's control block shows after a writing (R3). -/
theorem setQueue_words (q : QueueId) (c : QueueCtx) {s : State} (h : StoreCanonical s) :
    let t := setQueue q c s
    t = { s with om := { s.om with queues := s.om.queues.set q c }, store := t.store } ∧
      storeKept (inControlBlock q) s t ∧
      Memory.read8 t.store q.blockAddr = c.state.code ∧ Memory.read8 t.store (q.blockAddr + 1) = c.halt.code ∧
      Memory.readWord t.store (q.blockAddr + 4) = c.next ∧ Memory.readWord t.store (q.blockAddr + 8) = c.tail ∧
      Memory.readWord t.store (q.blockAddr + 12) = c.taken := by
  intro t
  have skip (m : Memory) (a b len n k : Nat) (h : b + k ≤ a ∨ a + len ≤ b) :
      Memory.readNat (Memory.writeNat m a len n) b k = Memory.readNat m b k := Memory.readNat_writeNat m len n k h
  have word (w : Word) : w.toNat % 256 ^ 4 = w.toNat := Nat.mod_eq_of_lt w.isLt
  have state (x : QueueState) : x.code < 256 := by cases x <;> decide
  have halt (x : HaltReason) : x.code < 256 := by cases x <;> decide
  have w1 := Memory.wf_write8 h q.blockAddr c.state.code
  have w2 := Memory.wf_write8 w1 (q.blockAddr + 1) c.halt.code
  have w3 := Memory.wf_writeWord w2 (q.blockAddr + 4) c.next
  have w4 := Memory.wf_writeWord w3 (q.blockAddr + 8) c.tail
  have store : t.store = Memory.writeWord (Memory.writeWord (Memory.writeWord (Memory.write8 (Memory.write8 s.store
      q.blockAddr c.state.code) (q.blockAddr + 1) c.halt.code) (q.blockAddr + 4) c.next) (q.blockAddr + 8) c.tail)
      (q.blockAddr + 12) c.taken := by
    simp only [t, setQueue, writeControlBlock, PerQueue.get_set_self]
  simp only [Memory.writeWord, Memory.write8] at store w1 w2 w3 w4
  refine ⟨rfl, fun a ha => ?_, ?_, ?_, ?_, ?_, ?_⟩
  · rw [store]
    simp (disch := omega) only [Memory.read_writeNat]
  all_goals
    rw [store]
    simp (disch := omega) only [Memory.read8, Memory.readWord, Memory.read32, skip]
    rw [Memory.readNat_writeNat_self (by assumption)]
  · exact Nat.mod_eq_of_lt (state _)
  · exact Nat.mod_eq_of_lt (halt _)
  all_goals
    rw [word, BitVec.ofNat_toNat, BitVec.setWidth_eq]

/-! ## RELEASE_QUEUE (R12) -/

section
variable {q : Word} {u : State} {Q : QueueId}

theorem takeReleaseQueue_badQueue (hq : 3 ≤ q.toNat) : takeReleaseQueue q u = refuse .badOperand u := by
  simp only [takeReleaseQueue, QueueId.ofWord_none q hq]

theorem takeReleaseQueue_illegal (hQ : q.toNat = Q.index)
    (hc : (u.om.queues.get Q).state = .active ∨ (u.om.queues.get Q).state = .idle) :
    takeReleaseQueue q u = refuse .illegalState u := by
  simp only [takeReleaseQueue, (QueueId.ofWord_index q Q).2 hQ]
  obtain hc | hc := hc <;> rw [hc]

theorem takeReleaseQueue_done (hQ : q.toNat = Q.index)
    (hc : (u.om.queues.get Q).state = .parked ∨ (u.om.queues.get Q).state = .blocked ∨
      (u.om.queues.get Q).state = .halted) :
    takeReleaseQueue q u =
      done (setBinWait Q false (setQueue Q { u.om.queues.get Q with state := .idle, halt := .noHalt } u)) := by
  simp only [takeReleaseQueue, (QueueId.ofWord_index q Q).2 hQ]
  obtain hc | hc | hc := hc <;> rw [hc]

end

@[simp] theorem offered1_rc (c : Command) (w : Word) (s : State) : (offered1 c w s).rc = s.rc := by
  simp [offered1, attended]

/-! ## The end of an event -/

/-- The fields of an event's end that stand through the line reads and the status block. -/
theorem settled_fields (s : State) :
    (settled s).cu = s.cu ∧ (settled s).om = s.om ∧ (settled s).rc = s.rc ∧ (settled s).ee = s.ee ∧
      (settled s).ca = s.ca ∧ (settled s).wt = s.wt ∧ (settled s).mc = s.mc ∧ (settled s).pu = s.pu ∧
      (settled s).store = if s.work.status then (writeStatus s).store else s.store := by
  unfold settled
  split
  next h => simp
  next h => simp

end Sys2Proof.Machine
end

section
/-! CLAIMS. Attentions, notices, the end of an event, control blocks, the register window and the line clock. -/

namespace Sys2Proof.Machine

theorem commandOf_eq_none {n : Nat} (h : n = 0 ∨ 13 < n) : commandOf n = none := by
  rw [commandOf, List.find?_eq_none]
  intro c _
  have bounds : 1 ≤ c.code ∧ c.code ≤ 13 := by cases c <;> decide
  rw [decide_eq_true_eq]
  omega

/-- A POSTED cell whose code names no command is answered UNKNOWN_COMMAND (R177). -/
theorem takeCommand_unknown {s : State} (h : cellCode s.store = 0 ∨ 13 < cellCode s.store) :
    takeCommand s = complete (cellCode s.store) .unknownCommand 0 s := by
  rw [takeCommand, commandOf_eq_none h]

/-- Settles O6: by the cell's job and marker, and the code of a POSTED cell. -/
theorem attentionAtTheCell : Obligations.AttentionAtTheCell := by
  intro v ws s h
  refine ⟨fun ⟨w, hw, beyond⟩ => ?_, fun inside => ?_⟩
  · refine if_neg fun all => ?_
    have := List.all_eq_true.1 all w hw
    simp only [HostWrite.inStore, decide_eq_true_eq] at this
    omega
  · intro u
    have all : ws.all (·.inStore) = true := List.all_eq_true.2 fun w hw => by
      simpa only [HostWrite.inStore, decide_eq_true_eq] using inside w hw
    let w : State := { s with store := Memory.hostWrites s.store ws, work := {} }
    have run : exec (.attn v ws) s = .next (settle (attention w)) := if_pos all
    rw [run]
    refine ⟨fun j job => ?_, fun idle unposted => ?_, fun idle posted unknown => ?_, fun c idle posted code => ?_⟩
    · rw [attention_busy w (by simp [w, job])]
      rfl
    · rw [attention_idle w idle, if_neg (by simpa [cellPosted] using unposted)]
    · rw [attention_idle w idle, if_pos (by simpa [cellPosted] using posted), takeCommand_unknown unknown]
      rfl
    · rw [attention_idle w idle, if_pos (by simpa [cellPosted] using posted), takeCommand_eq _ c code]
      rfl

/-- Settles O7: the four outcomes of a notice raised, and of a slot read at an attention. -/
theorem noticesRaisedAndFreed : Obligations.NoticesRaisedAndFreed := by
  refine ⟨fun c w s h => ?_, fun k s h => ?_⟩
  · intro k n t
    refine ⟨fun alike => post_merged ((news_mem_iff k).2 alike), fun new => ?_⟩
    have news : (noticeOf c w s).news ∉ (k.posted.toList ++ k.held).map Notice.news := by
      rw [news_mem_iff]
      exact fun ⟨m, hm, e⟩ => new m hm e
    have raised := post_new news
    refine ⟨fun free => ?_, fun full room => ?_, fun full none hs m e => ?_⟩
    · have occupied : t = occupy c.cls n k.held s := by
        rw [show t = _ from raised, if_pos (by simpa [ClassState.occupied, k] using free)]
        rfl
      obtain ⟨rest, word0, words⟩ := occupy_words c.cls n k.held h
      rw [occupied]
      refine ⟨rest, ?_, words⟩
      rw [word0]
      simp [Notice.word0, n]
    · rw [show t = _ from raised, if_neg (by simpa [ClassState.occupied, k, Option.isSome_iff_ne_none] using full), if_pos room]
      rfl
    · rw [show t = _ from raised, if_neg (by simpa [ClassState.occupied, k, Option.isSome_iff_ne_none] using full),
        if_neg (by simpa [Config.heldCap] using none)]
      change ({ s with cu := { s.cu with classes := s.cu.classes.set c.cls { k with held := markMore k.held } } } : State) = _
      rw [e, markMore_concat]
  · intro c t
    refine ⟨fun free => if_neg (by simp [ClassState.occupied, show (s.cu.classes.get k).posted = none from free]),
      freeSlot_busy, fun full slot => ⟨fun none => ?_, fun n rest e => ?_⟩⟩
    · rw [show t = _ from freeSlot_empty full slot none]
      rfl
    · have taken : t = occupy k n rest s := freeSlot_next full slot e
      obtain ⟨shape, word0, subject, stamp, kept⟩ := occupy_words k n rest h
      rw [taken]
      exact ⟨shape, subject, stamp, word0, kept⟩

/-- Settles O9: what a queue context's change writes, and what the link of a record taken decides. -/
theorem queuesMoveOn : Obligations.QueuesMoveOn := by
  refine ⟨fun q c s h => setQueue_words q c h, fun Q a s => ?_⟩
  intro c link number
  refine ⟨fun last => if_pos last, fun more ok => ?_, fun more bad => ?_⟩
  · exact (if_neg more).trans (if_pos ((orderAddressOk_iff link).2 ok))
  · exact (if_neg more).trans (if_neg (by rwa [orderAddressOk_iff]))

/-- Settles O19: by the queue number and the queue's state (R12, R34). -/
theorem releaseQueueIdles : Obligations.ReleaseQueueIdles := by
  intro q s h idle u
  have om : u.om = s.om := offered1_om .releaseQueue q s
  have rc : u.rc = s.rc := offered1_rc .releaseQueue q s
  have run : exec (.releaseQueue q) s = .next (settle (answered .releaseQueue (takeReleaseQueue q u))) :=
    congrArg Host.Outcome.next (event_posted1 .releaseQueue q h idle)
  rw [run]
  refine ⟨fun hq => ?_, fun Q hQ => ⟨fun hc => ?_, fun hc => ?_⟩⟩
  · rw [takeReleaseQueue_badQueue hq]; rfl
  · rw [takeReleaseQueue_illegal hQ (by rwa [om])]; rfl
  · rw [takeReleaseQueue_done hQ (by rwa [om]), om, ← rc]; rfl

theorem roomy_iff {b : LineBuffer} (idle : b.reading = none) :
    (b.reading.isSome ∨ Config.linePlaces ≤ b.used) ↔ 16 ≤ (if b.held.isSome then 1 else 0) + b.lines.length := by
  simp [LineBuffer.used, idle, Config.linePlaces]

/-- What the line reads of an event's end make of a lane (R71). -/
theorem startReads_lane (s : State) (l : Lane) :
    let b := s.ee.buffers.get l
    let b' := (startReads s).ee.buffers.get l
    let used := (if b.held.isSome then 1 else 0) + b.lines.length
    let exposes (p : PrintSpec) : Prop := ∃ r q, s.ee.expo = some (.row r) ∧ r.prints.get l = some q ∧ q.spec = p
    let waits (p : PrintSpec) : Prop := ∃ r, s.rc.slot = some r ∧ r.prints.get l = some p
    (b.reading.isSome ∨ 16 ≤ used → b' = b) ∧
      (b.reading = none → used < 16 →
        (∀ p, exposes p → b.nextExp < p.height →
          b' = { b with reading := some (lineRead .exposing p b.nextExp), nextExp := b.nextExp + 1 }) ∧
        ((∀ p, exposes p → p.height ≤ b.nextExp) →
          (∀ p, waits p → b.nextSlot < p.height →
            b' = { b with reading := some (lineRead .slot p b.nextSlot), nextSlot := b.nextSlot + 1 }) ∧
          ((∀ p, waits p → p.height ≤ b.nextSlot) → b' = b))) := by
  intro b b' used exposes waits
  have read : b' = laneRead s l := startReads_get l s
  refine ⟨fun full => ?_, fun idle room => ?_⟩
  · rw [read]
    refine laneRead_full ?_
    by_cases busy : b.reading.isSome
    · exact .inl busy
    · rw [roomy_iff (by simpa using busy)]
      exact full.resolve_left busy
  · have free := laneRead_free (s := s) (l := l) (by rw [roomy_iff idle]; exact Nat.not_le.2 room)
    rw [read, free]
    refine ⟨fun p shown left => ?_, fun done => ⟨fun p shown left => ?_, fun spent => ?_⟩⟩
    · rw [nextRead_exposing ((exposingPrint_iff s l p).2 shown) left]
      rfl
    · rw [nextRead_slot fun p e => done p ((exposingPrint_iff s l p).1 e), (slotPrint_iff s l p).2 shown, Option.bind_some,
        if_pos left]
      rfl
    · have nothing : nextRead s l = none := by
        rw [nextRead_slot fun p e => done p ((exposingPrint_iff s l p).1 e)]
        cases e : slotPrint s l with
        | none => rfl
        | some p => exact if_neg (Nat.not_lt.2 (spent p ((slotPrint_iff s l p).1 e)))
      rw [nothing]
      rfl

theorem settled_shape (t : State) : settled t = { t with store := (settled t).store, work := {} } := by
  obtain ⟨m, e⟩ : ∃ m, writeStatus t = { t with store := m } := ⟨_, rfl⟩
  unfold settled
  rw [e]
  split <;> rfl

/-- Settles O8: an attempt, line reads and the status block, in this order, each leaving the others' fields. -/
theorem eventEnd : Obligations.EventEnd := by
  intro s
  let u := if s.work.attempt then compose s else s
  have reads : (startReads u).store = u.store ∧ (startReads u).work = u.work := by rw [startReads_shape]; exact ⟨rfl, rfl⟩
  have status : u.work.status = s.work.status := by
    simp only [u]
    split <;> simp
  have shape : settle s = { startReads u with store := (settle s).store, work := {} } := by
    exact settled_shape _
  refine ⟨rfl, settle_idle s, ⟨shape, fun idle => ?_⟩, ⟨startReads_shape s, startReads_lane s⟩, ?_, fun h owed => ?_⟩
  · rw [settle_eq, settled, if_neg (by rw [reads.2, status, idle]; decide)]
    exact reads.1
  · exact ⟨⟨by simp, by simp, by simp, by simp, by simp, by simp, by simp, by simp, by simp⟩, by simp, by simp, by simp,
      by simp, by simp, by simp, by simp, by simp, by simp, by simp, by simp⟩
  · have wf : Memory.wf (startReads u).store := by
      rw [reads.1]
      simp only [u]
      split
      · exact (compose_sound s).store h
      · exact h
    have e : settle s = { writeStatus (startReads u) with work := {} } := by
      rw [settle_eq, settled, if_pos (by rw [reads.2, status, owed])]
    have words := writeStatus_words wf
    obtain ⟨m, written⟩ : ∃ m, writeStatus (startReads u) = { startReads u with store := m } := ⟨_, rfl⟩
    rw [written] at e words
    rw [e]
    exact words

/-- A bit of a word, by the quotient that shows it. -/
theorem getLsbD_of_quotient {n i : Nat} {x : Bool} (h : n / 2 ^ i % 2 = x.toNat) (hi : i < 32) :
    (BitVec.ofNat 32 n).getLsbD i = x := by
  rw [BitVec.getLsbD_ofNat, Nat.testBit_eq_decide_div_mod_eq, h]
  cases x <;> simp [hi]

/-- The fields of SUMMARY, by the machine state and the flags it shows (R174). -/
theorem summary_bits (m : MachineState) (a b c irq attn busy : Bool) :
    let r : Word := BitVec.ofNat 32 (m.code + (if a then 16 else 0) + (if b then 32 else 0) + (if c then 64 else 0) +
      (if irq then 256 else 0) + (if attn then 512 else 0) + (if busy then 1024 else 0))
    r.toNat % 16 = m.code ∧ r.getLsbD 4 = a ∧ r.getLsbD 5 = b ∧ r.getLsbD 6 = c ∧ r.getLsbD 8 = irq ∧
      r.getLsbD 9 = attn ∧ r.getLsbD 10 = busy := by
  intro r
  have code : m.code < 16 := by cases m <;> decide
  have flag (x : Bool) (n : Nat) : (if x then n else 0) = n * x.toNat := by cases x <;> simp
  have small (x : Bool) : x.toNat < 2 := x.toNat_lt
  have := small a; have := small b; have := small c; have := small irq; have := small attn; have := small busy
  simp only [r, flag]
  refine ⟨by rw [BitVec.toNat_ofNat]; omega, getLsbD_of_quotient ?_ (by decide), getLsbD_of_quotient ?_ (by decide),
    getLsbD_of_quotient ?_ (by decide), getLsbD_of_quotient ?_ (by decide), getLsbD_of_quotient ?_ (by decide),
    getLsbD_of_quotient ?_ (by decide)⟩ <;> omega

/-- Settles O10: chip clear field by field, SUMMARY bit by bit, and the tick. -/
theorem chipClearAndLineClock : Obligations.ChipClearAndLineClock := by
  refine ⟨fun v o s => ⟨?_, rfl, rfl, rfl, rfl, ?_⟩, fun s => ⟨rfl, fun last => ?_⟩⟩
  · intro t
    have cleared : chipClear s = t := by
      unfold chipClear
      rfl
    clear_value t
    subst cleared
    exact ⟨rfl, rfl, rfl, rfl, rfl, rfl, rfl, rfl, rfl, rfl, rfl⟩
  · exact summary_bits s.mc.state s.cu.classes.a.occupied s.cu.classes.b.occupied s.cu.classes.c.occupied s.cu.irq
      s.cu.attnPending s.cu.job.isSome
  · refine ⟨_, rfl, ?_⟩
    simp [event, tick, last]

end Sys2Proof.Machine
end

section
/-! SUPPORT. The state a command is taken in, field by field, and the commands whose effect is one field (R27, R83). -/

namespace Sys2Proof.Machine

@[simp] theorem attended_frame (s : State) :
    (attended s).cu.job = s.cu.job ∧ (attended s).cu.lineClock = s.cu.lineClock ∧
      (attended s).cu.enables = s.cu.enables ∧ (attended s).cu.attnPending = false ∧ (attended s).rc = s.rc ∧
      (attended s).ee = s.ee ∧ (attended s).ca = s.ca ∧ (attended s).wt = s.wt ∧ (attended s).ct = s.ct ∧
      (attended s).su = s.su ∧ (attended s).pu = s.pu ∧ (attended s).conf = s.conf ∧ (attended s).pins = s.pins ∧
      (attended s).pending = s.pending ∧ (attended s).work = s.work := by
  simp [attended]

@[simp] theorem offered0_frame (c : Command) (s : State) :
    (offered0 c s).cu.job = s.cu.job ∧ (offered0 c s).cu.lineClock = s.cu.lineClock ∧
      (offered0 c s).cu.enables = s.cu.enables ∧ (offered0 c s).cu.attnPending = false ∧ (offered0 c s).om = s.om ∧
      (offered0 c s).rc = s.rc ∧ (offered0 c s).ee = s.ee ∧ (offered0 c s).ca = s.ca ∧ (offered0 c s).wt = s.wt ∧
      (offered0 c s).ct = s.ct ∧ (offered0 c s).su = s.su ∧ (offered0 c s).pu = s.pu ∧ (offered0 c s).mc = s.mc ∧
      (offered0 c s).conf = s.conf ∧ (offered0 c s).pins = s.pins ∧ (offered0 c s).pending = s.pending ∧
      (offered0 c s).work = {} := by
  simp [offered0]

@[simp] theorem offered1_frame (c : Command) (w : Word) (s : State) :
    (offered1 c w s).cu.job = s.cu.job ∧ (offered1 c w s).cu.lineClock = s.cu.lineClock ∧
      (offered1 c w s).cu.enables = s.cu.enables ∧ (offered1 c w s).cu.attnPending = false ∧
      (offered1 c w s).ee = s.ee ∧ (offered1 c w s).ca = s.ca ∧ (offered1 c w s).wt = s.wt ∧
      (offered1 c w s).ct = s.ct ∧ (offered1 c w s).su = s.su ∧ (offered1 c w s).pu = s.pu ∧ (offered1 c w s).mc = s.mc ∧
      (offered1 c w s).conf = s.conf ∧ (offered1 c w s).pins = s.pins ∧ (offered1 c w s).pending = s.pending ∧
      (offered1 c w s).work = {} := by
  simp [offered1]

@[simp] theorem offered2_frame (c : Command) (w v : Word) (s : State) :
    (offered2 c w v s).cu.job = s.cu.job ∧ (offered2 c w v s).cu.lineClock = s.cu.lineClock ∧
      (offered2 c w v s).cu.enables = s.cu.enables ∧ (offered2 c w v s).cu.attnPending = false ∧
      (offered2 c w v s).rc = s.rc ∧ (offered2 c w v s).ee = s.ee ∧ (offered2 c w v s).ca = s.ca ∧
      (offered2 c w v s).wt = s.wt ∧ (offered2 c w v s).ct = s.ct ∧ (offered2 c w v s).su = s.su ∧
      (offered2 c w v s).pu = s.pu ∧ (offered2 c w v s).conf = s.conf ∧ (offered2 c w v s).pins = s.pins ∧
      (offered2 c w v s).pending = s.pending ∧ (offered2 c w v s).work = {} := by
  simp [offered2]

@[simp] theorem offered_cfg0 (c : Command) (s : State) : (offered0 c s).cfg = s.cfg := by simp [State.cfg]

@[simp] theorem offered_cfg1 (c : Command) (w : Word) (s : State) : (offered1 c w s).cfg = s.cfg := by simp [State.cfg]

@[simp] theorem offered_cfg2 (c : Command) (w v : Word) (s : State) : (offered2 c w v s).cfg = s.cfg := by
  simp [State.cfg]

theorem offered0_wf (c : Command) {s : State} (h : StoreCanonical s) : StoreCanonical (offered0 c s) :=
  attended_wf (postWord0_wf c h)

theorem offered1_wf (c : Command) (w : Word) {s : State} (h : StoreCanonical s) : StoreCanonical (offered1 c w s) :=
  attended_wf (postWord0_wf c (postWord1_wf w (s := { s with work := {} }) h))

end Sys2Proof.Machine
end

section
/-! SUPPORT. When each event is due (log 5). -/

namespace Sys2Proof.Machine

theorem eventWhen_due {due : State → Bool} {f : State → State} {s : State} (h : due s = true) :
    eventWhen due f s = event f s := if_pos h

theorem eventWhen_not {due : State → Bool} {f : State → State} {s : State} (h : due s = false) :
    eventWhen due f s = s := if_neg (by simp [h])

theorem feedRuns_iff (s : State) : s.feedRuns = true ↔ s.mc.state = .running ∨ s.mc.state = .pausing := by
  simp [State.feedRuns]

theorem conveyorRuns_iff (s : State) : s.conveyorRuns = true ↔ s.mc.state ≠ .cleared ∧ s.mc.convStop = false := by
  simp [State.conveyorRuns]

/-- The slot row has credit for `c` lines ahead of its own (R63). -/
theorem slotCredit_iff (s : State) (c : Nat) :
    slotCredit s c = true ↔ (s.mc.state = .running ∨ s.mc.state = .pausing) ∧ s.ee.expo = none ∧ s.ee.hot = false ∧
      s.wt.track.length < 64 ∧
      ∃ r, s.rc.slot = some r ∧ (s.wt.x - s.wt.y).toNat + c + r.length ≤ s.cfg.loopMax := by
  simp only [slotCredit, Option.any_eq_true, Bool.and_eq_true, decide_eq_true_eq, feedRuns_iff, Bool.not_eq_true',
    Option.isNone_iff_eq_none, Config.trackCap]
  constructor
  · rintro ⟨r, slot, ⟨⟨⟨expo, feeds⟩, hot⟩, credit⟩, room⟩
    exact ⟨feeds, expo, hot, room, r, slot, credit⟩
  · rintro ⟨feeds, expo, hot, room, r, slot, credit⟩
    exact ⟨r, slot, ⟨⟨⟨expo, feeds⟩, hot⟩, credit⟩, room⟩

theorem loopFill_eq_zero (s : State) : loopFill s = 0 ↔ s.wt.x = s.wt.y := by
  rw [loopFill, ← BitVec.toNat_zero (w := 32), BitVec.toNat_inj]
  exact sub_eq_zero

/-- The loop has emptied with nothing exposing and nothing able to start (R66). -/
theorem blankDue_iff (s : State) :
    blankDue s = true ↔ s.ee.expo = none ∧ (s.mc.state = .running ∨ s.mc.state = .pausing) ∧ s.wt.x = s.wt.y ∧
      slotCanGo s = false := by
  simp only [blankDue, Bool.and_eq_true, Option.isNone_iff_eq_none, feedRuns_iff, decide_eq_true_eq,
    loopFill_eq_zero, Bool.not_eq_true', and_assoc]

/-- A lead-in can begin for the slot row, or for a BLANK row the empty loop asks for (R70). -/
theorem leadInDue_iff (s : State) :
    leadInDue s = true ↔ s.ee.continuity = false ∧
      (slotCredit s 4 = true ∨ blankDue s = true ∧ s.wt.track.length < 64) := by
  simp [leadInDue, Config.leadInLines, Config.trackCap]

theorem rowStartDue_iff (s : State) : rowStartDue s = true ↔ s.ee.continuity = true ∧ slotCredit s 0 = true := by
  simp [rowStartDue]

theorem endedRow_iff (s : State) (r : ExposingRow) :
    endedRow s = some r ↔ s.ee.expo = some (.row r) ∧ r.length ≤ (s.wt.x - r.x0).toNat := by
  unfold endedRow
  split
  next x e =>
    rw [e]
    simp only [ExposingRow.ended, decide_eq_true_eq, Option.ite_none_right_eq_some, Option.some.injEq,
      Exposing.row.injEq]
    constructor
    · rintro ⟨ended, rfl⟩
      exact ⟨rfl, ended⟩
    · rintro ⟨rfl, ended⟩
      exact ⟨ended, rfl⟩
  next h => exact ⟨(nomatch ·), fun g => absurd g.1 (h r)⟩

theorem execRowEnd_idle {s : State} (h : ∀ r, endedRow s = some r → r.kind ≠ .print) : execRowEnd s = .next s := by
  unfold execRowEnd
  split
  next r e => exact if_neg (h r e)
  next => rfl

theorem execCalibOrBlankRowEnd_idle {s : State} (h : ∀ r, endedRow s = some r → r.kind = .print) :
    execCalibOrBlankRowEnd s = .next s := by
  unfold execCalibOrBlankRowEnd
  split
  next r e => exact if_pos (h r e)
  next => rfl

theorem patchDue_iff (s : State) (p : Patch) :
    patchDue s = some p ↔ s.ca.state = .inFlight ∧ s.ca.patch = some p ∧
      reached s.wt.y (p.x0 + lines s.cfg.lDens) = true := by
  unfold patchDue
  split
  next q state e =>
    simp only [Option.ite_none_right_eq_some, Option.some.injEq, state, e, true_and]
    constructor
    · rintro ⟨due, rfl⟩
      exact ⟨rfl, due⟩
    · rintro ⟨rfl, due⟩
      exact ⟨due, rfl⟩
  next h => exact ⟨(nomatch ·), fun ⟨state, e, _⟩ => absurd e (h p state)⟩

theorem execDensitometerReading_idle {r g b : Nat} {s : State} (hr : r ≤ 4095) (hg : g ≤ 4095) (hb : b ≤ 4095)
    (h : patchDue s = none) : execDensitometerReading r g b s = .next s := by
  unfold execDensitometerReading
  rw [if_pos (by simp [hr, hg, hb]), h]

theorem findBoundary_eq_none {s : State} {f : Boundary → Bool} (h : ∀ b ∈ s.ct.queue, f b = false) :
    findBoundary s f = none := by
  have none : s.ct.queue.findIdx? f = none := List.findIdx?_eq_none_iff.2 fun b hb => by simpa using h b hb
  rw [findBoundary, none]
  rfl

theorem execMarkWindowOpen_idle {s : State} (h : s.feedRuns = false ∨ windowToOpen s = none) :
    execMarkWindowOpen s = .next s := by
  unfold execMarkWindowOpen
  obtain h | h := h
  · exact if_neg (by simp [h])
  · rw [h]; exact ite_self _

theorem execMarkReport_idle {y : Word} {s : State} (h : s.feedRuns = false ∨ boundaryFor y s = none) :
    execMarkReport y s = .next s := by
  unfold execMarkReport
  obtain h | h := h
  · exact if_neg (by simp [h])
  · rw [h]; exact ite_self _

theorem execMarkMissed_idle {s : State} (h : s.feedRuns = false ∨ boundaryMissed s = none) :
    execMarkMissed s = .next s := by
  unfold execMarkMissed
  obtain h | h := h
  · exact if_neg (by simp [h])
  · rw [h]; exact ite_self _

theorem execKnifeFire_idle {s : State} (h : s.feedRuns = false ∨ boundaryAtKnife s = none) :
    execKnifeFire s = .next s := by
  unfold execKnifeFire
  obtain h | h := h
  · exact if_neg (by simp [h])
  · rw [h]; exact ite_self _

theorem execPieceAtDiverter_idle {s : State} (h : s.conveyorRuns = false ∨ s.su.awaiting = []) :
    execPieceAtDiverter s = .next s := by
  unfold execPieceAtDiverter
  obtain h | h := h
  · exact if_neg (by simp [h])
  · rw [h]; exact ite_self _

theorem execMisrouted_idle {s : State} (h : s.conveyorRuns = false ∨ overdue s = none) :
    execMisrouted s = .next s := by
  unfold execMisrouted
  obtain h | h := h
  · exact if_neg (by simp [h])
  · rw [h]; exact ite_self _

end Sys2Proof.Machine
end

section
/-! CLAIMS. Events that are not due. -/

namespace Sys2Proof.Machine

/-- Settles O54: each event's condition is the one its rule names. -/
theorem eventsNotDue : Obligations.EventsNotDue := by
  intro s feeds runs credit blank markAt
  have feedsFalse (h : ¬feeds) : s.feedRuns = false := by
    rw [← Bool.not_eq_true, feedRuns_iff]
    exact h
  have runsFalse (h : ¬runs) : s.conveyorRuns = false := by
    rw [← Bool.not_eq_true, conveyorRuns_iff]
    exact h
  have notDue {due : State → Bool} {f : State → State} (h : ¬(due s = true)) :
      (Host.Outcome.next (eventWhen due f s) : Outcome) = .next s := by rw [eventWhen_not (by simpa using h)]
  refine ⟨fun h => notDue fun due => h ?_, fun h => notDue fun due => ?_, fun h => notDue fun due => h ?_,
    fun h => notDue fun due => ?_, fun h => execRowEnd_idle fun r e => ?_, fun h => execCalibOrBlankRowEnd_idle fun r e => ?_,
    fun r g b hr hg hb h => execDensitometerReading_idle hr hg hb (Option.eq_none_iff_forall_ne_some.2 fun p e => ?_),
    fun h => ⟨notDue (by rw [feedsFalse h]; decide), fun y => execMarkReport_idle (.inl (feedsFalse h))⟩,
    fun h => execMarkWindowOpen_idle (h.imp feedsFalse fun h => findBoundary_eq_none fun b hb => ?_),
    fun h => execMarkMissed_idle (h.imp feedsFalse fun h => findBoundary_eq_none fun b hb => ?_),
    fun h => execKnifeFire_idle (h.imp feedsFalse fun h => Option.eq_none_iff_forall_ne_some.2 fun b e => ?_),
    fun h => execPieceAtDiverter_idle (h.imp_left runsFalse),
    fun h => execMisrouted_idle (h.imp runsFalse fun h => ?_), fun d h => notDue fun due => ?_,
    fun i h => notDue fun due => ?_, fun i => ⟨fun h => notDue (by simpa using h), fun h => notDue (by simpa using h)⟩,
    notDue (by simp), notDue (by simp), notDue (by simp), notDue (by simp)⟩
  · obtain ⟨mark, row | ⟨loop, room⟩⟩ := (leadInDue_iff s).1 due
    · exact ⟨mark, .inl ((slotCredit_iff s 4).1 row)⟩
    · obtain ⟨expo, feed, empty, -⟩ := (blankDue_iff s).1 loop
      exact ⟨mark, .inr ⟨feed, expo, empty, room⟩⟩
  · unfold leadInEnded at due
    split at due
    next n b e =>
      have := h n b e
      simp only [Config.leadInLines, decide_eq_true_eq] at due
      omega
    next => cases due
  · obtain ⟨mark, row⟩ := (rowStartDue_iff s).1 due
    exact ⟨mark, (slotCredit_iff s 0).1 row⟩
  · rw [feedStepDue, Bool.and_eq_true] at due
    obtain ⟨feed, line⟩ := due
    obtain h | h | ⟨n, b, e, h⟩ | ⟨r, e, h⟩ := h
    · exact h ((feedRuns_iff s).1 feed)
    · rw [h] at line
      cases line
    · rw [e] at line
      simp only [Config.leadInLines, decide_eq_true_eq] at line
      omega
    · rw [e] at line
      simp only [ExposingRow.ended, Bool.not_eq_true', decide_eq_false_iff_not] at line
      exact line h
  · obtain ⟨e, ended⟩ := (endedRow_iff s r).1 e
    exact h r e ended
  · obtain ⟨e, ended⟩ := (endedRow_iff s r).1 e
    exact h r e ended
  · obtain ⟨state, patch, due⟩ := (patchDue_iff s p).1 e
    obtain h | h := h
    · exact h state
    · rw [h p patch] at due
      cases due
  · by_cases ahead : b.window = .ahead
    · simpa [ahead] using (show reached s.wt.y (windowFirst s.cfg b) = false from h b hb ahead)
    · simp [ahead]
  · by_cases watched : b.window = .opened ∧ b.mark = .pending
    · obtain ⟨opened, pending⟩ := watched
      simpa [Boundary.watched, opened, pending] using
        (show reached s.wt.y (windowPast s.cfg b) = false from h b hb opened pending)
    · simp only [Boundary.watched]
      simp only [Bool.and_eq_false_iff, decide_eq_false_iff_not]
      tauto
  · simp only [boundaryAtKnife, Option.filter_eq_some_iff, Bool.and_eq_true, Bool.not_eq_true',
      decide_eq_false_iff_not] at e
    obtain ⟨head, settled, due⟩ := e
    obtain pending | early := h b head
    · exact settled pending
    · rw [show reached s.wt.y (knifeAt s.cfg b) = _ from early] at due
      cases due
  · rw [overdue, h]
    rfl
  · simp only [lateDue, Bool.and_eq_true, decide_eq_true_eq] at due
    obtain ⟨⟨run, late⟩, due⟩ := due
    obtain h | h | h := h
    · exact h ((conveyorRuns_iff s).1 run)
    · omega
    · rw [h] at due
      cases due
  · simp only [countdownDue, Option.any_eq_true] at due
    obtain ⟨e, running, due⟩ := due
    rw [h e running] at due
    cases due

end Sys2Proof.Machine
end

section
/-! SUPPORT. SET_LANES, triggers, temperature samples and line reads, case by case (R27, R82, R75, R71). -/

namespace Sys2Proof.Machine

/-! ## SET_LANES and RECALIBRATE -/

theorem laneMaskOf_none {m : Word} (h : m = 0 ∨ 3 < m.toNat) : laneMaskOf m.toNat = none := by
  have out : m.toNat = 0 ∨ 3 < m.toNat := h.imp_left fun e => by rw [e]; rfl
  simp only [laneMaskOf]
  rw [if_neg (by omega), if_neg (by omega), if_neg (by omega)]

theorem laneMaskOf_code {m : Word} {M : LaneMask} (h : m.toNat = M.code) : laneMaskOf m.toNat = some M := by
  rw [h]
  cases M <;> rfl

theorem laneMask_bOnly {m : Word} {M : LaneMask} (h : m.toNat = M.code) : M = .bOnly ↔ m = 2 := by
  rw [← BitVec.toNat_inj, h]
  cases M <;> decide

theorem trigger_valid {s : State} (h : s.ca.state = .valid) :
    trigger s = askAttempt { s with ca := { s.ca with state := .due } } := by rw [trigger, h]

theorem trigger_stale {s : State} (h : s.ca.state = .stale) :
    trigger s = askAttempt { s with ca := { s.ca with state := .due, invalid := 0 } } := by rw [trigger, h]

theorem trigger_pending {s : State} (h : s.ca.state = .due ∨ s.ca.state = .inFlight) : trigger s = s := by
  obtain h | h := h <;> rw [trigger, h]

theorem takeSetLanes_illegal {m : Word} {u : State} (h : u.mc.state = .cleared ∨ u.mc.state = .faulted) :
    takeSetLanes m u = refuse .illegalState u := if_pos h

theorem takeSetLanes_badMask {m : Word} {u : State} (c : u.mc.state ≠ .cleared) (f : u.mc.state ≠ .faulted)
    (h : laneMaskOf m.toNat = none) : takeSetLanes m u = refuse .badOperand u := by
  rw [takeSetLanes, if_neg (not_or.2 ⟨c, f⟩), h]

theorem takeSetLanes_mask {m : Word} {M : LaneMask} {u : State} (c : u.mc.state ≠ .cleared) (f : u.mc.state ≠ .faulted)
    (h : m.toNat = M.code) :
    takeSetLanes m u =
      if u.cfg.laneMode = .oneUp ∧ M = .bOnly then refuse .badOperand u else done (stageMask M u) := by
  rw [takeSetLanes, if_neg (not_or.2 ⟨c, f⟩), laneMaskOf_code h]

theorem takeRecalibrate_illegal {u : State}
    (h : u.mc.state = .cleared ∨ u.mc.state = .pausing ∨ u.mc.state = .faulted) :
    takeRecalibrate u = refuse .illegalState u := by
  obtain h | h | h := h <;> rw [takeRecalibrate, h]

theorem takeRecalibrate_trigger {u : State}
    (h : u.mc.state = .ready ∨ u.mc.state = .running ∨ u.mc.state = .paused) :
    takeRecalibrate u = done (trigger u) := by
  obtain h | h | h := h <;> rw [takeRecalibrate, h]

/-! ## Temperature samples -/

theorem judgeSample_unconfigured {q : Nat} {s : State} (h : s.conf = none) : judgeSample q s = s :=
  if_pos (by rw [h]; rfl)

section
variable {q : Nat} {s : State} {c : Conf}

theorem judgeSample_configured (h : s.conf = some c) :
    judgeSample q s =
      if c.thetaMax < q then (if s.ee.hot then s else post .headHot 0 (setHot true s))
      else if s.ee.hot && decide (q ≤ c.thetaMax - 8) then askAttempt (post .headCool 0 (setHot false s)) else s := by
  have cfg : s.cfg = c := by rw [State.cfg, h]; rfl
  rw [judgeSample, if_neg (by simp [h]), cfg]
  rfl

theorem judgeSample_hot (h : s.conf = some c) (above : c.thetaMax < q) :
    judgeSample q s = if s.ee.hot then s else post .headHot 0 (setHot true s) := by
  rw [judgeSample_configured h, if_pos above]

theorem judgeSample_cool (h : s.conf = some c) (below : q ≤ c.thetaMax) :
    judgeSample q s =
      if s.ee.hot && decide (q ≤ c.thetaMax - 8) then askAttempt (post .headCool 0 (setHot false s)) else s := by
  rw [judgeSample_configured h, if_neg (Nat.not_lt.2 below)]

end

/-! ## Line reads completed -/

section
variable {b : LineBuffer} {r : LineRead} {head : Option Nat} {data : List Byte}

theorem LineBuffer.complete_discard (h : r.dest = .discard) : b.complete r head data = { b with reading := none } := by
  rw [LineBuffer.complete, h]

theorem LineBuffer.complete_slot (h : r.dest = .slot) :
    b.complete r head data =
      { b with reading := none, lines := b.lines ++ [{ forSlot := true, line := r.line, data := data }] } := by
  rw [LineBuffer.complete, h]

theorem LineBuffer.complete_passed (h : r.dest = .exposing) (p : head.any (fun k => decide (r.line < k)) = true) :
    b.complete r head data = { b with reading := none } := by
  rw [LineBuffer.complete, h]
  exact if_pos p

theorem LineBuffer.complete_exposing (h : r.dest = .exposing) (p : ¬head.any (fun k => decide (r.line < k)) = true) :
    b.complete r head data =
      { b with reading := none, lines := b.lines ++ [{ forSlot := false, line := r.line, data := data }] } := by
  rw [LineBuffer.complete, h]
  exact if_neg p

end

/-- The head has passed a line of the row that exposes. -/
theorem headLine_passed (s : State) (n : Nat) :
    (headLine s).any (fun k => decide (n < k)) = true ↔
      ∃ x : ExposingRow, s.ee.expo = some (.row x) ∧ n < (s.wt.x - x.x0).toNat := by
  unfold headLine
  split
  next r e => simp [e]
  next h => simp only [Option.any_none, Bool.false_eq_true, false_iff]; rintro ⟨x, e, -⟩; exact h x e

end Sys2Proof.Machine
end

section
/-! CLAIMS. SET_LANES, RECALIBRATE, temperature samples and line reads. -/

namespace Sys2Proof.Machine

/-- Settles O25: by machine state, mask and lane mode, and the calibration state of a trigger. -/
theorem setLanesAndRecalibrate : Obligations.SetLanesAndRecalibrate := by
  refine ⟨fun m s h idle => ?_, fun s h idle => ?_⟩
  · intro u
    have mc : u.mc = s.mc := by simp [u]
    have cfg : u.cfg = s.cfg := by simp [u]
    have run : exec (.setLanes m) s = .next (settle (answered .setLanes (takeSetLanes m u))) :=
      congrArg Host.Outcome.next (event_posted1 .setLanes m h idle)
    rw [run]
    refine ⟨fun state => ?_, fun c f => ⟨fun bad => ?_, fun one bOnly => ?_, fun M code legal => ?_⟩⟩
    · rw [takeSetLanes_illegal (by rwa [mc])]; rfl
    · rw [takeSetLanes_badMask (by rwa [mc]) (by rwa [mc]) (laneMaskOf_none bad)]; rfl
    · have code : m.toNat = LaneMask.bOnly.code := by rw [bOnly]; rfl
      rw [takeSetLanes_mask (by rwa [mc]) (by rwa [mc]) code, if_pos ⟨by rwa [cfg], rfl⟩]; rfl
    · intro staged room
      rw [takeSetLanes_mask (by rwa [mc]) (by rwa [mc]) code, if_neg (by rwa [cfg, laneMask_bOnly code])]
      have work : u.work = {} := by simp [u]
      have rc : u.rc = s.rc := by simp [u]
      have wt : u.wt = s.wt := by simp [u]
      have ca : u.ca = s.ca := by simp [u]
      have roomU : roomHolds u = true ↔ room s.rc.mask := by
        rw [roomHolds_iff, wt, ca, cfg, rc]
      have roomT : roomHolds { u with rc := { u.rc with mask := M } } = true ↔ room M := by
        rw [roomHolds_iff]
        change u.wt.track.length + (if u.ca.state ≠ .due ∧ u.cfg.laneMode = .twoUp ∧ M = .both then 2 else 1) + 1 ≤ 64 ↔ _
        rw [wt, ca, cfg]
      have staged_eq : ({ u with rc := { u.rc with mask := M } } : State) = staged := by rw [rc]
      obtain ⟨plain, owed⟩ := stageMask_eq M u
      refine ⟨fun which => ?_, fun before after => ?_⟩
      · rw [plain (which.imp (roomU.2 ·) fun n => by simpa using mt roomT.1 n), staged_eq]
        rfl
      · rw [owed (by simpa using mt roomU.1 before) (roomT.2 after), staged_eq, askAttempt,
          show staged.work = {} from work]
        rfl
  · intro u
    have mc : u.mc = s.mc := by simp [u]
    have ca : u.ca = s.ca := by simp [u]
    have work : u.work = {} := by simp [u]
    have run : exec .recalibrate s = .next (settle (answered .recalibrate (takeRecalibrate u))) :=
      congrArg Host.Outcome.next (event_posted0 .recalibrate h idle)
    rw [run]
    refine ⟨fun state => ?_, fun state => ?_⟩
    · rw [takeRecalibrate_illegal (by rwa [mc])]; rfl
    · rw [takeRecalibrate_trigger (by rwa [mc])]
      refine ⟨fun valid => ?_, fun stale => ?_, fun pending => ?_⟩
      · rw [trigger_valid (by rwa [ca]), askAttempt, ca, work]; rfl
      · rw [trigger_stale (by rwa [ca]), askAttempt, ca, work]; rfl
      · rw [trigger_pending (by rwa [ca])]; rfl

/-- Settles O38: by the sensor's range, the interval, the configuration and the hold (R75, R76). -/
theorem temperatureSampled : Obligations.TemperatureSampled := by
  intro q s
  have inRange (h : q ≤ 400) : exec (.headTemperatureSample q) s =
      .next (eventWhen (fun t => elapsed t.cu.lineClock t.ee.sampleAt sampleEvery) (takeSample q) s) :=
    if_pos (decide_eq_true h)
  refine ⟨fun beyond => if_neg (by simpa using beyond), fun range early => ?_, fun range due => ?_⟩
  · rw [inRange range, eventWhen_not (decide_eq_false (Nat.not_le.2 early))]
  · intro s'
    have run : exec (.headTemperatureSample q) s = .next (settle (judgeSample q s')) := by
      rw [inRange range, eventWhen_due (decide_eq_true due)]
      rfl
    rw [run]
    refine ⟨fun none => by rw [judgeSample_unconfigured (s := s') none], fun c conf =>
      ⟨fun above hot => ?_, fun above hot => ?_, fun below hot => ?_, fun below rest => ?_⟩⟩
    · rw [judgeSample_hot (s := s') conf above, if_pos hot]
    · rw [judgeSample_hot (s := s') conf above, if_neg (by simpa [s'] using hot)]; rfl
    · rw [judgeSample_cool (s := s') conf (by omega), if_pos (by simp [s', hot, below])]; rfl
    · rw [judgeSample_cool (s := s') conf below, if_neg]
      obtain above | cool := rest
      · simp [above]
      · simp [s', cool]

/-- Settles O32: by the destination of the read (R71, R72, R77). -/
theorem lineReadCompletes : Obligations.LineReadCompletes := by
  intro l s b
  refine ⟨fun none => ?_, fun r reading => ⟨fun beyond => ?_, fun inside => ?_⟩⟩
  · change execImageLineReadComplete l s = _
    rw [execImageLineReadComplete, show (s.ee.buffers.get l).reading = _ from none]
  · change execImageLineReadComplete l s = _
    rw [execImageLineReadComplete, show (s.ee.buffers.get l).reading = _ from reading]
    exact if_neg (Nat.not_le.2 beyond)
  · intro data passed after
    have run : exec (.imageLineReadComplete l) s =
        .next (settle (setBuffer l (b.complete r (headLine s) data) { s with work := {} })) := by
      change execImageLineReadComplete l s = _
      rw [execImageLineReadComplete, show (s.ee.buffers.get l).reading = _ from reading]
      exact if_pos inside
    rw [run]
    refine ⟨?_, fun slot => ?_, fun exposing ahead => ?_⟩
    · rintro (discard | ⟨exposing, behind⟩)
      · rw [LineBuffer.complete_discard discard]; rfl
      · rw [LineBuffer.complete_passed exposing ((headLine_passed s r.line).2 behind)]; rfl
    · rw [LineBuffer.complete_slot slot]; rfl
    · rw [LineBuffer.complete_exposing exposing (mt (headLine_passed s r.line).1 ahead)]; rfl

end Sys2Proof.Machine
end

section
/-! SUPPORT. Reject reports, removals and losses, case by case, and what they leave of the track table (R42, R103, R107,
R108). -/

namespace Sys2Proof.Machine

/-! ## Reject reports -/

theorem remakesFull_iff (s : State) : remakesFull s = true ↔ 32 ≤ s.rc.remakes.length + slotRemakes s :=
  decide_eq_true_iff

theorem decideRemake_failed {r : CopyRef} (a : Word) (s : State) (h : 3 ≤ r.attempt) :
    decideRemake r a s = countFailed r s := if_pos h

theorem decideRemake_full {r : CopyRef} (a : Word) {s : State} (h : r.attempt < 3)
    (g : 32 ≤ s.rc.remakes.length + slotRemakes s) :
    decideRemake r a s = post .remakeRefused a (countFailed r s) := by
  rw [decideRemake, if_neg (by omega), if_pos ((remakesFull_iff s).2 g)]

theorem decideRemake_remade {r : CopyRef} (a : Word) {s : State} (h : r.attempt < 3)
    (g : s.rc.remakes.length + slotRemakes s < 32) :
    decideRemake r a s = askAttempt
      { s with rc := { s.rc with remakes := s.rc.remakes ++ [{ r with attempt := r.attempt + 1 }] } } := by
  have room : ¬remakesFull s = true := fun f => absurd ((remakesFull_iff s).1 f) (by omega)
  rw [decideRemake, if_neg (by omega), if_neg room]

theorem rejectReport_gone {cause : RejectCause} {r : CopyRef} {s : State} (h : orderIn s r.slot r.number = none) :
    rejectReport cause r s = s := by rw [rejectReport, h]

theorem rejectReport_withdrawing {cause : RejectCause} {r : CopyRef} {s : State} {o : OpenOrder} {ch : Bool}
    (h : orderIn s r.slot r.number = some o) (p : o.phase = .withdrawing ch) :
    rejectReport cause r s =
      judgeClose r.slot r.number (putOrder r.slot { o with dropped := o.dropped + 1 } s) := by
  simp only [rejectReport, h, p]

/-- An order with a rejected copy counted, and an underrun carried to its item (R42, R73). -/
def orderRejected (cause : RejectCause) (item : Nat) (o : OpenOrder) : OpenOrder :=
  { o with
    rejected := o.rejected + 1
    items := if cause = .underrun then o.items.modify item fun i => { i with underrun := true } else o.items }

theorem rejectReport_open {cause : RejectCause} {r : CopyRef} {s : State} {o : OpenOrder}
    (h : orderIn s r.slot r.number = some o) (p : o.phase = .opened ∨ o.phase = .composed) :
    rejectReport cause r s = judgeClose r.slot r.number
      (decideRemake r o.addr (putOrder r.slot (orderRejected cause r.item o) s)) := by
  by_cases u : cause = .underrun <;> obtain p | p := p <;>
    simp only [rejectReport, h, p, orderRejected, u, if_true, if_false, OpenOrder.onItem]

theorem slotRemakes_putOrder (i : Fin 8) (o : OpenOrder) (s : State) :
    slotRemakes (putOrder i o s) = slotRemakes s := by
  simp only [slotRemakes, putOrder_frame]

/-! ## Removal -/

theorem findEntry_eq_none {s : State} {k : EntryKey} : findEntry s k = none ↔ ∀ e ∈ s.wt.track, e.key ≠ k := by
  simp only [findEntry, List.find?_eq_none, decide_eq_true_eq, ne_eq]

/-- A removed entry's piece is gone from what the Sorter Unit holds. -/
theorem entryTaken_shape (k : EntryKey) (s : State) :
    entryTaken k s = { s with
      wt := { s.wt with track := s.wt.track.filter fun x => !decide (x.key = k) }
      ct := (entryTaken k s).ct
      su := { s.su with
        bins := (entryTaken k s).su.bins
        conveyor := s.su.conveyor.filter fun x => !decide (x.piece = k)
        awaiting := s.su.awaiting.filter fun x => !decide (x = k) }
      work := { s.work with attempt := true } } := by
  obtain ⟨u, hu⟩ : ∃ u, u = pruneFor k.x0
    { s with wt := { s.wt with track := s.wt.track.filter fun x => !decide (x.key = k) } } := ⟨_, rfl⟩
  have shape : u = { s with
      wt := { s.wt with track := s.wt.track.filter fun x => !decide (x.key = k) }, ct := u.ct } := by
    rw [hu]
    unfold pruneFor
    split
    · rfl
    · split <;> rfl
  have drop : dropPiece k u = { u with su := { u.su with
      bins := (dropPiece k u).su.bins
      conveyor := u.su.conveyor.filter fun x => !decide (x.piece = k)
      awaiting := u.su.awaiting.filter fun x => !decide (x = k) } } := by
    unfold dropPiece
    dsimp only
    split
    · rw [lowerRouted]
      split <;> rfl
    · rfl
  have whole : entryTaken k s = askAttempt (dropPiece k u) := by rw [hu]; rfl
  rw [whole, drop, shape]
  rfl

theorem lowerRouted_bin (d : Fin 34) (i : Fin 32) (s : State) : (lowerRouted d s).su.bins[i] =
    if d.1 = i.1 then { s.su.bins[i] with routed := s.su.bins[i].routed - 1 } else s.su.bins[i] := by
  by_cases h : d.1 < 32
  · simp only [lowerRouted, binOfDest, dif_pos h]
    rw [setBin_get]
    by_cases e : d.1 = i.1
    · rw [if_pos (Fin.ext e), if_pos e]
      simp only [e]
    · rw [if_neg (fun g => e (congrArg Fin.val g)), if_neg e]
  · have ne : d.1 ≠ i.1 := by omega
    simp only [lowerRouted, binOfDest, dif_neg h, if_neg ne]

theorem dropPiece_bins_none {k : EntryKey} {s : State} (h : ∀ x ∈ s.su.conveyor, x.piece ≠ k) :
    (dropPiece k s).su.bins = s.su.bins := by
  have f : (s.su.conveyor.find? fun c => decide (c.piece = k)) = none := by
    simpa only [List.find?_eq_none, decide_eq_true_eq] using h
  simp only [dropPiece, f]

theorem dropPiece_bins_some {k : EntryKey} {s : State} {x : ConvEntry}
    (h : s.su.conveyor.find? (fun c => decide (c.piece = k)) = some x) :
    (dropPiece k s).su.bins = (lowerRouted x.dest s).su.bins := by
  simp only [dropPiece, h]

/-- What pruning a boundary of a row leaves of it: nothing to do, gone, or the other side alone (R114). -/
theorem prunedBoundary_eq (x : Word) (b : Boundary) :
    (if b.rowAfter = some x ∨ b.rowBefore = some x then (if (b.forget x).kept then some (b.forget x) else none)
      else some b) =
    let after := if b.rowAfter = some x then none else b.rowAfter
    let before := if b.rowBefore = some x then none else b.rowBefore
    if after = b.rowAfter ∧ before = b.rowBefore then some b
    else if after = none ∧ before = none then none
    else some { b with rowAfter := after, rowBefore := before } := by
  by_cases p : b.rowAfter = some x <;> by_cases q : b.rowBefore = some x
  · simp [p, q, Boundary.forget, Boundary.kept]
  · cases r : b.rowBefore <;> simp [p, ← r, q, Boundary.forget, Boundary.kept]; simp [r]
  · cases r : b.rowAfter <;> simp [p, ← r, q, Boundary.forget, Boundary.kept]; simp [r]
  · simp [p, q]

theorem entryTaken_ct (k : EntryKey) (s : State) : (entryTaken k s).ct = (pruneFor k.x0
    { s with wt := { s.wt with track := s.wt.track.filter fun x => !decide (x.key = k) } }).ct := by
  simp only [entryTaken, askAttempt, dropPiece_frame]

theorem entryTaken_bins (k : EntryKey) (s : State) : (entryTaken k s).su.bins = (dropPiece k s).su.bins := by
  simp only [entryTaken, askAttempt, dropPiece, lowerRouted, pruneFor_frame]
  split
  · split <;> simp only [setBin, pruneFor_frame]
  · simp only [pruneFor_frame]

/-- A row left without an entry has its references leave the cut queue (R114). -/
theorem entryTaken_ct_last {k : EntryKey} {s : State} {x : Word} (hx : k.x0 = some x)
    (h : ∀ f ∈ s.wt.track, f.key ≠ k → f.x0 ≠ some x) : (entryTaken k s).ct = { s.ct with
      queue := s.ct.queue.filterMap fun b =>
        let after := if b.rowAfter = some x then none else b.rowAfter
        let before := if b.rowBefore = some x then none else b.rowBefore
        if after = b.rowAfter ∧ before = b.rowBefore then some b
        else if after = none ∧ before = none then none
        else some { b with rowAfter := after, rowBefore := before } } := by
  have gone : rowInTable
      { s with wt := { s.wt with track := s.wt.track.filter fun x => !decide (x.key = k) } } x = false := by
    simpa [rowInTable] using h
  rw [entryTaken_ct, hx]
  simp only [pruneFor, gone, Bool.false_eq_true, if_false, prunedBoundary_eq]

theorem entryTaken_ct_row {k : EntryKey} {s : State} {x : Word} (hx : k.x0 = some x)
    (h : ∃ f ∈ s.wt.track, f.key ≠ k ∧ f.x0 = some x) : (entryTaken k s).ct = s.ct := by
  have stays : rowInTable
      { s with wt := { s.wt with track := s.wt.track.filter fun x => !decide (x.key = k) } } x = true := by
    simpa [rowInTable, and_assoc] using h
  rw [entryTaken_ct, hx]
  simp only [pruneFor, stays, if_true]

theorem entryTaken_ct_unstarted {k : EntryKey} {s : State} (hx : k.x0 = none) : (entryTaken k s).ct = s.ct := by
  rw [entryTaken_ct, hx]
  rfl

theorem removeEntry_track (k : EntryKey) (s : State) :
    (removeEntry k s).wt.track = s.wt.track.filter fun x => !decide (x.key = k) := by
  cases h : findEntry s k with
  | none =>
    rw [removeEntry_none h, List.filter_eq_self.2]
    simpa using findEntry_eq_none.1 h
  | some e =>
    rw [removeEntry_eq h]
    cases e.ref with
    | none => rw [Option.elim_none, entryTaken_shape]
    | some r => simp only [Option.elim_some, judgeClose_frame]; rw [entryTaken_shape]

/-! ## Losses -/

theorem reportLoss_wt (cause : RejectCause) (e : Entry) (s : State) : (reportLoss cause e s).wt = s.wt := by
  unfold reportLoss
  split
  · split <;> simp only [rejectReport_frame]
  · simp only [patchLost_frame]
  · rfl

/-- A print that is not live by its flags (R98). -/
def Entry.spent (e : Entry) : Prop := e.flags.reject = true ∨ e.flags.lost = true ∨ e.flags.withdrawn = true

theorem live_iff {e : Entry} : e.live = true ↔ e.kind = .print ∧ ¬e.spent := by
  simp only [Entry.live, Entry.spent, Bool.and_eq_true, decide_eq_true_eq, Bool.not_eq_true', not_or,
    Bool.not_eq_true, and_assoc]

theorem reportLoss_live {cause : RejectCause} {e : Entry} {r : CopyRef} {s : State} (k : e.kind = .print)
    (h : e.ref = some r) (l : ¬e.spent) : reportLoss cause e s = rejectReport cause r s := by
  simp only [reportLoss, k, h, if_pos (live_iff.2 ⟨k, l⟩)]

theorem reportLoss_spent {cause : RejectCause} {e : Entry} {s : State} (k : e.kind = .print) (l : e.spent) :
    reportLoss cause e s = s := by
  have dead : ¬e.live = true := fun g => (live_iff.1 g).2 l
  cases h : e.ref <;> simp only [reportLoss, k, h, if_neg dead]

theorem reportLoss_blank {cause : RejectCause} {e : Entry} {s : State} (k : e.kind = .blank) :
    reportLoss cause e s = s := by simp only [reportLoss, k]

theorem reportLoss_calib {cause : RejectCause} {e : Entry} {s : State} (k : e.kind = .calib) :
    reportLoss cause e s = patchLost e.x0 s := by simp only [reportLoss, k]

theorem patchLost_patch {x : Option Word} {s : State} {p : Patch} (h : s.ca.state = .inFlight)
    (hp : s.ca.patch = some p) (e : x = some p.x0) :
    patchLost x s = askAttempt { s with ca := { s.ca with state := .due, patch := none } } := by
  simp only [patchLost, h, hp, e, if_true]

theorem patchLost_other {x : Option Word} {s : State}
    (h : s.ca.state ≠ .inFlight ∨ ∀ p, s.ca.patch = some p → x ≠ some p.x0) : patchLost x s = s := by
  unfold patchLost
  split
  next p st hp =>
    obtain h | h := h
    · exact absurd st h
    · exact if_neg fun e => h p hp e.symm
  next => rfl

theorem loseEntry_track (cause : RejectCause) (s : State) (k : EntryKey) :
    (loseEntry cause s k).wt.track = s.wt.track.filter fun x => !decide (x.key = k) := by
  cases h : findEntry s k with
  | none =>
    rw [loseEntry_none h, List.filter_eq_self.2]
    simpa using findEntry_eq_none.1 h
  | some e =>
    rw [loseEntry_eq h, removeEntry_track, reportLoss_wt]
    simp only [flagLost, updateEntry]
    induction s.wt.track with
    | nil => rfl
    | cons a l ih => by_cases q : a.key = k <;> simp_all [Entry.key]

theorem loseEntries_track (cause : RejectCause) (ks : List EntryKey) (s : State) :
    (ks.foldl (loseEntry cause) s).wt.track = s.wt.track.filter fun x => !decide (x.key ∈ ks) := by
  induction ks generalizing s with
  | nil => simp
  | cons k ks ih =>
    rw [List.foldl_cons, ih, loseEntry_track, List.filter_filter]
    congr 1
    funext x
    by_cases a : x.key = k <;> by_cases b : x.key ∈ ks <;> simp [a, b]

theorem mem_loseWhere {cause : RejectCause} {f : Entry → Bool} {s : State} {e : Entry} :
    e ∈ (loseWhere cause f s).wt.track ↔ e ∈ s.wt.track ∧ ∀ x ∈ s.wt.track, f x = true → x.key ≠ e.key := by
  rw [loseWhere, loseEntries_track]
  simp only [List.mem_filter, List.mem_map, Bool.not_eq_true', decide_eq_false_iff_not, not_exists, not_and, and_imp,
    ne_eq]

theorem mem_loseWhere_kept {cause : RejectCause} {f : Entry → Bool} {s : State} {e : Entry}
    (h : e ∈ (loseWhere cause f s).wt.track) : e ∈ s.wt.track ∧ f e = false := by
  obtain ⟨mem, kept⟩ := mem_loseWhere.1 h
  exact ⟨mem, Bool.eq_false_iff.2 fun lost => kept e mem lost rfl⟩

end Sys2Proof.Machine
end

section
/-! CLAIMS. What a reject report decides, and what removing or losing an entry comes to (R42, R103, R107, R108). -/

namespace Sys2Proof.Machine

/-- Settles O27. -/
theorem rejectDecided : Obligations.RejectDecided := by
  unfold Obligations.RejectDecided
  refine fun cause r s => ⟨rejectReport_gone, fun o h => ?_⟩
  intro o' s'
  have list : s'.rc.remakes.length + slotRemakes s' = s.rc.remakes.length + slotRemakes s := by
    simp only [s', slotRemakes_putOrder, putOrder_frame]
  refine ⟨fun ch p => rejectReport_withdrawing h p, fun p => ⟨fun a => ?_, fun a full => ?_, fun a room => ?_⟩⟩
  · rw [rejectReport_open h p, decideRemake_failed _ _ a]
    rfl
  · rw [rejectReport_open h p, decideRemake_full _ a (list.symm ▸ full)]
    rfl
  · rw [rejectReport_open h p, decideRemake_remade _ a (list.symm ▸ room)]
    rfl

/-- Settles O28. -/
theorem entriesRemoved : Obligations.EntriesRemoved := by
  unfold Obligations.EntriesRemoved
  refine ⟨fun k s => ⟨fun h => removeEntry_none (findEntry_eq_none.2 h), fun e h => ?_⟩,
    fun cause k s => ⟨fun h => loseEntry_none (findEntry_eq_none.2 h), fun e h => ?_, fun f =>
      ⟨rfl, fun e => mem_loseWhere_kept⟩⟩⟩
  · refine ⟨entryTaken k s, fun r => by rw [removeEntry_eq h, r]; rfl, fun r q => by rw [removeEntry_eq h, q]; rfl,
      entryTaken_shape k s, fun g => ?_, fun x g i => ?_, entryTaken_ct_unstarted, fun x hx =>
      ⟨entryTaken_ct_row hx, entryTaken_ct_last hx⟩⟩
    · rw [entryTaken_bins, dropPiece_bins_none g]
    · rw [entryTaken_bins, dropPiece_bins_some g, lowerRouted_bin]
  · intro flagged spent
    rw [loseEntry_eq h]
    refine ⟨fun r p q l => ?_, fun u => ?_, fun c => ⟨fun p st hp q => ?_, fun g => ?_⟩⟩
    · rw [reportLoss_live p q l]
      rfl
    · obtain ⟨p, l⟩ | b := u
      · rw [reportLoss_spent p l]
        rfl
      · rw [reportLoss_blank b]
        rfl
    · rw [reportLoss_calib c, patchLost_patch (s := flagLost k s) st hp q]
      rfl
    · rw [reportLoss_calib c, patchLost_other (s := flagLost k s) g]
      rfl

end Sys2Proof.Machine
end

section
/-! SUPPORT. What the end of an event adds to the track table, and the conveyor queue through removals (R36, R37, R142). -/

namespace Sys2Proof.Machine

/-! ## Committed entries -/

/-- Nothing has happened to the track table but new entries at its end, committed and not started. -/
def Appended (s t : State) : Prop :=
  ∃ l, t.wt.track = s.wt.track ++ l ∧ ∀ e ∈ l, e.x0 = none ∧ e.stage = .committed ∧ e.kind ≠ .blank

theorem Appended.of_wt {s t : State} (h : t.wt = s.wt) : Appended s t := ⟨[], by rw [h, List.append_nil], by simp⟩

theorem commitCalib_appended (s : State) : Appended s (commitCalib s) := ⟨_, rfl, by simp⟩

theorem commitPrint_appended (len : Nat) (a b : Option CopyRef) {s t : State} (h : t.wt = s.wt) :
    Appended s (commitPrint len a b t) := by
  refine ⟨_, by rw [← h]; rfl, fun e he => ?_⟩
  simp only [List.mem_append, Option.mem_toList, Option.map_eq_some_iff] at he
  obtain ⟨r, -, rfl⟩ | ⟨r, -, rfl⟩ := he <;> exact ⟨rfl, rfl, by simp [printEntry]⟩

theorem composePrint_appended (s : State) : Appended s (composePrint s) := by
  have first := (walk_keeps none walkSteps s).wt
  unfold composePrint
  split
  next t found =>
    rw [found] at first
    exact .of_wt first
  next t found =>
    rw [found] at first
    exact .of_wt first
  next r t found =>
    rw [found] at first
    have partner := (walk_keeps (some (remakeLines t r)) walkSteps t).wt
    dsimp only
    split
    · split <;> rename_i u <;> rw [u] at partner <;> exact commitPrint_appended _ _ _ (partner.trans first)
    · split <;> exact commitPrint_appended _ _ _ first

theorem compose_appended (s : State) : Appended s (compose s) := by
  unfold compose
  split
  · exact .of_wt rfl
  · split
    · split
      · exact commitCalib_appended s
      · exact .of_wt rfl
    · split
      · exact .of_wt rfl
      · by_cases room : roomFor s (if twoLanes s then 2 else 1) = true
        · rw [if_pos room]
          exact composePrint_appended s
        · rw [if_neg room]
          exact .of_wt rfl

theorem settle_appended (s : State) : Appended s (settle s) := by
  have wt : (settle s).wt = (if s.work.attempt then compose s else s).wt := by
    rw [settle_eq, settled_shape]
    simp only [startReads_frame]
  obtain ⟨l, e, new⟩ : Appended s (if s.work.attempt then compose s else s) := by
    split
    · exact compose_appended s
    · exact .of_wt rfl
  exact ⟨l, by rw [wt, e], new⟩

theorem Appended.mem {s t : State} (h : Appended s t) {e : Entry} (g : e ∈ s.wt.track) : e ∈ t.wt.track := by
  obtain ⟨l, e', -⟩ := h
  rw [e']
  exact List.mem_append_left _ g

theorem Appended.started {s t : State} (h : Appended s t) {e : Entry} (g : e ∈ t.wt.track) (x : e.x0.isSome) :
    e ∈ s.wt.track := by
  obtain ⟨l, e', new⟩ := h
  rw [e'] at g
  obtain g | g := List.mem_append.1 g
  · exact g
  · rw [(new e g).1] at x
    exact absurd x (by simp)

/-- What an event's end leaves of the entries of a started row. -/
theorem settle_started {s : State} {e : Entry} {x : Word} (g : e ∈ (settle s).wt.track) (h : e.x0 = some x) :
    e ∈ s.wt.track := (settle_appended s).started g (by rw [h]; rfl)

/-! ## The conveyor queue -/

theorem removeEntry_conveyor (k : EntryKey) (s : State) : (removeEntry k s).su.conveyor =
    if (findEntry s k).isSome then s.su.conveyor.filter fun x => !decide (x.piece = k) else s.su.conveyor := by
  cases h : findEntry s k with
  | none => rw [removeEntry_none h]; rfl
  | some e =>
    rw [removeEntry_eq h]
    cases e.ref with
    | none => rw [Option.elim_none, entryTaken_shape]; rfl
    | some r => simp only [Option.elim_some, judgeClose_frame]; rw [entryTaken_shape]; rfl

theorem loseEntry_conveyor {cause : RejectCause} {k : EntryKey} {s : State}
    (h : ∀ c ∈ s.su.conveyor, c.piece ≠ k) : (loseEntry cause s k).su.conveyor = s.su.conveyor := by
  cases g : findEntry s k with
  | none => rw [loseEntry_none g]
  | some e =>
    have kept : (reportLoss cause e (flagLost k s)).su.conveyor = s.su.conveyor := by
      unfold reportLoss
      split
      · split <;> simp [flagLost, updateEntry]
      · simp [flagLost, updateEntry]
      · rfl
    rw [loseEntry_eq g, removeEntry_conveyor, kept]
    split
    · rw [List.filter_eq_self.2]
      simpa using h
    · rfl

end Sys2Proof.Machine
end

section
/-! CLAIMS. Pieces at the sorter: misroutes and late marks, arrivals, routing, doors and countdowns (R131 to R141). -/

namespace Sys2Proof.Machine

theorem Fixed.lineKept {s t : State} (h : Fixed s t) : lineKept s t :=
  ⟨h.x, h.y, h.paperUsed, h.waste, h.conf, h.pins, h.lineClock, h.enables, h.pending⟩

/-! ## Misroutes -/

/-- A misrouted conveyor entry, before its track entry is lost: out of the queue, no longer routed, and a late mark made
(R136, R137). -/
def pieceMissing (c : ConvEntry) (s : State) : State := raiseLate c.dest 1 (lowerRouted c.dest (leaveConveyor c s))

theorem pieceMissing_shape (c : ConvEntry) (s : State) : pieceMissing c s = { s with
    su := { s.su with
      bins := (pieceMissing c s).su.bins
      conveyor := s.su.conveyor.filter fun x => !decide (x.piece = c.piece)
      late := (pieceMissing c s).su.late } } := by
  unfold pieceMissing lowerRouted
  split <;> rfl

theorem pieceMissing_bin (c : ConvEntry) (i : Fin 32) (s : State) : (pieceMissing c s).su.bins[i] =
    if c.dest.1 = i.1 then { s.su.bins[i] with routed := s.su.bins[i].routed - 1 } else s.su.bins[i] := by
  have bins : (pieceMissing c s).su.bins = (lowerRouted c.dest (leaveConveyor c s)).su.bins := by
    simp only [pieceMissing, raiseLate_frame]
  rw [bins, lowerRouted_bin]
  rfl

theorem pieceMissing_late (c : ConvEntry) (d : Fin 34) (s : State) : (pieceMissing c s).su.late[d] =
    if c.dest = d then { count := min 8 (s.su.late[d].count + 1), expiry := lateExpiryNow s } else s.su.late[d] := by
  have late : (lowerRouted c.dest (leaveConveyor c s)).su.late = s.su.late := by simp [leaveConveyor]
  have now : lateExpiryNow (lowerRouted c.dest (leaveConveyor c s)) = lateExpiryNow s := by
    simp [lateExpiryNow, State.cfg, leaveConveyor]
  unfold pieceMissing raiseLate
  rw [setLate_get, late, now]
  by_cases h : c.dest = d
  · subst h
    rfl
  · rw [if_neg h, if_neg h]

theorem execMisrouted_due {s : State} {c : ConvEntry} (run : s.conveyorRuns = true) (h : s.su.conveyor.head? = some c)
    (old : s.cfg.confirmLimit ≤ (s.cu.lineClock - c.stamp).toNat) :
    execMisrouted s = .next (event (misroute c) s) := by
  have due : overdue s = some c := by
    rw [overdue, h, Option.filter_some, if_pos]
    exact decide_eq_true old
  rw [execMisrouted, if_pos run, due]

theorem execMisrouted_early {s : State} {c : ConvEntry} (run : s.conveyorRuns = true)
    (h : s.su.conveyor.head? = some c) (young : (s.cu.lineClock - c.stamp).toNat < s.cfg.confirmLimit) :
    execMisrouted s = .next s := by
  have early : overdue s = none := by
    rw [overdue, h, Option.filter_some, if_neg]
    simpa [elapsed] using young
  rw [execMisrouted, if_pos run, early]

/-- Settles O46. -/
theorem misroutesAndLateMarks : Obligations.MisroutesAndLateMarks := by
  unfold Obligations.MisroutesAndLateMarks
  intro s ready stop
  have run := (conveyorRuns_iff s).2 ⟨ready, stop⟩
  refine ⟨fun c h started old => ?_, fun c h young => execMisrouted_early run h young, fun d held due => ?_⟩
  · let s' : State := { s with work := {} }
    let v := pieceMissing c s'
    let p := post .misrouted (destSubject c.dest) v
    let u := loseEntry .misrouted p c.piece
    have conv : u.su.conveyor = s.su.conveyor.filter fun x => !decide (x.piece = c.piece) := by
      have away : p.su.conveyor = s.su.conveyor.filter fun x => !decide (x.piece = c.piece) := by
        simp only [p, v, post_frame]
        rw [pieceMissing_shape]
      rw [loseEntry_conveyor, away]
      rw [away]
      simp
    have late : u.su.late = v.su.late := by simp [u, p]
    refine ⟨settle u, execMisrouted_due run h old, ?_, ?_, ?_, ?_, ?_, ?_, ?_, ?_, ?_, v, ?_, ?_, rfl⟩
    · simp [conv]
    · simpa [conv] using fun x hx ne => ⟨hx, ne⟩
    · intro e he same
      obtain ⟨x, hx⟩ := Option.isSome_iff_exists.1 started
      have old := settle_started he ((congrArg EntryKey.x0 same).trans hx)
      rw [loseEntry_track] at old
      simp [same] at old
    · exact ((loseEntry_sound _ _ _).trans (settle_sound _)).told _ _ (post_told _ _ v)
    · exact (event_fixed (f := misroute c) {}).lineKept
    · simp [u, p, v, pieceMissing, s', leaveConveyor]
    · simp [u, p, v, pieceMissing, s', leaveConveyor]
    · simp only [settle_frame, late, v, pieceMissing_late, if_true]
      rfl
    · intro d ne
      simp only [settle_frame, late, v, pieceMissing_late, if_neg ne.symm]
      rfl
    · simp only [settle_frame, late]
      exact pieceMissing_shape c s'
    · exact fun i => pieceMissing_bin c i s'
  · have due' : lateDue d s = true := by
      simp only [lateDue, run, Bool.true_and, Bool.and_eq_true, decide_eq_true_eq]
      exact ⟨held, due⟩
    exact congrArg Host.Outcome.next (eventWhen_due due')

/-! ## Arrivals -/

theorem arrive_late {d : Fin 34} {s : State} {n : Nat} (h : s.su.late[d].count = n + 1) :
    arrive d s = post .strayPrint (destSubject d) (setLate d { s.su.late[d] with count := n } s) := by
  simp only [arrive, h, Nat.succ_pos, if_true, Nat.add_sub_cancel, stray]

theorem arrive_stray {d : Fin 34} {s : State} (h : s.su.late[d].count = 0) (g : ∀ c ∈ s.su.conveyor, c.dest ≠ d) :
    arrive d s = post .strayPrint (destSubject d) s := by
  have none : oldestFor s d = none := by
    simpa only [oldestFor, List.find?_eq_none, decide_eq_true_eq] using g
  simp only [arrive, h, Nat.lt_irrefl, if_false, none, stray]

theorem arrive_matched {d : Fin 34} {s : State} {c : ConvEntry} (h : s.su.late[d].count = 0)
    (g : s.su.conveyor.find? (fun c => decide (c.dest = d)) = some c) : arrive d s = applyArrival c s := by
  have found : oldestFor s d = some c := g
  simp only [arrive, h, Nat.lt_irrefl, if_false, found]

/-- Settles O43. -/
theorem arrivalsMatched : Obligations.ArrivalsMatched := by
  unfold Obligations.ArrivalsMatched
  refine fun d s => ⟨fun stands => ?_, fun ready stop => ?_⟩
  · have still : s.conveyorRuns = false := by
      obtain h | h := stands <;> simp [State.conveyorRuns, h]
    exact congrArg Host.Outcome.next (eventWhen_not still)
  intro s'
  have run : exec (.arrival d) s = .next (settle (arrive d s')) :=
    congrArg Host.Outcome.next (eventWhen_due ((conveyorRuns_iff s).2 ⟨ready, stop⟩))
  rw [run]
  refine ⟨fun n h => ?_, fun h => ⟨fun g => ?_, fun c g => ?_⟩⟩
  · rw [arrive_late (s := s') h]
  · rw [arrive_stray (s := s') h g]
  intro u
  have dest : c.dest = d := of_decide_eq_true (List.find?_some g :)
  rw [arrive_matched (s := s') h g]
  refine ⟨fun tray => ?_, fun tray => ?_, fun i bin => ?_⟩
  · have reject : c.dest = 32 := dest.trans tray
    unfold applyArrival
    rw [reject]
    rfl
  · have catching : c.dest = 33 := dest.trans tray
    unfold applyArrival
    rw [catching]
    rfl
  · have named : binOfDest c.dest = some i := by
      rw [dest, binOfDest, dif_pos (by omega)]
      exact congrArg some (Fin.ext bin)
    unfold applyArrival
    rw [named]
    rfl

/-! ## Doors, countdowns and RELEASE_BIN -/

theorem setBin_setBin (i : Fin 32) (b c : Bin) (s : State) : setBin i b (setBin i c s) = setBin i b s := by
  simp only [setBin, Vector.set_set]

/-- A bin freed. -/
def binFreed (b : Bin) : Bin := { b with state := .free, owner := none, delivered := 0, routed := 0, countdown := none }

theorem freeBin_setBin (i : Fin 32) (b : Bin) (s : State) :
    freeBin i (setBin i b s) = askAttempt (setBin i (binFreed b) s) := by
  have bin : (setBin i b s).su.bins[i] = b := by rw [setBin_get, if_pos rfl]
  rw [freeBin, bin, setBin_setBin]
  rfl

/-- A bin, with its door closed. -/
def doorClosed (b : Bin) : Bin := { b with doorOpen := false }

/-- A closing door's sensor and flag, before the bin's state has its say (R139). -/
def doorShut (i : Fin 32) (s : State) : State := setBin i (doorClosed s.su.bins[i]) (setDoorPin i false s)

theorem closeDoor_kept {i : Fin 32} {s : State}
    (h : s.su.bins[i].state = .free ∨ s.su.bins[i].state = .reserved ∨ s.su.bins[i].state = .filling) :
    closeDoor i s = doorShut i s := by
  have bins : (setDoorPin i false s).su.bins[i] = s.su.bins[i] := rfl
  obtain h | h | h := h <;> simp only [closeDoor, bins, h, doorShut, doorClosed]

theorem closeDoor_complete {i : Fin 32} {s : State} (h : s.su.bins[i].state = .complete) :
    closeDoor i s = askAttempt (setBin i (binFreed (doorClosed s.su.bins[i])) (setDoorPin i false s)) := by
  have bins : (setDoorPin i false s).su.bins[i] = s.su.bins[i] := rfl
  simp only [closeDoor, bins, h, freeBin_setBin, doorClosed]

theorem closeDoor_full {i : Fin 32} {s : State} (h : s.su.bins[i].state = .full) :
    closeDoor i s = s.su.bins[i].owner.elim
      (askAttempt (setBin i (binFreed (doorClosed s.su.bins[i])) (setDoorPin i false s)))
      fun o => markEarly o i (askAttempt (setBin i (binFreed (doorClosed s.su.bins[i])) (setDoorPin i false s))) := by
  have bins : (setDoorPin i false s).su.bins[i] = s.su.bins[i] := rfl
  have owner : (setBin i (doorClosed s.su.bins[i]) (setDoorPin i false s)).su.bins[i].owner = s.su.bins[i].owner := by
    rw [setBin_get, if_pos rfl]
    rfl
  have shut : closeDoor i s = unloadEarly i (setBin i (doorClosed s.su.bins[i]) (setDoorPin i false s)) := by
    simp only [closeDoor, bins, h, doorClosed]
  rw [shut, unloadEarly, owner, freeBin_setBin]

theorem markEarly_open {o : Owner} {i : Fin 32} {s : State} {x : OpenOrder} (h : orderIn s o.slot o.number = some x) :
    markEarly o i s = putOrder o.slot
      { x with bins := x.bins.map fun p => if p.bin = i then { p with early := true } else p } s := by
  rw [markEarly, h]

theorem takeReleaseBin_cleared {n : Word} {s : State} (h : s.mc.state = .cleared) :
    takeReleaseBin n s = refuse .illegalState s := if_pos h

theorem takeReleaseBin_badBin {n : Word} {s : State} (h : s.mc.state ≠ .cleared)
    (g : s.cfg.binCount ≤ n.toNat ∨ 32 ≤ n.toNat) : takeReleaseBin n s = refuse .badOperand s := by
  rw [takeReleaseBin, if_neg h]
  split
  · rw [if_neg (by omega)]
  · rfl

theorem takeReleaseBin_bin {n : Word} {s : State} {i : Fin 32} (h : s.mc.state ≠ .cleared) (e : n.toNat = i.1)
    (g : i.1 < s.cfg.binCount) : takeReleaseBin n s =
      if s.su.bins[i].state = .complete then done (freeBin i s) else refuse .illegalState s := by
  obtain ⟨j, below⟩ := i
  obtain rfl : n.toNat = j := e
  rw [takeReleaseBin, if_neg h, dif_pos below, if_pos g]

/-- Settles O47. -/
theorem binsUnloaded : Obligations.BinsUnloaded := by
  unfold Obligations.BinsUnloaded
  refine ⟨fun i s => ?_, fun n s h idle => ?_⟩
  · intro b door freed
    let s' : State := { s with work := {} }
    refine ⟨fun shut => ?_, fun opened => ?_, fun e started due => ?_⟩
    · have run : exec (.doorOpen i) s = .next (settle (openDoor i s')) :=
        congrArg Host.Outcome.next (eventWhen_due (by simp only [shut, Bool.not_false]))
      have bins : (setDoorPin i true s').su.bins[i] = b := rfl
      rw [run]
      refine ⟨fun c => ?_, fun c => ?_, fun c => ?_⟩
      · obtain c | c := c <;> simp only [openDoor, bins, c] <;> rfl
      · obtain c | c := c <;> simp only [openDoor, bins, c] <;> rfl
      · simp only [openDoor, bins, c]
        rfl
    · have run : exec (.doorClose i) s = .next (settle (closeDoor i s')) :=
        congrArg Host.Outcome.next (eventWhen_due opened)
      rw [run]
      refine ⟨fun c => ?_, fun c => ?_, fun c owner => ?_, fun o x c owner held => ?_⟩
      · rw [closeDoor_kept (s := s') c]
        rfl
      · rw [closeDoor_complete (s := s') c]
        rfl
      · rw [closeDoor_full (s := s') c, show s'.su.bins[i].owner = none from owner]
        rfl
      · rw [closeDoor_full (s := s') c, show s'.su.bins[i].owner = some o from owner, Option.elim_some]
        exact congrArg (fun u => Host.Outcome.next (settle u)) (markEarly_open (x := x) held)
    · have due' : countdownDue i s = true := by
        simp only [countdownDue]
        rw [show s.su.bins[i].countdown = some e from started]
        exact due
      exact congrArg Host.Outcome.next (eventWhen_due due')
  · intro u
    have su : u.su = s.su := by simp [u, offered1, attended]
    have mc : u.mc = s.mc := by simp [u, offered1, attended]
    have cfg : u.cfg = s.cfg := by simp [u, offered1, attended, State.cfg]
    have run : exec (.releaseBin n) s = .next (settle (answered .releaseBin (takeReleaseBin n u))) :=
      congrArg Host.Outcome.next (event_posted1 .releaseBin n h idle)
    rw [run]
    refine ⟨fun c => ?_, fun c => ⟨fun g => ?_, fun i e g => ⟨fun k => ?_, fun k => ?_⟩⟩⟩
    · rw [takeReleaseBin_cleared (by rwa [mc])]
      rfl
    · rw [takeReleaseBin_badBin (by rwa [mc]) (by rwa [cfg])]
      rfl
    · rw [takeReleaseBin_bin (by rwa [mc]) e (by rwa [cfg]), su, if_neg k]
      rfl
    · rw [takeReleaseBin_bin (by rwa [mc]) e (by rwa [cfg]), su, if_pos k, ← su]
      rfl

end Sys2Proof.Machine
end

section
/-! CLAIMS. Pieces at the diverter and at the knife (R120 to R122, R131 to R133). -/

namespace Sys2Proof.Machine

/-! ## Routing -/

theorem route_spoiled {e : Entry} (s : State)
    (h : e.kind ≠ .print ∨ e.flags.reject = true ∨ e.flags.withdrawn = true) : route s e = { dest := rejectTray } := by
  have dead : e.live = false := by
    obtain h | h | h := h <;> simp [Entry.live, h]
  unfold route
  split
  · rw [dead]
    rfl
  · rfl

theorem route_live {e : Entry} {s : State} {r : CopyRef} {o : OpenOrder} (h : e.ref = some r) (l : e.live = true)
    (held : orderIn s r.slot r.number = some o) :
    route s e = routeLive s { slot := r.slot, number := r.number } o.bins := by
  simp only [route, h, l, if_true, placesOf, held, Option.elim_some]

theorem routeLive_shut {s : State} {w : Owner} {l : List BinPlace} {p : BinPlace}
    (h : l.find? (isCandidate s w) = some p) (shut : s.su.bins[p.bin].doorOpen = false) :
    routeLive s w l = { dest := destOfBin p.bin } := by
  rw [routeLive, h]
  exact if_neg (by rw [shut]; exact Bool.false_ne_true)

theorem routeLive_opened {s : State} {w : Owner} {l : List BinPlace} {p : BinPlace}
    (h : l.find? (isCandidate s w) = some p) (opened : s.su.bins[p.bin].doorOpen = true) :
    routeLive s w l = { dest := catchTray, split := some (binSubject p.bin) } := by
  rw [routeLive, h]
  exact if_pos opened

theorem routeLive_none {s : State} {w : Owner} {l : List BinPlace} (h : l.find? (isCandidate s w) = none) :
    routeLive s w l = { dest := catchTray, split := some (l.head?.elim 0 fun p => binSubject p.bin) } := by
  rw [routeLive, h]

/-- A piece placed: its entry in CONVEYOR, and its place at the end of the queue (R131, R133). -/
theorem placePiece_joined (e : Entry) (r : Routing) (s : State) :
    let u := raiseRouted r.dest (splitPiece e.key r s)
    placePiece e r s = { u with
      wt := { u.wt with
        track := u.wt.track.map fun x => if x.key = e.key then { x with stage := .conveyor } else x }
      su := { u.su with conveyor := s.su.conveyor ++ [{ piece := e.key, dest := r.dest, stamp := s.cu.lineClock }] } } := by
  intro u
  have conveyor : u.su.conveyor = s.su.conveyor := by simp [u]
  have clock : u.cu.lineClock = s.cu.lineClock := by simp [u]
  rw [← conveyor, ← clock]
  rfl

theorem raiseRouted_bin (i : Fin 32) (s : State) : raiseRouted (destOfBin i) s =
    setBin i { s.su.bins[i] with routed := s.su.bins[i].routed + 1 } s := by
  have bin : binOfDest (destOfBin i) = some i := dif_pos i.2
  rw [raiseRouted, bin]

theorem divertPiece_gone {k : EntryKey} {s : State} (h : findEntry s k = none) :
    divertPiece k s = { s with su := { s.su with awaiting := s.su.awaiting.tail } } := by
  have gone : findEntry { s with su := { s.su with awaiting := s.su.awaiting.tail } } k = none := h
  simp only [divertPiece, gone]

theorem divertPiece_found {k : EntryKey} {s : State} {e : Entry} (h : findEntry s k = some e) :
    let t : State := { s with su := { s.su with awaiting := s.su.awaiting.tail } }
    divertPiece k s =
      if s.su.conveyor.length < Config.conveyorCap then placePiece e (route t e) t else overflowPiece e (route t e) t := by
  intro t
  have found : findEntry t k = some e := h
  simp only [divertPiece]
  rw [show findEntry { s with su := { s.su with awaiting := s.su.awaiting.tail } } k = some e from found]

/-- Settles O42. -/
theorem piecesRouted : Obligations.PiecesRouted := by
  unfold Obligations.PiecesRouted
  intro s k rest ready stop waiting placed s' qualifies splitOff
  have run : exec .pieceAtDiverter s = .next (settle (divertPiece k { s with work := {} })) := by
    have moving := (conveyorRuns_iff s).2 ⟨ready, stop⟩
    change execPieceAtDiverter s = _
    rw [execPieceAtDiverter, if_pos moving, waiting]
    rfl
  have shorter : ({ s with su := { s.su with awaiting := s.su.awaiting.tail }, work := {} } : State) = s' := by
    simp only [waiting, List.tail_cons, s']
  rw [run]
  refine ⟨fun gone => ?_, fun e found => ⟨fun room => ?_, fun full started => ?_⟩⟩
  · rw [divertPiece_gone (s := { s with work := {} }) gone]
    exact congrArg (fun u => Host.Outcome.next (settle u)) shorter
  · have divert : divertPiece k { s with work := {} } = placePiece e (route s' e) s' := by
      refine (divertPiece_found (s := { s with work := {} }) found).trans ((if_pos room).trans ?_)
      rw [← shorter]
    rw [divert, placePiece_joined]
    refine ⟨fun spoiled => ?_, fun r o h l held => ?_⟩
    · rw [route_spoiled s' spoiled]
      rfl
    · intro owner
      rw [route_live (s := s') h l held]
      refine ⟨fun p cand => ⟨fun shut => ?_, fun opened => ?_⟩, fun none p first => ?_⟩
      · rw [routeLive_shut (s := s') cand shut, raiseRouted_bin]
        rfl
      · rw [routeLive_opened (s := s') cand opened]
        rfl
      · rw [routeLive_none (s := s') none, first]
        rfl
  · have divert : divertPiece k { s with work := {} } = overflowPiece e (route s' e) s' := by
      refine (divertPiece_found (s := { s with work := {} }) found).trans ((if_neg (Nat.not_lt.2 full)).trans ?_)
      rw [← shorter]
    have key : e.key = k := of_decide_eq_true (List.find?_some found :)
    obtain ⟨x0, hx0⟩ := Option.isSome_iff_exists.1 started
    let u := overflowPiece e (route s' e) s'
    have track : u.wt.track = s.wt.track.filter fun x => !decide (x.key = k) := by
      simp only [u, overflowPiece, loseEntry_track, post_frame, key, s']
    have kept := (event_fixed (f := divertPiece k) (s := s) {}).lineKept
    rw [event, divert] at kept
    refine ⟨settle u, by rw [divert], fun x hx same => ?_, fun x hx other => ?_, kept, ?_, ?_⟩
    · have old := settle_started hx ((congrArg EntryKey.x0 same).trans hx0)
      rw [track] at old
      simp [same] at old
    · refine (settle_appended u).mem ?_
      rw [track]
      simp [hx, other]
    · simp [u, overflowPiece, s']
    intro overflows
    have dropped {d : Fin 34} (h : (route s' e).dest = d) : overflows d := by
      have form : u = loseEntry .conveyorFull (post .conveyorFull (destSubject d) s') k := by
        rw [← h, ← key]
        rfl
      refine ⟨?_, by rw [form]⟩
      rw [form]
      exact ((loseEntry_sound _ _ _).trans (settle_sound _)).told _ _ (post_told _ _ s')
    refine ⟨fun spoiled => dropped (by rw [route_spoiled s' spoiled]; rfl), fun r o h l held => ?_⟩
    intro owner
    have routed := route_live (s := s') h l held
    refine ⟨fun p cand => ⟨fun shut => dropped ?_, fun opened => dropped ?_⟩, fun none => dropped ?_⟩
    · rw [routed, routeLive_shut (s := s') cand shut]
    · rw [routed, routeLive_opened (s := s') cand opened]
      rfl
    · rw [routed, routeLive_none (s := s') none]
      rfl

/-! ## The knife -/

theorem boundaryAtKnife_due {s : State} {b : Boundary} {rest : List Boundary} (h : s.ct.queue = b :: rest)
    (judged : b.mark ≠ .pending)
    (due : reached s.wt.y (b.pos + lines s.cfg.lCut + BitVec.ofInt 32 b.delta) = true) :
    boundaryAtKnife s = some b := by
  rw [boundaryAtKnife, h, List.head?_cons, Option.filter_some, if_pos]
  rw [Bool.and_eq_true]
  exact ⟨by simpa using judged, due⟩

/-- The rows of the track that are handed to the sorter, and those that are not (R122). -/
theorem cutEntries_eq (l : List Entry) (h : ∀ e ∈ l, e.kind ≠ .blank) (s : State) : l.foldl cutEntry s = { s with
    wt := { s.wt with track := s.wt.track.map fun e => if e.key ∈ l.map (·.key) then { e with stage := .cut } else e }
    su := { s.su with awaiting := s.su.awaiting ++ l.map (·.key) } } := by
  induction l generalizing s with
  | nil => simp
  | cons a l ih =>
    have step : cutEntry s a = { s with
        wt := { s.wt with track := s.wt.track.map fun e => if e.key = a.key then { e with stage := .cut } else e }
        su := { s.su with awaiting := s.su.awaiting ++ [a.key] } } := by
      have k := h a (by simp)
      unfold cutEntry
      split
      · exact absurd ‹_› k
      · rfl
      · rfl
    rw [List.foldl_cons, ih fun e he => h e (by simp [he]), step]
    simp only [List.map_map, List.append_assoc, List.map_cons, List.singleton_append, List.mem_cons]
    congr 3
    funext e
    by_cases p : e.key = a.key
    · simp only [Function.comp_apply, p, true_or, if_true]
      split <;> rfl
    · simp only [Function.comp_apply, if_neg p]
      simp only [p, false_or]

theorem removeBlanks_track (l : List Entry) (h : ∀ e ∈ l, e.kind = .blank) (s : State) :
    (l.foldl cutEntry s).wt.track = s.wt.track.filter fun x => !decide (x.key ∈ l.map (·.key)) := by
  induction l generalizing s with
  | nil => simp
  | cons a l ih =>
    have step : cutEntry s a = removeEntry a.key s := by rw [cutEntry, h a (by simp)]
    rw [List.foldl_cons, ih fun e he => h e (by simp [he]), step, removeEntry_track, List.filter_filter]
    congr 1
    funext x
    by_cases p : x.key = a.key <;> by_cases q : x.key ∈ l.map (·.key) <;> simp [p, q]

/-- Removing an entry leaves a cut queue that names nothing of its row. -/
theorem removeEntry_ct_kept {k : EntryKey} {s : State} {x : Word} (hk : k.x0 = some x)
    (h : ∀ q ∈ s.ct.queue, q.rowBefore ≠ some x ∧ q.rowAfter ≠ some x) : (removeEntry k s).ct = s.ct := by
  have pruned : (entryTaken k s).ct = s.ct := by
    by_cases last : ∀ f ∈ s.wt.track, f.key ≠ k → f.x0 ≠ some x
    · rw [entryTaken_ct_last hk last]
      have same : (s.ct.queue.filterMap fun b =>
          let after := if b.rowAfter = some x then none else b.rowAfter
          let before := if b.rowBefore = some x then none else b.rowBefore
          if after = b.rowAfter ∧ before = b.rowBefore then some b
          else if after = none ∧ before = none then none
          else some { b with rowAfter := after, rowBefore := before }) = s.ct.queue := by
        rw [List.filterMap_congr (g := some) fun q hq => ?_, List.filterMap_some]
        obtain ⟨before, after⟩ := h q hq
        simp [before, after]
      rw [same]
    · push Not at last
      exact entryTaken_ct_row hk last
  cases g : findEntry s k with
  | none => rw [removeEntry_none g]
  | some e =>
    rw [removeEntry_eq g]
    cases e.ref with
    | none => exact pruned
    | some r => simpa only [Option.elim_some, judgeClose_frame] using pruned

theorem removeBlanks_ct {x : Word} (l : List Entry) (h : ∀ e ∈ l, e.kind = .blank ∧ e.x0 = some x) (s : State)
    (g : ∀ q ∈ s.ct.queue, q.rowBefore ≠ some x ∧ q.rowAfter ≠ some x) : (l.foldl cutEntry s).ct = s.ct := by
  induction l generalizing s with
  | nil => rfl
  | cons a l ih =>
    obtain ⟨blank, row⟩ := h a (by simp)
    have step : cutEntry s a = removeEntry a.key s := by rw [cutEntry, blank]
    have kept : (removeEntry a.key s).ct = s.ct := removeEntry_ct_kept row g
    rw [List.foldl_cons, step, ih (fun e he => h e (by simp [he])) _ (by rwa [kept]), kept]

/-- Settles O41. -/
theorem knifeFires : Obligations.KnifeFires := by
  unfold Obligations.KnifeFires
  intro s b rest feeds waiting judged due
  have run : exec .knifeFire s = .next (event (fireKnife b) s) := by
    change execKnifeFire s = _
    rw [execKnifeFire, if_pos ((feedRuns_iff s).2 feeds), boundaryAtKnife_due waiting judged due]
  let t : State := { s with ct := { s.ct with queue := rest }, work := {} }
  have fired : fireKnife b { s with work := {} } = (processingOf t b.rowBefore).foldl cutEntry t := by
    have tail : ({ s with ct := { s.ct with queue := s.ct.queue.tail }, work := {} } : State) = t := by
      rw [waiting, List.tail_cons]
    rw [← tail]
    rfl
  refine ⟨fun none => ?_, fun x row => ?_⟩
  · have idle : processingOf t b.rowBefore = [] := by
      rw [none, processingOf, List.filter_eq_nil_iff]
      rintro e -
      cases h : e.x0 <;> simp
    rw [run, event, fired, idle]
    rfl
  have freed (h : ∀ e ∈ s.wt.track, e.x0 = some x → e.stage = .processing) :
      processingOf t b.rowBefore = s.wt.track.filter fun e => decide (e.x0 = some x) := by
    rw [row, processingOf]
    refine List.filter_congr fun e he => ?_
    by_cases q : e.x0 = some x
    · simp [q, h e he q]
    · simp [q]
  refine ⟨fun ready => ?_, fun blank => ?_⟩
  · have whole : ∀ e ∈ s.wt.track.filter fun e => decide (e.x0 = some x), e.kind ≠ .blank := by
      simpa using fun e he q => (ready e he q).2
    have row (e : Entry) (he : e ∈ s.wt.track) :
        e.key ∈ (s.wt.track.filter fun e => decide (e.x0 = some x)).map (·.key) ↔ e.x0 = some x := by
      simp only [List.mem_map, List.mem_filter, decide_eq_true_eq]
      refine ⟨?_, fun h => ⟨e, ⟨he, h⟩, rfl⟩⟩
      rintro ⟨f, ⟨-, hf⟩, same⟩
      rw [← hf]
      exact (congrArg EntryKey.x0 same).symm
    have moved : t.wt.track.map (fun e =>
          if e.key ∈ (s.wt.track.filter fun e => decide (e.x0 = some x)).map (·.key) then { e with stage := .cut } else e) =
        s.wt.track.map fun e => if e.x0 = some x then { e with stage := .cut } else e :=
      List.map_congr_left fun e he => by simp only [row e he]
    rw [run, event, fired, freed fun e he q => (ready e he q).1, cutEntries_eq _ whole, moved]
  · have whole : ∀ e ∈ s.wt.track.filter fun e => decide (e.x0 = some x), e.kind = .blank ∧ e.x0 = some x := by
      simpa using fun e he q => ⟨(blank e he q).1, q⟩
    let u := (s.wt.track.filter fun e => decide (e.x0 = some x)).foldl cutEntry t
    have fired' : fireKnife b { s with work := {} } = u := by
      rw [fired, freed fun e he q => (blank e he q).2.2]
    have track : u.wt.track = s.wt.track.filter fun e => !decide (e.key ∈
        (s.wt.track.filter fun e => decide (e.x0 = some x)).map (·.key)) :=
      removeBlanks_track _ (fun e he => (whole e he).1) t
    have kept := event_fixed (f := fireKnife b) (s := s) {}
    have mc : (event (fireKnife b) s).mc = s.mc := by simp [event]
    rw [event, fired'] at kept mc
    refine ⟨settle u, by rw [run, event, fired'], fun e he same => ?_, kept.y, fun e he other => ?_, kept.lineKept, mc,
      fun apart => ?_⟩
    · have old := settle_started he same
      rw [track] at old
      obtain ⟨mem, gone⟩ := List.mem_filter.1 old
      simp at gone
      exact gone e mem same rfl
    · refine (settle_appended u).mem ?_
      rw [track, List.mem_filter]
      refine ⟨he, ?_⟩
      simp only [List.mem_map, List.mem_filter, decide_eq_true_eq, Bool.not_eq_true', decide_eq_false_iff_not]
      rintro ⟨f, ⟨-, row⟩, same⟩
      exact other ((congrArg EntryKey.x0 same).symm.trans row)
    · have away : ∀ q ∈ t.ct.queue, q.rowBefore ≠ some x ∧ q.rowAfter ≠ some x := by simpa using apart
      have ct : u.ct = t.ct := removeBlanks_ct _ whole t away
      simp only [settle_frame, ct, t]

end Sys2Proof.Machine
end

section
/-! SUPPORT. Late counts over the conveyor, the end of an event outside RUNNING, and the conditions judged, exactly (R142,
R168, R185). -/

namespace Sys2Proof.Machine

/-! ## Late counts -/

/-- The late counts and expiries replaced as a whole. -/
def withLate (v : Vector Late 34) (s : State) : State := { s with su := { s.su with late := v } }

/-- A fold of changes of one late count each, over destinations named once, changes just those. -/
theorem fold_late {h : State → Fin 34 → State} {g : Fin 34 → Late → Late} {s : State}
    (step : ∀ v d, h (withLate v s) d = withLate (v.set d.1 (g d v[d]) d.2) s)
    (l : List (Fin 34)) (once : l.Nodup) (v : Vector Late 34) :
    l.foldl h (withLate v s) = withLate (Vector.ofFn fun d => if d ∈ l then g d v[d] else v[d]) s := by
  induction l generalizing v with
  | nil =>
    refine congrArg (withLate · s) (Vector.ext fun i hi => ?_)
    simp
  | cons a l ih =>
    obtain ⟨away, once⟩ := List.nodup_cons.1 once
    rw [List.foldl_cons, step, ih once]
    refine congrArg (withLate · s) (Vector.ext fun i hi => ?_)
    rw [Vector.getElem_ofFn, Vector.getElem_ofFn]
    by_cases e : (⟨i, hi⟩ : Fin 34) = a
    · subst e
      simp [away]
    · have ne : a.1 ≠ i := fun f => e (Fin.ext f.symm)
      simp [e, ne]

theorem fold_late_all {h : State → Fin 34 → State} {g : Fin 34 → Late → Late} {s : State}
    (step : ∀ v d, h (withLate v s) d = withLate (v.set d.1 (g d v[d]) d.2) s) :
    (List.finRange 34).foldl h s = withLate (Vector.ofFn fun d => g d s.su.late[d]) s := by
  refine (fold_late step (List.finRange 34) (List.nodup_finRange 34) s.su.late).trans ?_
  refine congrArg (withLate · s) (Vector.ext fun i hi => ?_)
  rw [Vector.getElem_ofFn, Vector.getElem_ofFn, if_pos (List.mem_finRange _)]

/-- A late count left as it is. -/
theorem withLate_same (v : Vector Late 34) (d : Fin 34) (s : State) :
    withLate v s = withLate (v.set d.1 v[d] d.2) s := by
  refine congrArg (withLate · s) (Vector.ext fun i hi => ?_)
  rw [Vector.getElem_set]
  split
  next e => subst e; rfl
  next => rfl

/-- A destination's late count once its conveyor entries are lost (R142). -/
def lateRaised (s : State) (d : Fin 34) : Late :=
  if conveyedTo s d = 0 then s.su.late[d]
  else { count := min 8 (s.su.late[d].count + conveyedTo s d), expiry := lateExpiryNow s }

theorem raiseLateForConveyor_eq (s : State) :
    raiseLateForConveyor s = withLate (Vector.ofFn (lateRaised s)) s := by
  refine fold_late_all (s := s) (g := fun d l => if conveyedTo s d = 0 then l
    else { count := min 8 (l.count + conveyedTo s d), expiry := lateExpiryNow s }) fun v d => ?_
  by_cases none : conveyedTo s d = 0
  · simp only [none, if_true]
    exact withLate_same v d s
  · rw [if_neg none, if_neg none]
    rfl

/-- A destination's late expiry counted afresh (R142). -/
def lateRestarted (s : State) (d : Fin 34) : Late :=
  if s.su.late[d].count = 0 then s.su.late[d]
  else { count := min 8 s.su.late[d].count, expiry := lateExpiryNow s }

theorem restartLate_eq (s : State) : restartLate s = withLate (Vector.ofFn (lateRestarted s)) s := by
  refine fold_late_all (s := s) (g := fun _ l => if l.count = 0 then l
    else { count := min 8 l.count, expiry := lateExpiryNow s }) fun v d => ?_
  have same : (withLate v s).su.late[d] = v[d] := rfl
  rw [same]
  by_cases none : v[d].count = 0
  · rw [if_pos none, if_pos none]
    exact withLate_same v d s
  · rw [if_neg none, if_neg none]
    rfl

/-! ## The end of an event outside RUNNING -/

theorem compose_still {s : State} (h : s.mc.state ≠ .running) : compose s = s := if_pos (.inr (.inl h))

/-- Outside RUNNING, and with no attempt owed, an event ends with line reads and the status block. -/
theorem settle_still {s : State} (h : s.mc.state ≠ .running ∨ s.work.attempt = false) :
    settle s = settled (startReads s) := by
  have none : (if s.work.attempt then compose s else s) = s := by
    split
    next a =>
      obtain h | h := h
      · exact compose_still h
      · simp [a] at h
    next => rfl
  rw [settle_eq, none]

theorem settle_still_frame {s : State} (h : s.mc.state ≠ .running ∨ s.work.attempt = false) :
    (settle s).cu = s.cu ∧ (settle s).om = s.om ∧ (settle s).rc = s.rc ∧ (settle s).wt = s.wt ∧
      (settle s).su = s.su ∧ (settle s).pu = s.pu := by
  rw [settle_still h, settled_shape]
  simp

/-- What the status block shows of Machine Control after an event that owes it (R185). -/
theorem settle_status {s : State} (h : Memory.wf s.store) (owed : s.work.status = true) :
    Memory.read8 (settle s).store 0x200 = s.mc.state.code ∧ Memory.read8 (settle s).store 0x201 = s.mc.faultCause.code ∧
      Memory.read8 (settle s).store 0x202 = s.mc.pauseCause.code := by
  obtain ⟨-, -, -, -, -, words⟩ := eventEnd s
  obtain ⟨state, fault, pause, -⟩ := words h owed
  exact ⟨by rw [state]; simp, by rw [fault]; simp, by rw [pause]; simp⟩

/-- The status block's writing keeps every byte outside the block (R185). -/
theorem writeStatus_read (s : State) {a : Nat} (h : a < 0x200 ∨ 0x230 ≤ a) :
    Memory.read (writeStatus s).store a = Memory.read s.store a := by
  simp only [writeStatus, Memory.write8, Memory.write16, Memory.write32, Memory.writeWord]
  simp (disch := omega) only [Memory.read_writeNat]

/-- An answer in the cell stands through the end of an event that composes nothing. -/
theorem answered_settle {c : Command} {rc : ReplyCode} {data : Nat} {u : State} (h : Memory.wf u.store)
    (small : data < 65536) (attn : u.cu.attnPending = false)
    (still : u.mc.state ≠ .running ∨ u.work.attempt = false) :
    answeredWith c.code rc data (replied c rc data u) := by
  obtain ⟨reply, marker, -⟩ := complete_words c rc data h small
  have still' : (complete c.code rc data u).mc.state ≠ .running ∨ (complete c.code rc data u).work.attempt = false := still
  have kept (a : Nat) (ha : a < 0x200) :
      Memory.read (replied c rc data u).store a = Memory.read (complete c.code rc data u).store a := by
    rw [replied, settle_still still', settled]
    have same : (startReads (complete c.code rc data u)).store = (complete c.code rc data u).store := by simp
    dsimp only
    split
    · rw [writeStatus_read _ (.inl ha), same]
    · rw [same]
  refine ⟨?_, ?_, ?_, ?_⟩
  · rw [← reply]
    exact Memory.read32_congr fun b _ hb => kept b (by omega)
  · rw [← marker]
    exact Memory.read32_congr fun b _ hb => kept b (by omega)
  · simp [replied, complete]
  · simp [replied, complete, attn]

/-! ## Conditions -/

theorem present_congr {s t : State} (p : t.pins = s.pins) (m : t.ct.misses = s.ct.misses) (c : FaultCause) :
    present t c = present s c := by
  cases c <;> simp only [present, p, CtState.marksLost, m]

theorem noCondition_congr {s t : State} (p : t.pins = s.pins) (m : t.ct.misses = s.ct.misses) (h : noCondition s) :
    noCondition t := fun c => by rw [present_congr p m]; exact h c

theorem judgeConditions_none {s : State} (h : noCondition s) : judgeConditions s = s := by
  have clear (l : List FaultCause) : l.foldl (fun t c => if present t c then takeCondition c t else t) s = s := by
    induction l with
    | nil => rfl
    | cons c l ih => rw [List.foldl_cons, h c]; exact ih
  exact clear _

/-- Once FAULTED, further conditions leave state and causes. -/
theorem judgeList_faulted (l : List FaultCause) {s : State} (h : s.mc.state = .faulted) :
    let t := l.foldl (fun t c => if present t c then takeCondition c t else t) s
    t.mc.state = .faulted ∧ t.mc.faultCause = s.mc.faultCause ∧ t.mc.pauseCause = s.mc.pauseCause := by
  induction l generalizing s with
  | nil => exact ⟨h, rfl, rfl⟩
  | cons c l ih =>
    have first : (if present s c then takeCondition c s else s).mc.state = .faulted ∧
        (if present s c then takeCondition c s else s).mc.faultCause = s.mc.faultCause ∧
        (if present s c then takeCondition c s else s).mc.pauseCause = s.mc.pauseCause := by
      split
      · have taken : takeCondition c s = furtherFault c s := by rw [takeCondition, h]
        rw [taken]
        obtain e | e := furtherFault_mc c s <;> rw [e] <;> exact ⟨h, rfl, rfl⟩
      · exact ⟨h, rfl, rfl⟩
    obtain ⟨state, fault, pause⟩ := first
    obtain ⟨state', fault', pause'⟩ := ih state
    exact ⟨state', fault'.trans fault, pause'.trans pause⟩

/-- A condition judged present in a running, pausing or paused machine is its fault cause (R168). -/
theorem judgeList_present (l : List FaultCause) {s : State}
    (h : s.mc.state = .running ∨ s.mc.state = .pausing ∨ s.mc.state = .paused) {c : FaultCause} (hc : c ∈ l)
    (p : present s c = true) :
    let t := l.foldl (fun t c => if present t c then takeCondition c t else t) s
    t.mc.state = .faulted ∧ present s t.mc.faultCause = true ∧ t.mc.pauseCause = .noPause := by
  induction l with
  | nil => simp at hc
  | cons b l ih =>
    by_cases q : present s b
    · have taken : takeCondition b s = enterFault b s := by
        obtain e | e | e := h <;> rw [takeCondition, e]
      have mc := enterFault_mc b s
      obtain ⟨state, fault, pause⟩ := judgeList_faulted l (s := enterFault b s) (by rw [mc])
      rw [mc] at fault pause
      simp only [List.foldl_cons, q, if_true, taken]
      exact ⟨state, by rw [fault]; exact q, pause⟩
    · have next : c ∈ l := by
        obtain rfl | g := List.mem_cons.1 hc
        · exact absurd p q
        · exact g
      simp only [List.foldl_cons, q, if_false, Bool.false_eq_true]
      exact ih next

theorem judgeConditions_present {s : State}
    (h : s.mc.state = .running ∨ s.mc.state = .pausing ∨ s.mc.state = .paused) (g : ¬noCondition s) :
    (judgeConditions s).mc.state = .faulted ∧ present s (judgeConditions s).mc.faultCause = true ∧
      (judgeConditions s).mc.pauseCause = .noPause := by
  obtain ⟨c, p⟩ := not_forall.1 g
  have p : present s c = true := by simpa using p
  refine judgeList_present faultCauses h (c := c) ?_ p
  cases c <;> first | decide | exact absurd p (by simp [present])

end Sys2Proof.Machine
end

section
/-! CLAIMS. CLEAR_FAULT, PAUSE, the drain, the paper's end and the sensors outside a run (R106, R165 to R171). -/

namespace Sys2Proof.Machine

/-- A command with no operand posted to an idle cell ends its event with its owner's answer. -/
theorem exec_posted0 {i : Instr} {c : Command} {s : State} (h : StoreCanonical s) (idle : s.cu.job = none)
    (e : exec i s = .next (event (posted0 c) s)) :
    exec i s = .next (settle (answered c (runCommand c (cellWord1 s.store) (cellWord2 s.store) (offered0 c s)))) := by
  rw [e, event_posted0 c h idle]

/-! ## CLEAR_FAULT -/

theorem takeClearFault_illegal {s : State} (h : s.mc.state ≠ .faulted) : takeClearFault s = refuse .illegalState s :=
  if_pos h

theorem takeClearFault_present {s : State} {c : FaultCause} (f : s.mc.state = .faulted)
    (h : faultCauses.find? (present s) = some c) : takeClearFault s = .reply .conditionPresent c.code s := by
  rw [takeClearFault, if_neg (not_not.2 f), h]

theorem takeClearFault_clear {s : State} (f : s.mc.state = .faulted)
    (h : faultCauses.find? (present s) = none) : takeClearFault s = done (leaveFault s) := by
  rw [takeClearFault, if_neg (not_not.2 f), h]

/-- The state FAULTED is left for (R171). -/
def faultLeft (m : McState) : McState :=
  { m with state := .paused, faultCause := .noFault, pauseCause := .faultCleared, convStop := false }

theorem leaveFault_eq (s : State) : leaveFault s = askStatus (if s.mc.convStop then
      restartLate { s with mc := faultLeft s.mc } else { s with mc := faultLeft s.mc }) := rfl

theorem leaveFault_late (s : State) (d : Fin 34) :
    (leaveFault s).su.late[d] = if s.mc.convStop ∧ s.su.late[d].count ≠ 0 then
      { count := min 8 s.su.late[d].count, expiry := lateExpiryNow s } else s.su.late[d] := by
  rw [leaveFault_eq]
  by_cases stood : s.mc.convStop
  · have late : (askStatus (restartLate { s with mc := faultLeft s.mc })).su.late[d] =
        lateRestarted { s with mc := faultLeft s.mc } d := by
      rw [restartLate_eq]
      exact Vector.getElem_ofFn _
    rw [if_pos stood, late, lateRestarted]
    by_cases none : s.su.late[d].count = 0
    · rw [if_pos none, if_neg (fun g => g.2 none)]
    · rw [if_neg none, if_pos ⟨stood, none⟩]
      rfl
  · rw [if_neg stood, if_neg (fun g => stood g.1)]
    rfl

/-- Settles O13. -/
theorem clearFaultLeavesFaulted : Obligations.ClearFaultLeavesFaulted := by
  unfold Obligations.ClearFaultLeavesFaulted
  intro s h idle u
  have run : exec .clearFault s = .next (settle (answered .clearFault (takeClearFault u))) := exec_posted0 h idle rfl
  have mc : u.mc = s.mc := by simp [u]
  have pins : u.pins = s.pins := by simp [u]
  have misses : u.ct.misses = s.ct.misses := by simp [u]
  have judged : present u = present s := funext (present_congr pins misses)
  rw [run]
  refine ⟨fun live => ?_, fun f a => ?_, fun f a b => ?_, fun f a b c => ?_, fun f a b c d => ?_, fun f a b c d => ?_⟩
  · rw [takeClearFault_illegal (by rwa [mc])]
    rfl
  · rw [takeClearFault_present (c := .coverOpen) (by rwa [mc]) (by simp [judged, faultCauses, present, a])]
    rfl
  · rw [takeClearFault_present (c := .jamWeb) (by rwa [mc]) (by simp [judged, faultCauses, present, a, b])]
    rfl
  · rw [takeClearFault_present (c := .jamConveyor) (by rwa [mc]) (by simp [judged, faultCauses, present, a, b, c])]
    rfl
  · rw [takeClearFault_present (c := .marksLost) (by rwa [mc])
      (by simp [judged, faultCauses, present, a, b, c, d, CtState.marksLost])]
    rfl
  intro mc'
  have work : u.work = {} := by simp [u]
  have done' : takeClearFault u = done (leaveFault u) := takeClearFault_clear (by rwa [mc])
    (by simp [judged, faultCauses, present, a, b, c, d, CtState.marksLost])
  have left : (leaveFault u).mc = mc' := by rw [leaveFault_mc, mc]
  have still : (complete 4 .done 0 (leaveFault u)).mc.state ≠ .running ∨
      (complete 4 .done 0 (leaveFault u)).work.attempt = false := .inl (by simp [complete, left, mc'])
  obtain ⟨-, om, rc, wt, su, -⟩ := settle_still_frame still
  have ended : event (posted0 .clearFault) s = settle (complete 4 .done 0 (leaveFault u)) := by
    have whole := (show exec .clearFault s = .next (event (posted0 .clearFault) s) from rfl).symm.trans run
    rw [done'] at whole
    exact Host.Outcome.next.inj whole
  have fixed : Fixed s (event (posted0 .clearFault) s) := event_fixed (posted0_fixed _ _)
  rw [ended] at fixed
  rw [done']
  refine ⟨fun runs => ?_, settle (complete 4 .done 0 (leaveFault u)), rfl, ?_, ?_, ?_, ?_, ?_, ?_, ?_, ?_,
    fixed.lineKept, fun d => ?_⟩
  · rw [leaveFault_eq, mc, if_neg (by simp [runs]), askStatus, work]
    rfl
  · refine answered_settle (c := .clearFault) ?_ (by decide) (by simp [u]) (.inl (by simp [left, mc']))
    exact (leaveFault_sound u).store (offered0_wf _ h)
  · simp [complete, left]
  · rw [wt]
    simp [complete, u]
  · simp [complete, u]
  · rw [su]
    simp [complete, u]
  · rw [om]
    simp [complete, u]
  · rw [rc]
    simp [complete, u]
  · simp [complete, u]
  · have clock : lateExpiryNow u = s.cu.lineClock + lines s.cfg.confirmLimit := by simp [lateExpiryNow, u]
    have late : u.su = s.su := by simp [u]
    rw [su]
    refine (leaveFault_late u d).trans ?_
    rw [mc, late, clock]

/-! ## The drain -/

theorem drained_iff (s : State) : drained s = true ↔
    s.ee.expo = none ∧ (∀ e ∈ s.wt.track, e.kind = .blank) ∧ s.su.conveyor = [] := by
  simp [drained, and_assoc]

theorem drained_congr {s t : State} (e : t.ee.expo = s.ee.expo) (w : t.wt.track = s.wt.track)
    (c : t.su.conveyor = s.su.conveyor) : drained t = drained s := by
  simp only [drained, e, w, c]

theorem removeEntries_track (ks : List EntryKey) (s : State) :
    (ks.foldl (fun t k => removeEntry k t) s).wt.track = s.wt.track.filter fun x => !decide (x.key ∈ ks) := by
  induction ks generalizing s with
  | nil => simp
  | cons k ks ih =>
    rw [List.foldl_cons, ih, removeEntry_track, List.filter_filter]
    congr 1
    funext x
    by_cases a : x.key = k <;> by_cases b : x.key ∈ ks <;> simp [a, b]

/-- With BLANK entries alone on the track, none is left of them (R70). -/
theorem blanksRemoved_track {s : State} (h : ∀ e ∈ s.wt.track, e.kind = .blank) : (blanksRemoved s).wt.track = [] := by
  rw [blanksRemoved, removeEntries_track, List.filter_eq_nil_iff]
  intro e he gone
  have named : e.key ∈ blankKeys s := List.mem_map.2 ⟨e, List.mem_filter.2 ⟨he, by simp [h e he]⟩, rfl⟩
  simp [named] at gone

theorem blanksRemoved_kept (s : State) :
    (blanksRemoved s).ee = s.ee ∧ (blanksRemoved s).ca = s.ca ∧ (blanksRemoved s).work.status = s.work.status ∧
      (blanksRemoved s).cu.attnPending = s.cu.attnPending ∧ (blanksRemoved s).wt.paperEnd = s.wt.paperEnd ∧
      (blanksRemoved s).pins = s.pins ∧ (blanksRemoved s).ct.misses = s.ct.misses := by
  simp [blanksRemoved]

/-- The entry into PAUSED from a completed drain, before the conditions are judged (R167, R110, R70). -/
theorem pausedEntered_fields {s : State} (h : drained s = true) :
    (pausedEntered s).wt.track = [] ∧
      (pausedEntered s).ee.continuity = (s.ee.continuity && decide (drainCause s ≠ .paperOut)) ∧
      (pausedEntered s).ee.drive = [] ∧ (pausedEntered s).ee.hot = s.ee.hot ∧ (pausedEntered s).ca = s.ca ∧
      (pausedEntered s).work.status = true ∧ (pausedEntered s).cu.attnPending = s.cu.attnPending ∧
      (pausedEntered s).wt.paperEnd = s.wt.paperEnd ∧
      (pausedEntered s).pins = s.pins ∧ (pausedEntered s).ct.misses = s.ct.misses := by
  obtain ⟨-, blank, -⟩ := (drained_iff s).1 h
  have track : (blanksRemoved (pausedFor (drainCause s) s)).wt.track = [] := blanksRemoved_track blank
  have kept := blanksRemoved_kept (pausedFor (drainCause s) s)
  unfold pausedEntered
  generalize blanksRemoved (pausedFor (drainCause s) s) = u at track kept
  obtain ⟨ee, ca, -, attn, paper, pins, misses⟩ := kept
  simp [continuityFor, track, ee, ca, attn, paper, pins, misses, pausedFor]

theorem pausedEntered_sound (s : State) : Sound s (pausedEntered s) :=
  ((setMc_sound _ s).trans ((blanksRemoved_sound _).trans (continuityFor_sound _ _))).trans
    ((post_sound _ _ _).trans (askStatus_sound _))

theorem enterPaused_judged (s : State) : enterPaused s = judgeConditions (pausedEntered s) := rfl

theorem enterPaused_clear {s : State} (d : drained s = true) (h : noCondition s) : enterPaused s = pausedEntered s := by
  obtain ⟨-, -, -, -, -, -, -, -, pins, misses⟩ := pausedEntered_fields d
  rw [enterPaused_judged, judgeConditions_none (noCondition_congr pins misses h)]

theorem enterPaused_present {s : State} (d : drained s = true) (h : ¬noCondition s) :
    (enterPaused s).mc.state = .faulted ∧ present s (enterPaused s).mc.faultCause = true ∧
      (enterPaused s).mc.pauseCause = .noPause := by
  obtain ⟨-, -, -, -, -, -, -, -, pins, misses⟩ := pausedEntered_fields d
  have same := present_congr pins misses
  have judged := judgeConditions_present (s := pausedEntered s) (by rw [pausedEntered_mc]; simp)
    fun g => h fun c => by rw [← same]; exact g c
  rw [enterPaused_judged]
  simpa only [same] using judged

theorem enterPausing_undrained {c : PauseCause} {s : State} (d : drained s = false) :
    enterPausing c s = pausingFor c s := by
  have same : drained (pausingFor c s) = false := d
  rw [enterPausing_eq, if_neg (by simp [same])]

theorem enterPausing_drained {c : PauseCause} {s : State} (d : drained s = true) :
    enterPausing c s = enterPaused (pausingFor c s) := if_pos d

theorem takePause_running {s : State} (h : s.mc.state = .running) : takePause s = done (enterPausing .host s) := if_pos h

theorem takePause_illegal {s : State} (h : s.mc.state ≠ .running) : takePause s = refuse .illegalState s := if_neg h

/-- Settles O12. -/
theorem pauseDrainsToPaused : Obligations.PauseDrainsToPaused := by
  unfold Obligations.PauseDrainsToPaused
  refine ⟨fun s h idle => ?_, fun s => ⟨?_, fun p d g => ?_, fun idle => ?_⟩⟩
  · intro u
    have run : exec .pause s = .next (settle (answered .pause (takePause u))) := exec_posted0 h idle rfl
    have mc : u.mc = s.mc := by simp [u]
    have work : u.work = {} := by simp [u]
    have same : drained u = drained s := drained_congr (by simp [u]) (by simp [u]) (by simp [u])
    rw [run]
    refine ⟨fun r => ?_, fun r d => ?_, fun r d clear => ?_⟩
    · rw [takePause_illegal (by rwa [mc])]
      rfl
    · rw [takePause_running (by rwa [mc]), enterPausing_undrained (by rwa [same]), pausingFor, askStatus, mc, work]
      rfl
    · have conds : noCondition (pausingFor .host u) :=
        noCondition_congr (by simp [pausingFor, u]) (by simp [pausingFor, u]) clear
      have due : drained (pausingFor .host u) = true := by
        rw [← d, ← same]
        exact drained_congr rfl rfl rfl
      have paused : enterPausing .host u = pausedEntered (pausingFor .host u) := by
        rw [enterPausing_drained (by rwa [same]), enterPaused_clear due conds]
      let v := pausedEntered (pausingFor .host u)
      have done' : takePause u = done v := by rw [takePause_running (by rwa [mc]), paused]
      have mc' : v.mc = { s.mc with
          state := .paused, pauseCause := if s.wt.paperEnd then .paperOut else .host, paperOutReq := false } := by
        simp [v, pausedEntered_mc, pausingFor, drainCause, u]
      obtain ⟨track, -, -, -, -, status, attn, -⟩ := pausedEntered_fields due
      have wf : Memory.wf v.store :=
        ((pausingFor_sound .host u).trans (pausedEntered_sound _)).store (offered0_wf _ h)
      have still : (complete 3 .done 0 v).mc.state ≠ .running ∨ (complete 3 .done 0 v).work.attempt = false :=
        .inl (by simp [complete, mc'])
      have fixed : Fixed s (settle (complete 3 .done 0 v)) := by
        have whole := (show exec .pause s = .next (event (posted0 .pause) s) from rfl).symm.trans run
        rw [done'] at whole
        rw [← show event (posted0 .pause) s = settle (complete 3 .done 0 v) from Host.Outcome.next.inj whole]
        exact event_fixed (posted0_fixed _ _)
      rw [done']
      refine ⟨settle (complete 3 .done 0 v), rfl, ?_, ?_, ?_, fixed.lineKept, ?_⟩
      · exact answered_settle (c := .pause) wf (by decide) (attn.trans (by simp [pausingFor, u])) still
      · simp [complete, mc']
      · rw [(settle_still_frame still).2.2.2.1]
        exact track
      · have words := settle_status (s := complete 3 .done 0 v) (complete_wf 3 .done 0 wf) status
        rw [words.1]
        simp [complete, mc', MachineState.code]
  · intro p row blank conveyor clear h cause
    let s' : State := { s with work := {} }
    have d : drained s' = true := (drained_iff s').2 ⟨row, blank, conveyor⟩
    have due : drainDue s = true := by
      rw [drainDue, p, (drained_iff s).2 ⟨row, blank, conveyor⟩]
      rfl
    have run : exec .drainComplete s = .next (settle (enterPaused s')) := congrArg Host.Outcome.next (eventWhen_due due)
    rw [enterPaused_clear d clear] at run
    have mc : (pausedEntered s').mc = { s.mc with state := .paused, pauseCause := cause } := pausedEntered_mc s'
    obtain ⟨track, continuity, drive, hot, ca, status, -⟩ := pausedEntered_fields d
    have still : (pausedEntered s').mc.state ≠ .running ∨ (pausedEntered s').work.attempt = false := .inl (by simp [mc])
    have words := settle_status ((pausedEntered_sound s').store h) status
    have fixed : Fixed s (event enterPaused s) := event_fixed {}
    rw [event, enterPaused_clear d clear] at fixed
    refine ⟨_, run, ?_, ?_, ?_, ?_, ?_, ?_, ?_, fixed.lineKept, ?_, ?_⟩
    · simp [mc]
    · rw [(settle_still_frame still).2.2.2.1, track]
    · simp only [settle_frame, continuity]
      rfl
    · simp only [settle_frame, drive]
    · refine ((askStatus_sound _).trans (settle_sound _)).told _ _ ?_
      exact post_told .paused _ _
    · rw [words.1, mc]
      rfl
    · rw [words.2.2, mc]
    · simp only [settle_frame, ca, s']
    · simp only [settle_frame, hot, s']
  · let s' : State := { s with work := {} }
    have due : drainDue s = true := by
      rw [drainDue, p, d]
      rfl
    obtain ⟨state, cause, -⟩ := enterPaused_present (s := s') d g
    refine ⟨_, congrArg Host.Outcome.next (eventWhen_due due), ?_, ?_⟩
    · simpa [event] using state
    · rw [present_congr (s := s) (t := s') rfl rfl] at cause
      simpa [event] using cause
  · have early : drainDue s = false := by
      rw [drainDue, Bool.and_eq_false_iff]
      obtain h | h | h | h := idle
      · exact .inl (by simpa using h)
      all_goals
        refine .inr (Bool.eq_false_iff.2 fun d => ?_)
        obtain ⟨row, blank, conveyor⟩ := (drained_iff s).1 d
      · simp [row] at h
      · obtain ⟨e, he, k⟩ := h
        exact k (blank e he)
      · exact h conveyor
    exact congrArg Host.Outcome.next (eventWhen_not early)

/-! ## The paper's end -/

theorem requestPaperPause_other {s : State} (h : s.mc.state ≠ .running) : requestPaperPause s = s := if_pos h

theorem requestPaperPause_exposing {s : State} (h : s.mc.state = .running) (e : s.ee.expo.isSome) :
    requestPaperPause s = { s with mc := { s.mc with paperOutReq := true } } := by
  rw [requestPaperPause, if_neg (not_not.2 h), if_neg (by simpa [Option.isSome_iff_ne_none] using e)]

theorem requestPaperPause_standing {s : State} (h : s.mc.state = .running) (e : s.ee.expo = none) :
    requestPaperPause s = enterPausing .paperOut s := by
  rw [requestPaperPause, if_neg (not_not.2 h), if_pos (by simp [e])]

/-- Settles O14. -/
theorem paperEndAsksForPause : Obligations.PaperEndAsksForPause := by
  unfold Obligations.PaperEndAsksForPause
  intro s s'
  refine ⟨fun ended => ?_, fun there => ?_⟩
  · exact congrArg Host.Outcome.next (eventWhen_due (by simp [ended]))
  have run : exec (.paperEnd true) s = .next (settle (requestPaperPause s')) :=
    congrArg Host.Outcome.next (eventWhen_due (by simp [there]))
  rw [run]
  refine ⟨fun h => ?_, fun h e => ?_, fun h e d => ?_, fun h e d clear => ?_⟩
  · rw [requestPaperPause_other (s := s') h]
  · rw [requestPaperPause_exposing (s := s') h e]
  · rw [requestPaperPause_standing (s := s') h e, enterPausing_undrained (s := s') d]
    rfl
  · have due : drained (pausingFor .paperOut s') = true := d
    have conds : noCondition (pausingFor .paperOut s') := by
      intro c
      have judged := clear c
      cases c <;> exact judged
    rw [requestPaperPause_standing (s := s') h e, enterPausing_drained (s := s') d, enterPaused_clear due conds]
    have mc : (pausedEntered (pausingFor .paperOut s')).mc =
        { s.mc with state := .paused, pauseCause := .paperOut, paperOutReq := false } := by
      rw [pausedEntered_mc]
      simp [pausingFor, drainCause, s']
    obtain ⟨track, continuity, -, -, -, -, -, paper, -⟩ := pausedEntered_fields due
    have still : (pausedEntered (pausingFor .paperOut s')).mc.state ≠ .running ∨
        (pausedEntered (pausingFor .paperOut s')).work.attempt = false := .inl (by simp [mc])
    refine ⟨_, rfl, ?_, ?_, ?_, ?_⟩
    · rw [(settle_still_frame still).2.2.2.1, track]
    · simp only [settle_frame, continuity]
      simp [drainCause, pausingFor, s']
    · simp only [settle_frame, paper]
      simp [pausingFor, s']
    · simp only [settle_frame, mc]

/-! ## The sensors outside a run -/

theorem takeCondition_idle {c : FaultCause} {s : State} (h : s.mc.state = .cleared ∨ s.mc.state = .ready) :
    takeCondition c s = s := by
  obtain h | h := h <;> rw [takeCondition, h]

theorem takeCondition_faulted {c : FaultCause} {s : State} (h : s.mc.state = .faulted) :
    takeCondition c s = furtherFault c s := by rw [takeCondition, h]

theorem furtherFault_cover {s : State} : furtherFault .coverOpen s =
    post .fault 1 (if s.mc.convStop then s else stopConveyor s) := rfl

theorem furtherFault_jam {s : State} : furtherFault .jamConveyor s =
    if s.mc.convStop then s else stopConveyor s := rfl

theorem stopConveyor_eq (s : State) : stopConveyor s =
    loseWhere .lost (·.cutFree) (withLate (Vector.ofFn (lateRaised s)) { s with mc := { s.mc with convStop := true } }) := by
  rw [stopConveyor, raiseLateForConveyor_eq]
  rfl

theorem cutFree_eq : Entry.cutFree = fun e : Entry => decide (e.stage = .cut ∨ e.stage = .conveyor) := by
  funext e
  simp [Entry.cutFree]

/-- What a stop of the conveyor leaves in FAULTED: the late counts raised, and the track without what is cut (R142). -/
theorem settle_stopConveyor {s : State} (h : s.mc.state = .faulted) {t : State}
    (c : t.mc = (stopConveyor s).mc ∧ t.wt = (stopConveyor s).wt ∧ t.su.late = (stopConveyor s).su.late ∧
      t.ct.misses = (stopConveyor s).ct.misses) :
    (settle t).mc = { s.mc with convStop := true } ∧ (∀ d : Fin 34, (settle t).su.late[d] = lateRaised s d) ∧
      (settle t).ct.misses = s.ct.misses ∧
      (∀ e ∈ (settle t).wt.track, e ∈ s.wt.track ∧ decide (e.stage = .cut ∨ e.stage = .conveyor) = false) ∧
      ∀ e ∈ s.wt.track, (∀ f ∈ s.wt.track, f.key = e.key → decide (f.stage = .cut ∨ f.stage = .conveyor) = false) →
        e ∈ (settle t).wt.track := by
  obtain ⟨mc, wt, late, misses⟩ := c
  have still : t.mc.state ≠ .running ∨ t.work.attempt = false := .inl (by rw [mc]; simp [h])
  obtain ⟨-, -, -, wt', su, -⟩ := settle_still_frame still
  have lates : (stopConveyor s).su.late = Vector.ofFn (lateRaised s) := by
    rw [stopConveyor_eq]
    simp only [loseWhere_frame]
    rfl
  refine ⟨by simp [mc], fun d => ?_, by simp [misses], fun e he => ?_, fun e he kept => ?_⟩
  · rw [su, late, lates]
    exact Vector.getElem_ofFn _
  · rw [wt', wt, stopConveyor_eq, cutFree_eq] at he
    exact mem_loseWhere_kept he
  · rw [wt', wt, stopConveyor_eq, cutFree_eq]
    refine mem_loseWhere.2 ⟨he, fun x hx lost same => ?_⟩
    exact absurd ((kept x hx same).symm.trans lost) (by decide)

/-- Settles O16. -/
theorem sensorsOutsideRun : Obligations.SensorsOutsideRun := by
  unfold Obligations.SensorsOutsideRun
  intro s pin lost conveyed late stopped onlyLost
  have cover (h : s.pins.lineStop = false) : exec (.lineStopInput true) s =
      .next (settle (takeCondition .coverOpen (pin { s.pins with lineStop := true }))) :=
    congrArg Host.Outcome.next (eventWhen_due (by simp [h]))
  have web (h : s.pins.webJam = false) : exec (.webJamSensor true) s =
      .next (settle (takeCondition .jamWeb (pin { s.pins with webJam := true }))) :=
    congrArg Host.Outcome.next (eventWhen_due (by simp [h]))
  have conv (h : s.pins.convJam = false) : exec (.conveyorJamSensor true) s =
      .next (settle (takeCondition .jamConveyor (pin { s.pins with convJam := true }))) :=
    congrArg Host.Outcome.next (eventWhen_due (by simp [h]))
  have lostEq : lost = Entry.cutFree := cutFree_eq.symm
  have stop (p : Pins) : stopConveyor (pin p) = stopped p := by
    rw [stopConveyor_eq, ← lostEq]
    rfl
  refine ⟨fun h => congrArg Host.Outcome.next (eventWhen_due (by simp [h])), fun h =>
    congrArg Host.Outcome.next (eventWhen_due (by simp [h])), fun h =>
    congrArg Host.Outcome.next (eventWhen_due (by simp [h])), fun out => ⟨fun h => ?_, fun h => ?_, fun h => ?_⟩,
    fun f => ⟨fun h => ?_, fun h g => ?_, fun h g => ?_, fun h g => ?_, fun h g => ?_⟩⟩
  · rw [cover h, takeCondition_idle (s := pin _) out]
  · rw [web h, takeCondition_idle (s := pin _) out]
  · rw [conv h, takeCondition_idle (s := pin _) out]
  · rw [web h, takeCondition_faulted (s := pin _) f]
    rfl
  · rw [conv h, takeCondition_faulted (s := pin _) f, furtherFault_jam, if_pos g]
  · rw [cover h, takeCondition_faulted (s := pin _) f, furtherFault_cover, if_pos g]
  · have runs : ¬(pin { s.pins with convJam := true }).mc.convStop = true := by simp [pin, g]
    rw [conv h, takeCondition_faulted (s := pin _) f, furtherFault_jam, if_neg runs, stop]
    refine ⟨_, rfl, ?_, rfl⟩
    have left := settle_stopConveyor (s := pin { s.pins with convJam := true }) f (t := stopped _)
      (by rw [stop]; exact ⟨rfl, rfl, rfl, rfl⟩)
    exact left
  · have runs : ¬(pin { s.pins with lineStop := true }).mc.convStop = true := by simp [pin, g]
    rw [cover h, takeCondition_faulted (s := pin _) f, furtherFault_cover, if_neg runs, stop]
    refine ⟨_, rfl, ?_, (settle_sound _).told _ _ (post_told .fault 1 _), rfl⟩
    have posted (v : State) : (post .fault 1 v).mc = v.mc ∧ (post .fault 1 v).wt = v.wt ∧
        (post .fault 1 v).su.late = v.su.late ∧ (post .fault 1 v).ct.misses = v.ct.misses := by simp
    have left := settle_stopConveyor (s := pin { s.pins with lineStop := true }) f
      (t := post .fault 1 (stopped _)) (by rw [stop]; exact posted _)
    exact left

end Sys2Proof.Machine
end

section
/-! CLAIMS. START: the run begun or resumed, the paper and the conditions judged (R164, R106, R168). -/

namespace Sys2Proof.Machine

/-! ## The status block stays owed -/

theorem takeCondition_status (c : FaultCause) {s : State} (h : s.work.status = true) :
    (takeCondition c s).work.status = true := by
  unfold takeCondition
  split
  · rfl
  · rfl
  · rfl
  · unfold furtherFault
    split
    · dsimp only
      split <;> simp [h, stopConveyor]
    · split <;> simp [h, stopConveyor]
    · exact h
    · exact h
    · exact h
  · exact h
  · exact h

theorem judgeConditions_status {s : State} (h : s.work.status = true) : (judgeConditions s).work.status = true := by
  have all (l : List FaultCause) (t : State) (g : t.work.status = true) :
      (l.foldl (fun t c => if present t c then takeCondition c t else t) t).work.status = true := by
    induction l generalizing t with
    | nil => exact g
    | cons c l ih =>
      refine ih _ ?_
      dsimp only
      split
      · exact takeCondition_status c g
      · exact g
  exact all _ s h

/-! ## The paper judged -/

/-- What START's look at the paper comes to: the machine runs on, asks at the row's end, pauses or is PAUSED (R106,
R166). -/
inductive PaperSeen (w : State) : State → Prop
  | there (h : w.wt.paperEnd = false) : PaperSeen w w
  | asked (h : w.wt.paperEnd = true) (e : w.ee.expo.isSome) :
    PaperSeen w { w with mc := { w.mc with paperOutReq := true } }
  | pausing (h : w.wt.paperEnd = true) (d : drained w = false) : PaperSeen w (pausingFor .paperOut w)
  | drained (h : w.wt.paperEnd = true) (d : drained w = true) : PaperSeen w (enterPaused (pausingFor .paperOut w))

theorem paperJudged_seen {w : State} (run : w.mc.state = .running) : PaperSeen w (paperJudged w) := by
  unfold paperJudged
  split
  next h =>
    cases e : w.ee.expo with
    | some x =>
      rw [requestPaperPause_exposing run (by simp [e])]
      exact .asked h (by simp [e])
    | none =>
      rw [requestPaperPause_standing run e]
      cases d : drained w with
      | true =>
        rw [enterPausing_drained d]
        exact .drained h d
      | false =>
        rw [enterPausing_undrained d]
        exact .pausing h d
  next h => exact .there (by simpa using h)

theorem conditionsJudged_clear {s : State} (h : noCondition s) : conditionsJudged s = s := by
  unfold conditionsJudged
  split
  · rfl
  · exact judgeConditions_none h

theorem pausingFor_noCondition {c : PauseCause} {s : State} : noCondition (pausingFor c s) ↔ noCondition s :=
  forall_congr' fun k => by cases k <;> rfl

/-- A run begun: what the paper and the conditions leave of it (R164, R106, R168). -/
theorem started_outcome {w : State} (run : w.mc.state = .running) (quiet : w.work.attempt = false)
    (owed : w.work.status = true) :
    let v := conditionsJudged (paperJudged w)
    (v.mc.state ≠ .running ∨ v.work.attempt = false) ∧ v.work.status = true ∧
      (noCondition w → w.wt.paperEnd = false → v = w) ∧
      (noCondition w → w.wt.paperEnd = true → w.ee.expo = none →
        (v.mc.state = .pausing ∨ v.mc.state = .paused) ∧ v.mc.pauseCause = .paperOut) ∧
      (¬noCondition w → v.mc.state = .faulted ∧ present w v.mc.faultCause = true ∧ v.mc.pauseCause = .noPause) := by
  intro v
  obtain ⟨p, hp⟩ : ∃ p, p = paperJudged w := ⟨_, rfl⟩
  have seen := paperJudged_seen run
  have pins : p.pins = w.pins := by rw [hp, paperJudged]; split <;> simp
  have misses : p.ct.misses = w.ct.misses := by rw [hp, paperJudged]; split <;> simp
  have same := present_congr pins misses
  by_cases clear : noCondition w
  · have whole : v = p := by
      simp only [v, ← hp]
      exact conditionsJudged_clear (noCondition_congr pins misses clear)
    rw [whole]
    rw [← hp] at seen
    cases seen with
    | there h => exact ⟨.inr quiet, owed, fun _ _ => rfl, fun _ g => absurd (h.symm.trans g) (by decide), fun g => absurd clear g⟩
    | asked h e =>
      exact ⟨.inr quiet, owed, fun _ g => absurd (h.symm.trans g) (by decide), fun _ _ n => by simp [n] at e,
        fun g => absurd clear g⟩
    | pausing h d =>
      exact ⟨.inl (by simp [pausingFor_mc]), rfl, fun _ g => absurd (h.symm.trans g) (by decide),
        fun _ _ _ => by simp [pausingFor_mc], fun g => absurd clear g⟩
    | drained h d =>
      have due : drained (pausingFor .paperOut w) = true := d
      rw [enterPaused_clear due (pausingFor_noCondition.2 clear)]
      have mc := pausedEntered_mc (pausingFor .paperOut w)
      have cause : drainCause (pausingFor .paperOut w) = .paperOut := if_pos h
      exact ⟨.inl (by simp [mc]), rfl, fun _ g => absurd (h.symm.trans g) (by decide),
        fun _ _ _ => by simp [mc, cause], fun g => absurd clear g⟩
  · suffices faulted : v.mc.state = .faulted ∧ present w v.mc.faultCause = true ∧ v.mc.pauseCause = .noPause ∧
        v.work.status = true by
      obtain ⟨state, cause, pause, status⟩ := faulted
      exact ⟨.inl (by simp [state]), status, fun g => absurd g clear, fun g => absurd g clear,
        fun _ => ⟨state, cause, pause⟩⟩
    have judged (live : p.mc.state = .running ∨ p.mc.state = .pausing ∨ p.mc.state = .paused)
        (owes : p.work.status = true) : v.mc.state = .faulted ∧ present w v.mc.faultCause = true ∧
          v.mc.pauseCause = .noPause ∧ v.work.status = true := by
      have whole : v = judgeConditions p := by
        simp only [v, ← hp]
        exact if_neg (by obtain e | e | e := live <;> simp [e])
      obtain ⟨state, cause, pause⟩ := judgeConditions_present live fun g => clear fun c => by rw [← same]; exact g c
      rw [whole]
      exact ⟨state, by rw [← same]; exact cause, pause, judgeConditions_status owes⟩
    rw [← hp] at seen
    cases seen with
    | there => exact judged (.inl run) owed
    | asked => exact judged (.inl run) owed
    | pausing => exact judged (.inr (.inl (by simp [pausingFor_mc]))) rfl
    | drained h d =>
      have due : drained (pausingFor .paperOut w) = true := d
      obtain ⟨state, cause, pause⟩ := enterPaused_present due fun g => clear (pausingFor_noCondition.1 g)
      have whole : v = enterPaused (pausingFor .paperOut w) := by
        simp only [v, ← hp]
        exact if_pos state
      rw [whole]
      exact ⟨state, cause, pause, judgeConditions_status rfl⟩

/-! ## START -/

theorem startedFrom_kept (m : MachineState) (s : State) :
    (startedFrom m s).work = { attempt := false, status := true } ∧ (startedFrom m s).pins = s.pins ∧
      (startedFrom m s).ct = s.ct ∧ (startedFrom m s).su.conveyor = s.su.conveyor ∧
      (startedFrom m s).wt.paperEnd = s.wt.paperEnd ∧ (startedFrom m s).cu.attnPending = s.cu.attnPending ∧
      (startedFrom m s).rc.mask = s.rc.mask ∧ (startedFrom m s).rc.hot = s.rc.hot ∧
      (startedFrom m s).ca.bal = s.ca.bal ∧ (startedFrom m s).ee.expo = s.ee.expo := by
  unfold startedFrom
  split <;> simp [runningBy, composeNow]

theorem startedFrom_paused {m : MachineState} (h : m ≠ .ready) (s : State) :
    (startedFrom m s).ca = s.ca ∧ (startedFrom m s).ee = s.ee ∧ (startedFrom m s).rc.firstCal = s.rc.firstCal := by
  rw [startedFrom, if_neg h]
  simp [runningBy]

theorem startedFrom_ready (s : State) :
    (startedFrom .ready s).ca = (trigger s).ca ∧ (startedFrom .ready s).ee.continuity = false ∧
      (startedFrom .ready s).rc.firstCal = true := by
  rw [startedFrom, if_pos rfl, beginRun_eq]
  refine ⟨?_, ?_, ?_⟩
  · simp only [composeNow_frame]
    unfold trigger
    cases h : s.ca.state <;> simp [runBegun, runningBy, h, askAttempt]
  · simp [runBegun]
  · simp [runBegun]

/-- Settles O11. -/
theorem startBeginsOrResumesRun : Obligations.StartBeginsOrResumesRun := by
  unfold Obligations.StartBeginsOrResumesRun
  intro s h idle
  let u := offered0 .start s
  have run : exec .start s = .next (settle (answered .start (takeStart u))) := exec_posted0 h idle rfl
  have mc : u.mc = s.mc := by simp [u]
  rw [run, takeStart_eq]
  refine ⟨fun ready paused => ?_, fun admitted => ?_⟩
  · rw [if_neg (by rw [mc]; exact not_or.2 ⟨ready, paused⟩)]
    rfl
  rw [mc]
  rw [if_pos admitted]
  let w := startedFrom s.mc.state u
  let v := conditionsJudged (paperJudged w)
  obtain ⟨work, pins, ct, conveyor, paper, attn, mask, hot, bal, expo⟩ := startedFrom_kept s.mc.state u
  have state : w.mc = { s.mc with state := .running, pauseCause := .noPause } := by rw [← mc]; exact startedFrom_mc _ u
  obtain ⟨still, status, ran, paused, faulted⟩ :=
    started_outcome (w := w) (by rw [state]) (by rw [work]) (by rw [work])
  have judged := present_congr (s := s) (t := w) (pins.trans (by simp [u])) ((congrArg CtState.misses ct).trans (by simp [u]))
  have clear : noCondition s ↔ noCondition w := forall_congr' fun c => by rw [judged]
  have paper' : w.wt.paperEnd = s.wt.paperEnd := paper.trans (by simp [u])
  have wf : Memory.wf v.store := ((startedFrom_sound _ u).trans ((paperJudged_sound w).trans (conditionsJudged_sound _))).store (offered0_wf _ h)
  have kept : v.ct.misses = w.ct.misses ∧ v.rc.mask = w.rc.mask ∧ v.rc.hot = w.rc.hot ∧ v.ca.bal = w.ca.bal ∧
      v.rc.firstCal = w.rc.firstCal ∧ v.cu.attnPending = w.cu.attnPending := by
    simp only [v, conditionsJudged, paperJudged]
    split <;> split <;> simp
  obtain ⟨misses', mask', hot', bal', first', attn'⟩ := kept
  have still' : (complete 2 .done 0 v).mc.state ≠ .running ∨ (complete 2 .done 0 v).work.attempt = false := still
  have fixed : Fixed s (settle (complete 2 .done 0 v)) := by
    have whole := (show exec .start s = .next (event (posted0 .start) s) from rfl).symm.trans run
    rw [takeStart_eq, mc, if_pos admitted] at whole
    rw [← show event (posted0 .start) s = settle (complete 2 .done 0 v) from Host.Outcome.next.inj whole]
    exact event_fixed (posted0_fixed _ _)
  refine ⟨settle (complete 2 .done 0 v), rfl, ?_, fixed.lineKept, ?_, ?_, ?_, ?_, ?_, fun r => ?_, fun p => ?_,
    fun g there => ?_, fun g ended row => ?_, fun g => ?_⟩
  · exact answered_settle (c := .start) wf (by decide) (attn'.trans (attn.trans (by simp [u]))) still'
  · simp [complete, misses', w, ct, u]
  · simp [complete, mask', w, mask, u]
  · simp [complete, hot', w, hot, u]
  · simp [complete, bal', w, bal, u]
  · have words := settle_status (s := complete 2 .done 0 v) (complete_wf 2 .done 0 wf) status
    rw [words.1]
    simp
  · have ready := (startedFrom_ready u).2.2
    simp [complete, first', w, r, ready]
  · have resumed := (startedFrom_paused (m := s.mc.state) (by simp [p]) u).2.2
    simp [complete, first', w, resumed, u]
  · have whole : v = w := ran (clear.1 g) (paper'.trans there)
    rw [whole]
    refine ⟨by simp [complete, state], by simp [complete, w, ct, u], by simp [complete, w, conveyor, u], fun p => ?_,
      fun r => ?_⟩
    · obtain ⟨ca, ee, -⟩ := startedFrom_paused (m := s.mc.state) (by simp [p]) u
      simp [complete, w, ca, ee, u]
    · obtain ⟨ca, continuity, -⟩ := startedFrom_ready u
      have same : u.ca = s.ca := by simp [u]
      rw [← r] at ca continuity
      have ca' : (settle (complete 2 .done 0 w)).ca = (trigger u).ca := by simp [complete, w, ca]
      refine ⟨by simp [complete, w, continuity], fun c => ?_, fun c => ?_, fun c => ?_⟩
      · rw [ca', trigger_valid (by rwa [same]), same]
        rfl
      · rw [ca', trigger_stale (by rwa [same]), same]
        rfl
      · rw [ca', trigger_pending (by rwa [same]), same]
  · obtain ⟨state', cause⟩ := paused (clear.1 g) (paper'.trans ended) (expo.trans (by simp [u, row]))
    simpa [complete] using ⟨state', cause⟩
  · obtain ⟨state', cause, pause⟩ := faulted fun f => g (clear.2 f)
    rw [judged] at cause
    simpa [complete] using ⟨state', cause, pause⟩

end Sys2Proof.Machine
end

section
/-! SUPPORT. What the progress part of an order record shows after a write (R1, R187). -/

namespace Sys2Proof.Machine

/-! ## The items -/

theorem writeItems_read (a n : Nat) (l : List ItemProgress) (m : Memory) {b : Nat}
    (h : ∀ j < l.length, b < a + 64 + 32 * (n + j) + 0x10 ∨ a + 64 + 32 * (n + j) + 0x15 ≤ b) :
    Memory.read (writeItems a n l m) b = Memory.read m b := by
  induction l generalizing m n with
  | nil => rfl
  | cons i l ih =>
    have here := h 0 (by simp)
    rw [writeItems, ih (n + 1) _ fun j hj => ?_]
    · simp only [itemAddr, Memory.write16, Memory.write8]
      simp (disch := omega) only [Memory.read_writeNat]
    · have := h (j + 1) (by simpa using hj)
      omega

theorem ItemProgress.flagByte_lt (i : ItemProgress) : i.flagByte < 256 := by
  unfold ItemProgress.flagByte
  split <;> split <;> split <;> split <;> split <;> omega

theorem writeItems_words (a n : Nat) (l : List ItemProgress) {m : Memory} (h : Memory.wf m) {j : Nat} {x : ItemProgress}
    (hx : l[j]? = some x) :
    Memory.readNat (writeItems a n l m) (a + 64 + 32 * (n + j) + 0x10) 2 = x.good % 65536 ∧
      Memory.readNat (writeItems a n l m) (a + 64 + 32 * (n + j) + 0x12) 2 = x.failed % 65536 ∧
      Memory.readNat (writeItems a n l m) (a + 64 + 32 * (n + j) + 0x14) 1 = x.flagByte := by
  induction l generalizing m n j with
  | nil => simp at hx
  | cons i l ih =>
    have w1 := Memory.wf_write16 h (itemAddr a n + 0x10) i.good
    have w2 := Memory.wf_write16 w1 (itemAddr a n + 0x12) i.failed
    have w3 := Memory.wf_write8 w2 (itemAddr a n + 0x14) i.flagByte
    cases j with
    | succ j =>
      have rest := ih (n + 1) w3 (j := j) (by simpa using hx)
      rw [show n + 1 + j = n + (j + 1) by omega] at rest
      exact rest
    | zero =>
      obtain rfl : i = x := by simpa using hx
      rw [writeItems]
      have same (m : Memory) (o k : Nat) (hk : o + k ≤ 32) :
          Memory.readNat (writeItems a (n + 1) l m) (a + 64 + 32 * (n + 0) + o) k =
            Memory.readNat m (a + 64 + 32 * (n + 0) + o) k :=
        Memory.readNat_congr k fun b h1 h2 => writeItems_read a (n + 1) l m fun j hj => by omega
      simp only [itemAddr, Memory.write16, Memory.write8] at w1 w2 w3 ⊢
      rw [same _ 0x10 2 (by omega), same _ 0x12 2 (by omega), same _ 0x14 1 (by omega)]
      simp only [Nat.add_zero]
      refine ⟨?_, ?_, ?_⟩
      · rw [Memory.readNat_writeNat _ _ _ _ (by omega), Memory.readNat_writeNat _ _ _ _ (by omega),
          Memory.readNat_writeNat_self h]
        rfl
      · rw [Memory.readNat_writeNat _ _ _ _ (by omega), Memory.readNat_writeNat_self w1]
        rfl
      · rw [Memory.readNat_writeNat_self w2]
        exact Nat.mod_eq_of_lt i.flagByte_lt

/-! ## The fields of the record -/

/-- The fields of a record but its items'. -/
def writeHead (a : Nat) (p : Progress) (m : Memory) : Memory := writeProgress a { p with items := [] } m

theorem Price.flags_lt (p : Price) : p.flags < 256 := by
  unfold Price.flags
  split <;> split <;> split <;> split <;> split <;> omega

theorem binByte_lt (p : Option BinPlace) : binByte p < 256 := by
  cases p with
  | none => decide
  | some p =>
    have := p.bin.2
    simp only [binByte]
    split <;> omega

theorem writeHead_read (a : Nat) (p : Progress) (m : Memory) {b : Nat} (h : b < a + 0x10 ∨ a + 0x36 ≤ b) :
    Memory.read (writeHead a p m) b = Memory.read m b := by
  unfold writeHead writeProgress
  cases p.stamp <;>
    simp (disch := omega) only [writeItems, Memory.write8, Memory.write16, Memory.write32, Memory.writeWord,
      Memory.read_writeNat]

theorem writeHead_words (a : Nat) (p : Progress) {m : Memory} (h : Memory.wf m) :
    let m' := writeHead a p m
    Memory.readNat m' (a + 0x10) 2 = p.composed % 65536 ∧ Memory.readNat m' (a + 0x12) 2 = p.good % 65536 ∧
      Memory.readNat m' (a + 0x14) 2 = p.rejected % 65536 ∧ Memory.readNat m' (a + 0x16) 2 = p.failed % 65536 ∧
      Memory.readNat m' (a + 0x18) 2 = p.catchCount % 65536 ∧ Memory.readNat m' (a + 0x1A) 1 = p.price.flags ∧
      Memory.readNat m' (a + 0x1C) 1 = binByte p.bins[0]? ∧ Memory.readNat m' (a + 0x1D) 1 = binByte p.bins[1]? ∧
      Memory.readNat m' (a + 0x1E) 1 = binByte p.bins[2]? ∧ Memory.readNat m' (a + 0x1F) 1 = binByte p.bins[3]? ∧
      Memory.readNat m' (a + 0x20) 4 = p.price.subtotal % 4294967296 ∧
      Memory.readNat m' (a + 0x24) 4 = p.price.discount % 4294967296 ∧
      Memory.readNat m' (a + 0x28) 4 = p.price.total % 4294967296 ∧
      Memory.readNat m' (a + 0x2C) 4 = (p.gen.getD 0).toNat ∧
      (∀ x, p.stamp = some x → Memory.readNat m' (a + 0x30) 4 = x.toNat) ∧
      Memory.readNat m' (a + 0x34) 1 = p.state.code ∧ Memory.readNat m' (a + 0x35) 1 = p.reason.code := by
  intro m'
  have skip (m : Memory) (a b len n k : Nat) (h : b + k ≤ a ∨ a + len ≤ b) :
      Memory.readNat (Memory.writeNat m a len n) b k = Memory.readNat m b k := Memory.readNat_writeNat m len n k h
  have state (x : RecState) : x.code < 256 := by cases x <;> decide
  have reason (x : Reason) : x.code < 256 := by cases x <;> decide
  have word (w : Word) : w.toNat % 256 ^ 4 = w.toNat := Nat.mod_eq_of_lt w.isLt
  have byte {n : Nat} (h : n < 256) : n % 256 ^ 1 = n := Nat.mod_eq_of_lt h
  refine ⟨?_, ?_, ?_, ?_, ?_, ?_, ?_, ?_, ?_, ?_, ?_, ?_, ?_, ?_, fun x hx => ?_, ?_, ?_⟩
  all_goals
    simp only [m', writeHead, writeProgress, writeItems, Memory.write8, Memory.write16, Memory.write32, Memory.writeWord]
  all_goals
    first
    | rw [hx]
    | cases p.stamp
  all_goals
    try simp (disch := omega) only [skip]
    rw [Memory.readNat_writeNat_self (by
      repeat' first | with_reducible exact h | with_reducible apply Memory.wf_writeNat)]
    first
    | exact byte (Price.flags_lt _)
    | exact byte (binByte_lt _)
    | exact byte (state _)
    | exact byte (reason _)
    | exact word _
    | rfl

/-! ## The tally -/

theorem addToTally_kinds (k : ItemKind) (l : List TallyEntry) : (addToTally k l).map (·.kind) =
    if k ∈ l.map (·.kind) then l.map (·.kind) else l.map (·.kind) ++ [k] := by
  induction l with
  | nil => rfl
  | cons e l ih =>
    by_cases h : e.kind = k
    · simp [addToTally, h]
    · have away : k ≠ e.kind := fun g => h g.symm
      simp only [addToTally, h, if_false, List.map_cons, ih, List.mem_cons, away, false_or]
      split <;> rfl

theorem addToTally_sum (k : ItemKind) (l : List TallyEntry) :
    ((addToTally k l).map (·.qty)).sum = (l.map (·.qty)).sum + 1 := by
  induction l with
  | nil => rfl
  | cons e l ih =>
    by_cases h : e.kind = k
    · simp only [addToTally, h, if_true, List.map_cons, List.sum_cons]
      omega
    · simp only [addToTally, h, if_false, List.map_cons, List.sum_cons, ih]
      omega

theorem addToTally_mem {k : ItemKind} {l : List TallyEntry} {e : TallyEntry} (h : e ∈ l) (n : e.kind ≠ k) :
    e ∈ addToTally k l := by
  induction l with
  | nil => exact absurd h List.not_mem_nil
  | cons a l ih =>
    by_cases g : a.kind = k
    · simp only [addToTally, g, if_true, List.mem_cons]
      obtain rfl | h := List.mem_cons.1 h
      · exact absurd g n
      · exact .inr h
    · simp only [addToTally, g, if_false, List.mem_cons]
      obtain rfl | h := List.mem_cons.1 h
      · exact .inl rfl
      · exact .inr (ih h)

end Sys2Proof.Machine
end

section
/-! CLAIMS. What records show, how copies are counted, and how orders close (R1, R18 to R21, R24, R130, R150). -/

namespace Sys2Proof.Machine

theorem readWord_of_readNat {m : Memory} {a : Nat} {w : Word} (h : Memory.readNat m a 4 = w.toNat) :
    Memory.readWord m a = w := by
  rw [Memory.readWord, Memory.read32, h, BitVec.ofNat_toNat, BitVec.setWidth_eq]

theorem binByte_eq (p : Option BinPlace) : binByte p = p.elim 255 fun x => x.bin.1 + if x.early then 64 else 0 := by
  cases p <;> rfl

/-- A write of a record's progress part: its places, its fields and its items (R1). -/
theorem writeRecord_words (a : Word) (p : Progress) {s : State} (h : StoreCanonical s) :
    let t := writeRecord a p s
    let m := t.store
    let b := a.toNat
    t = { s with store := m } ∧
      storeKept (fun x => b + 0x10 ≤ x ∧ x < b + 0x36 ∨
        ∃ n < p.items.length, b + 64 + 32 * n + 0x10 ≤ x ∧ x < b + 64 + 32 * n + 0x15) s t ∧
      Memory.read16 m (b + 0x10) = p.composed % 65536 ∧ Memory.read16 m (b + 0x12) = p.good % 65536 ∧
      Memory.read16 m (b + 0x14) = p.rejected % 65536 ∧ Memory.read16 m (b + 0x16) = p.failed % 65536 ∧
      Memory.read16 m (b + 0x18) = p.catchCount % 65536 ∧ Memory.read8 m (b + 0x1A) = p.price.flags ∧
      (∀ j < 4, Memory.read8 m (b + 0x1C + j) = (p.bins[j]?).elim 255 fun x => x.bin.1 + if x.early then 64 else 0) ∧
      Memory.read32 m (b + 0x20) = p.price.subtotal % 4294967296 ∧
      Memory.read32 m (b + 0x24) = p.price.discount % 4294967296 ∧
      Memory.read32 m (b + 0x28) = p.price.total % 4294967296 ∧
      Memory.readWord m (b + 0x2C) = p.gen.getD 0 ∧ (∀ x, p.stamp = some x → Memory.readWord m (b + 0x30) = x) ∧
      Memory.read8 m (b + 0x34) = p.state.code ∧ Memory.read8 m (b + 0x35) = p.reason.code ∧
      ∀ n x, p.items[n]? = some x → Memory.read16 m (b + 64 + 32 * n + 0x10) = x.good % 65536 ∧
        Memory.read16 m (b + 64 + 32 * n + 0x12) = x.failed % 65536 ∧
        Memory.read8 m (b + 64 + 32 * n + 0x14) = x.flagByte := by
  intro t m b
  have store : m = writeHead b p (writeItems b 0 p.items s.store) := rfl
  obtain ⟨composed, good, rejected, failed, caught, flags, bin0, bin1, bin2, bin3, subtotal, discount, total, gen, stamp,
    state, reason⟩ := writeHead_words b p (wf_writeItems h b 0 p.items)
  rw [← store] at composed good rejected failed caught flags bin0 bin1 bin2 bin3 subtotal discount total gen stamp state reason
  refine ⟨rfl, fun x hx => ?_, composed, good, rejected, failed, caught, flags, fun j hj => ?_, subtotal, discount, total,
    readWord_of_readNat gen, fun x hx => readWord_of_readNat (stamp x hx), state, reason, fun n x hx => ?_⟩
  · obtain ⟨head, items⟩ := not_or.1 hx
    change Memory.read m x = _
    rw [store, writeHead_read _ _ _ (by omega), writeItems_read]
    intro j hj
    by_contra inside
    exact items ⟨j, hj, by omega⟩
  · rw [← binByte_eq]
    interval_cases j
    · exact bin0
    · exact bin1
    · exact bin2
    · exact bin3
  · have out (o k : Nat) : Memory.readNat m (b + 64 + 32 * n + o) k =
        Memory.readNat (writeItems b 0 p.items s.store) (b + 64 + 32 * (0 + n) + o) k := by
      rw [Nat.zero_add, store]
      exact Memory.readNat_congr k fun y h1 _ => writeHead_read _ _ _ (by omega)
    obtain ⟨good, failed, flags⟩ := writeItems_words b 0 p.items h hx
    exact ⟨(out _ _).trans good, (out _ _).trans failed, (out _ _).trans flags⟩

/-! ## Counting -/

theorem countFailed_open {r : CopyRef} {o : OpenOrder} {s : State} (h : orderIn s r.slot r.number = some o) :
    countFailed r s = judgeClose r.slot r.number (putOrder r.slot
      { o with
        failed := o.failed + 1
        items := o.items.modify r.item fun i => { i with failed := i.failed + 1 } } s) := by
  simp only [countFailed, h, OpenOrder.onItem]

theorem tallyDelivery_eq {i : Fin 8} {n : Nat} {k : ItemKind} {s : State} (h : s.pu.orders[i].kinds[n]? = some k) :
    tallyDelivery i n s =
      setPuOrder i { s.pu.orders[i] with tally := addToTally k s.pu.orders[i].tally } s := by
  simp only [tallyDelivery, h]

/-- Settles O44. -/
theorem reportsCounted : Obligations.ReportsCounted := by
  unfold Obligations.ReportsCounted
  refine ⟨fun a p s h => writeRecord_words a p h, fun i o s => ?_, fun r s h => ?_, fun r o s h =>
    ⟨countFailed_open h, fun toCatch f k hk => ?_⟩, fun k toCatch s e r h g => ?_⟩
  · cases h : o.phase <;> simp only [putOrder, OpenOrder.progress, OrderPhase.recState, h, setSlot]
  · exact ⟨by rw [countFailed, h], fun toCatch f => by rw [countDelivery, h]⟩
  · intro old
    refine ⟨addToTally k old, ?_, addToTally_kinds k old, addToTally_sum k old, fun e he ne => addToTally_mem he ne⟩
    have caught : o.catchCount + (if toCatch then 1 else 0) = if toCatch then o.catchCount + 1 else o.catchCount := by
      cases toCatch <;> rfl
    simp only [countDelivery, h, OpenOrder.onItem, caught]
    rw [tallyDelivery_eq (k := k) (by simpa using hk)]
    rfl
  · rw [deliver, h]
    exact congrArg (fun x => Option.elim x s fun r => countDelivery r toCatch e.flags s) g

end Sys2Proof.Machine
end

section
/-! SUPPORT. The open-order table through closes, and what a close makes of the order's bins and its generation (R21,
R130, R150). -/

namespace Sys2Proof.Machine

/-! ## The open-order table -/

theorem setSlot_get (i j : Fin 8) (o : Option OpenOrder) (s : State) :
    (setSlot i o s).om.table[j] = if i = j then o else s.om.table[j] := by
  simp only [setSlot, Fin.getElem_fin, Vector.getElem_set, Fin.ext_iff]

theorem putOrder_get (i j : Fin 8) (o : OpenOrder) (s : State) :
    (putOrder i o s).om.table[j] = if i = j then some o else s.om.table[j] := setSlot_get i j (some o) s

theorem orderIn_some_iff {s : State} {i : Fin 8} {n : Word} {o : OpenOrder} :
    orderIn s i n = some o ↔ s.om.table[i] = some o ∧ o.number = n := by
  simp [orderIn, Option.filter_eq_some_iff]

theorem orderIn_self {s : State} {i : Fin 8} {o : OpenOrder} (h : s.om.table[i] = some o) :
    orderIn s i o.number = some o := orderIn_some_iff.2 ⟨h, rfl⟩

/-! ## The close -/

/-- What the record of a closing order is written with (R21). -/
def closedRecord (i : Fin 8) (o : OpenOrder) (s : State) : Progress :=
  { o.progress with price := priceOrder s i o, stamp := some s.cu.lineClock, state := o.phase.closedState }

/-- An order closed, before its notice is posted and its generation given back (R21, R130). -/
def orderClosed (i : Fin 8) (o : OpenOrder) (s : State) : State :=
  setPuOrder i {} (setSlot i none (writeRecord o.addr (closedRecord i o s)
    (settleBins { slot := i, number := o.number } o.bins s)))

theorem closeOrder_eq (i : Fin 8) (o : OpenOrder) (s : State) :
    closeOrder i o s = askAttempt (releaseGen o.gen (post .orderDone o.addr (orderClosed i o s))) := rfl

theorem orderClosed_get (i j : Fin 8) (o : OpenOrder) (s : State) :
    (orderClosed i o s).om.table[j] = if i = j then none else s.om.table[j] := by
  have om : (orderClosed i o s).om = (setSlot i none (writeRecord o.addr (closedRecord i o s)
    (settleBins { slot := i, number := o.number } o.bins s))).om := by simp [orderClosed]
  rw [om, setSlot_get]
  simp

theorem closeOrder_get (i j : Fin 8) (o : OpenOrder) (s : State) :
    (closeOrder i o s).om.table[j] = if i = j then none else s.om.table[j] := by
  have om : (closeOrder i o s).om = (orderClosed i o s).om := by simp [closeOrder_eq, askAttempt]
  rw [om, orderClosed_get]

theorem judgeClose_get_other {i j : Fin 8} (h : j ≠ i) (n : Word) (s : State) :
    (judgeClose i n s).om.table[j] = s.om.table[j] := by
  unfold judgeClose
  split
  · split
    · rw [closeOrder_get, if_neg h.symm]
    · rfl
  · rfl

theorem judgeClose_none {i : Fin 8} {n : Word} {s : State} (h : orderIn s i n = none) : judgeClose i n s = s := by
  rw [judgeClose, h]

theorem judgeClose_some {i : Fin 8} {n : Word} {s : State} {o : OpenOrder} (h : orderIn s i n = some o) :
    judgeClose i n s = if closes s i o then closeOrder i o s else s := by
  rw [judgeClose, h]

/-! ## Bins -/

/-- What the close of its owner's order makes of a bin (R130). -/
def binSettled (s : State) (b : Bin) : Bin :=
  match b.state with
  | .reserved => { b with state := .free, owner := none, delivered := 0, routed := 0, countdown := none }
  | .filling | .full =>
    { b with
      state := .complete, owner := none, routed := 0,
      countdown := if !b.doorOpen && decide (s.cfg.unloadLimit ≠ 0) then some (countdownExpiry s) else b.countdown }
  | .free | .complete => b

theorem settleBin_unowned {o : Owner} {s : State} {p : BinPlace} (h : s.su.bins[p.bin].owner ≠ some o) :
    settleBin o s p = s := if_pos h

theorem settleBin_owned {o : Owner} {s : State} {p : BinPlace} (h : s.su.bins[p.bin].owner = some o) :
    (settleBin o s p).su.bins[p.bin] = binSettled s s.su.bins[p.bin] := by
  unfold settleBin
  dsimp only
  rw [if_neg (not_not.2 h)]
  cases g : s.su.bins[p.bin].state <;> simp only [binSettled, g, freeBin, askAttempt, setBin_get, if_true]

theorem settleBin_other {o : Owner} {s : State} {p : BinPlace} {i : Fin 32} (h : p.bin ≠ i) :
    (settleBin o s p).su.bins[i] = s.su.bins[i] := by
  unfold settleBin
  dsimp only
  split
  · rfl
  · split <;> simp only [freeBin, askAttempt, setBin_get, h, if_false]

theorem settleBin_bin (o : Owner) (s : State) (p : BinPlace) (i : Fin 32) : (settleBin o s p).su.bins[i] =
    if p.bin = i ∧ s.su.bins[i].owner = some o then binSettled s s.su.bins[i] else s.su.bins[i] := by
  split
  next h =>
    obtain ⟨rfl, g⟩ := h
    exact settleBin_owned g
  next h =>
    by_cases e : p.bin = i
    · subst e
      rw [settleBin_unowned fun g => h ⟨rfl, g⟩]
    · exact settleBin_other e

theorem binSettled_congr {s t : State} (c : t.conf = s.conf) (k : t.cu.lineClock = s.cu.lineClock) (b : Bin) :
    binSettled t b = binSettled s b := by
  have cfg : t.cfg = s.cfg := by rw [State.cfg, c, State.cfg]
  have expiry : countdownExpiry t = countdownExpiry s := by rw [countdownExpiry, k, cfg, countdownExpiry]
  unfold binSettled
  rw [cfg, expiry]

/-- A bin that the settling leaves its owner is not changed by it. -/
theorem binSettled_owned {s : State} {b : Bin} {o : Owner} (h : (binSettled s b).owner = some o) : binSettled s b = b := by
  cases g : b.state <;> simp only [binSettled, g] at h ⊢ <;> simp at h

theorem settleBins_bin (o : Owner) (l : List BinPlace) (s : State) (i : Fin 32) : (settleBins o l s).su.bins[i] =
    if (∃ q ∈ l, q.bin = i) ∧ s.su.bins[i].owner = some o then binSettled s s.su.bins[i] else s.su.bins[i] := by
  induction l generalizing s with
  | nil => simp [settleBins]
  | cons p l ih =>
    have step : settleBins o (p :: l) s = settleBins o l (settleBin o s p) := rfl
    have same (b : Bin) : binSettled (settleBin o s p) b = binSettled s b := binSettled_congr (by simp) (by simp) b
    rw [step, ih, same, settleBin_bin]
    by_cases owned : s.su.bins[i].owner = some o
    · by_cases e : p.bin = i
      · have here : ∃ q ∈ p :: l, q.bin = i := ⟨p, List.mem_cons_self, e⟩
        rw [if_pos (c := p.bin = i ∧ _) ⟨e, owned⟩, if_pos (c := (∃ q ∈ p :: l, q.bin = i) ∧ _) ⟨here, owned⟩]
        split
        next h => rw [binSettled_owned h.2, binSettled_owned h.2]
        next => rfl
      · simp only [e, owned, false_and, if_false, List.mem_cons, exists_eq_or_imp, false_or]
    · simp only [owned, and_false, if_false]

/-! ## Generations -/

theorem setGen_get (i j : Fin 2) (g : Option GenSlot) (s : State) :
    (setGen i g s).pu.gens[j] = if i = j then g else s.pu.gens[j] := by
  simp only [setGen, Fin.getElem_fin, Vector.getElem_set, Fin.ext_iff]

theorem findGen_eq_some {s : State} {f : GenSlot → Bool} {i : Fin 2} (h : (s.pu.gens[i]).any f = true)
    (first : ∀ k : Fin 2, k.1 < i.1 → (s.pu.gens[k]).any f = false) : findGen s f = some i := by
  have two : List.finRange 2 = [0, 1] := rfl
  rw [findGen, two]
  match i with
  | 0 => exact List.find?_cons_of_pos h
  | 1 =>
    rw [List.find?_cons_of_neg (by simpa using first 0 (by decide))]
    exact List.find?_cons_of_pos h

theorem retireIfUnheld_get_other {i j : Fin 2} (h : i ≠ j) (s : State) :
    (retireIfUnheld i s).pu.gens[j] = s.pu.gens[j] := by
  unfold retireIfUnheld
  split
  · split
    · simp only [post_frame]
      rw [setGen_get, if_neg h]
    · rfl
  · rfl

theorem setHold_get (i j : Fin 2) (f : Nat → Nat) (s : State) : (setHold i f s).pu.gens[j] =
    if i = j then (s.pu.gens[j]).map fun g => { g with hold := f g.hold } else s.pu.gens[j] := by
  unfold setHold
  split
  next g hg =>
    rw [setGen_get]
    split
    next e => subst e; rw [hg]; rfl
    next => rfl
  next hg =>
    split
    next e => subst e; rw [hg]; rfl
    next => rfl

theorem releaseGen_get_other {o : Option Word} {j : Fin 2} {s : State}
    (h : ∀ g, s.pu.gens[j] = some g → o ≠ some g.number) : (releaseGen o s).pu.gens[j] = s.pu.gens[j] := by
  unfold releaseGen
  split
  next i hi =>
    have away : i ≠ j := by
      rintro rfl
      obtain ⟨n, rfl, found⟩ := Option.bind_eq_some_iff.1 hi
      have named := List.find?_some found
      obtain ⟨g, hg, same⟩ := Option.any_eq_true _ _ |>.1 named
      exact h g hg (by rw [of_decide_eq_true same])
    rw [retireIfUnheld_get_other away, setHold_get, if_neg away]
  next => rfl

/-- A generation given back is held one time less, and goes when it is RETIRING and held no more (R150). -/
theorem releaseGen_get {n : Word} {j : Fin 2} {g : GenSlot} {s : State} (h : s.pu.gens[j] = some g) (e : g.number = n)
    (first : ∀ k : Fin 2, k.1 < j.1 → ∀ x, s.pu.gens[k] = some x → x.number ≠ n) :
    (g.current = true ∨ 1 < g.hold →
      (releaseGen (some n) s).pu.gens[j] = some { g with hold := g.hold - 1 }) ∧
    (g.current = false → g.hold ≤ 1 →
      (releaseGen (some n) s).pu.gens[j] = none ∧ told .pricesRetired g.number (releaseGen (some n) s)) := by
  have found : findGen s (fun x => decide (x.number = n)) = some j := by
    refine findGen_eq_some (by rw [h]; exact decide_eq_true e) fun k hk => ?_
    cases hg : s.pu.gens[k] with
    | none => rfl
    | some x => exact decide_eq_false (first k hk x hg)
  let u := setHold j (· - 1) s
  have held : u.pu.gens[j] = some { g with hold := g.hold - 1 } := by
    rw [setHold_get, if_pos rfl, h]
    rfl
  have released : releaseGen (some n) s = retireIfUnheld j u := by
    rw [releaseGen, Option.bind_some, found]
  have judged : retireIfUnheld j u =
      if !g.current && decide (g.hold - 1 = 0) then post .pricesRetired g.number (setGen j none u) else u := by
    rw [retireIfUnheld, held]
  rw [released, judged]
  refine ⟨fun stays => ?_, fun retiring unheld => ?_⟩
  · rw [if_neg]
    · exact held
    · obtain c | c := stays
      · simp [c]
      · simp only [Bool.and_eq_true, decide_eq_true_eq, not_and]
        intro _
        omega
  · rw [if_pos (by simp only [retiring, Bool.not_false, Bool.true_and, decide_eq_true_eq]; omega)]
    refine ⟨?_, post_told _ _ _⟩
    simp only [post_frame]
    rw [setGen_get, if_pos rfl]

end Sys2Proof.Machine
end

section
/-! CLAIMS. Orders close when their copies are accounted for (R21, R24, R130, R150). -/

namespace Sys2Proof.Machine

/-- The notices' slots end below byte 112, so a notice leaves every byte from there on. -/
theorem post_read_above (c : Cause) (w : Word) (s : State) {a : Nat} (h : 112 ≤ a) :
    Memory.read (post c w s).store a = Memory.read s.store a :=
  post_read c w s (.inr (by have := c.cls.slotAddr_bounds; omega))

theorem retireIfUnheld_read (i : Fin 2) (s : State) {a : Nat} (h : 112 ≤ a) :
    Memory.read (retireIfUnheld i s).store a = Memory.read s.store a := by
  unfold retireIfUnheld
  split
  · split
    · exact post_read_above _ _ _ h
    · rfl
  · rfl

theorem releaseGen_read (g : Option Word) (s : State) {a : Nat} (h : 112 ≤ a) :
    Memory.read (releaseGen g s).store a = Memory.read s.store a := by
  unfold releaseGen
  split
  · rw [retireIfUnheld_read _ _ h]
    simp
  · rfl

/-- Whether an order withdrawing closes by its own rule (R21). -/
def leavingOrder (o : OpenOrder) : Bool :=
  match o.phase with
  | .withdrawing _ => true
  | .opened | .composed => false

theorem closes_iff (s : State) (i : Fin 8) (o : OpenOrder) : closes s i o = true ↔
    (∀ r ∈ s.rc.remakes, ¬(r.slot = i ∧ r.number = o.number)) ∧
      (leavingOrder o = true → ∀ e ∈ s.wt.track, e.ofOrder i o.number = false) ∧
      (leavingOrder o = false → o.good + o.failed + o.dropped = o.nPrints ∧
        ∀ e ∈ s.wt.track, e.ofOrder i o.number = true → e.live = false) := by
  have dead : (∀ e ∈ s.wt.track, e.live = true → e.ofOrder i o.number = false) ↔
      ∀ e ∈ s.wt.track, e.ofOrder i o.number = true → e.live = false :=
    forall₂_congr fun e _ => by cases e.live <;> cases e.ofOrder i o.number <;> simp
  cases h : o.phase <;> simp [closes, leavingOrder, h, and_comm, and_assoc, dead]

/-- What a close leaves of the part, but for the order's record, its bins and its generation (R21). -/
theorem closeOrder_words {i : Fin 8} {o : OpenOrder} {s : State} (h : StoreCanonical s) (far : 4096 ≤ o.addr.toNat) :
    let t := closeOrder i o s
    let a := o.addr.toNat
    let p := priceOrder s i o
    Memory.read8 t.store (a + 0x34) = o.phase.closedState.code ∧ Memory.read16 t.store (a + 0x12) = o.good % 65536 ∧
      Memory.read8 t.store (a + 0x1A) = p.flags ∧ Memory.read32 t.store (a + 0x20) = p.subtotal % 4294967296 ∧
      Memory.read32 t.store (a + 0x24) = p.discount % 4294967296 ∧
      Memory.read32 t.store (a + 0x28) = p.total % 4294967296 ∧
      Memory.readWord t.store (a + 0x2C) = o.gen.getD 0 ∧ Memory.readWord t.store (a + 0x30) = s.cu.lineClock := by
  intro t a p
  let v := settleBins { slot := i, number := o.number } o.bins s
  let w := writeRecord o.addr (closedRecord i o s) v
  have kept (b : Nat) (hb : 112 ≤ b) : Memory.read t.store b = Memory.read w.store b := by
    have store : (orderClosed i o s).store = w.store := by simp [orderClosed, w, v]
    have same : t = askAttempt (releaseGen o.gen (post .orderDone o.addr (orderClosed i o s))) := rfl
    rw [same]
    refine (releaseGen_read _ _ hb).trans ((post_read_above _ _ _ hb).trans ?_)
    rw [store]
  have canonical : StoreCanonical v := (settleBins_sound _ _ s).store h
  obtain ⟨-, -, -, good, -, -, -, flags, -, subtotal, discount, total, gen, stamp, state, -⟩ :=
    writeRecord_words o.addr (closedRecord i o s) canonical
  have word {b : Nat} (hb : 112 ≤ b) : Memory.readWord t.store b = Memory.readWord w.store b :=
    Memory.readWord_congr fun c h1 _ => kept c (by omega)
  have half {b : Nat} (hb : 112 ≤ b) : Memory.read16 t.store b = Memory.read16 w.store b :=
    Memory.read16_congr fun c h1 _ => kept c (by omega)
  have byte {b : Nat} (hb : 112 ≤ b) : Memory.read8 t.store b = Memory.read8 w.store b :=
    Memory.read8_congr fun c h1 _ => kept c (by omega)
  have long {b : Nat} (hb : 112 ≤ b) : Memory.read32 t.store b = Memory.read32 w.store b :=
    Memory.read32_congr fun c h1 _ => kept c (by omega)
  exact ⟨(byte (by omega)).trans state, (half (by omega)).trans good, (byte (by omega)).trans flags,
    (long (by omega)).trans subtotal, (long (by omega)).trans discount, (long (by omega)).trans total,
    (word (by omega)).trans gen, (word (by omega)).trans (stamp _ rfl)⟩

theorem orderClosed_fields (i : Fin 8) (o : OpenOrder) (s : State) :
    (orderClosed i o s).pu.gens = s.pu.gens ∧ (orderClosed i o s).pu.orders[i] = {} ∧
      (orderClosed i o s).su.bins = (settleBins { slot := i, number := o.number } o.bins s).su.bins := by
  refine ⟨by simp [orderClosed], ?_, by simp [orderClosed]⟩
  simp [orderClosed, setPuOrder]

/-- Settles O45. -/
theorem orderCloses : Obligations.OrderCloses := by
  unfold Obligations.OrderCloses
  intro i o s h noRemake leaving finished
  have held := orderIn_self h
  have rule : closes s i o = true ↔ finished := closes_iff s i o
  refine ⟨fun g => ?_, fun g canonical valid => ?_⟩
  · rw [judgeClose_some held, if_neg fun c => g (rule.1 c)]
  intro t a p
  obtain ⟨-, far, -⟩ := valid
  have closed : t = closeOrder i o s := by
    simp only [t]
    rw [judgeClose_some held, if_pos (rule.2 g)]
  obtain ⟨state, good, flags, subtotal, discount, total, gen, stamp⟩ := closeOrder_words (i := i) canonical far
  obtain ⟨gens, orders, bins⟩ := orderClosed_fields i o s
  have gens' : (post .orderDone o.addr (orderClosed i o s)).pu.gens = s.pu.gens := by simp [gens]
  have pu : t.pu.gens = (releaseGen o.gen (post .orderDone o.addr (orderClosed i o s))).pu.gens := by
    rw [closed]
    rfl
  have bin (b : Fin 32) : t.su.bins[b] =
      if (∃ q ∈ o.bins, q.bin = b) ∧ s.su.bins[b].owner = some { slot := i, number := o.number } then
        binSettled s s.su.bins[b] else s.su.bins[b] := by
    have same : t.su.bins = (settleBins { slot := i, number := o.number } o.bins s).su.bins := by
      rw [closed, closeOrder_eq]
      simp [askAttempt, bins]
    rw [same, settleBins_bin]
  rw [← closed] at state good flags subtotal discount total gen stamp
  refine ⟨?_, fun j ne => ?_, ?_, good, flags, subtotal, discount, total, gen, stamp, ?_, ?_, ?_, ?_, ?_, ?_,
    fun j other => ?_, fun j x hx own first => ?_, fun b out => ?_, fun q hq owned => ?_⟩
  · rw [closed, closeOrder_get, if_pos rfl]
  · rw [closed, closeOrder_get, if_neg ne.symm]
  · rw [state]
    cases c : o.phase <;> simp [OrderPhase.closedState, leaving, c, RecState.code]
  · rw [closed]
    exact (Sound.trans (releaseGen_sound _ _) (askAttempt_sound _)).told _ _ (post_told .orderDone o.addr _)
  · rw [closed, closeOrder_eq]
    simp [askAttempt, orders]
  · simp [closed]
  · simp [closed]
  · simp [closed]
  · simp [closed]
  · rw [pu, releaseGen_get_other (by rwa [gens']), gens']
  · obtain ⟨stays, goes⟩ := releaseGen_get (s := post .orderDone o.addr (orderClosed i o s)) (j := j) (g := x)
      (by rw [gens']; exact hx) rfl (by rwa [gens'])
    rw [← own, ← pu] at stays goes
    refine ⟨stays, fun r u => ⟨(goes r u).1, ?_⟩⟩
    rw [closed]
    exact (goes r u).2
  · rw [bin, if_neg]
    rintro ⟨⟨q, hq, rfl⟩, owned⟩
    obtain out | out := out
    · exact out q hq rfl
    · exact out owned
  · rw [bin, if_pos ⟨⟨q, hq, rfl⟩, owned⟩]
    refine ⟨fun c => by simp only [binSettled, c, and_self], fun c => ?_⟩
    have settled : binSettled s s.su.bins[q.bin] = { s.su.bins[q.bin] with
        state := .complete, owner := none, routed := 0,
        countdown := if !s.su.bins[q.bin].doorOpen && decide (s.cfg.unloadLimit ≠ 0) then some (countdownExpiry s)
          else s.su.bins[q.bin].countdown } := by
      obtain c | c := c <;> simp only [binSettled, c]
    rw [settled]
    refine ⟨rfl, rfl, rfl, rfl, fun shut limit => if_pos ?_⟩
    rw [shut, decide_eq_true limit]
    rfl

end Sys2Proof.Machine
end

section
/-! SUPPORT. The return of the slot row: its entries, its remakes and its orders' cursors (R17, R44). -/

namespace Sys2Proof.Machine

/-! ## An unfinished order stays in its slot -/

/-- An order that no close can take: not withdrawing, with copies not accounted for (R21). -/
structure Unfinished (o : OpenOrder) : Prop where
  phase : o.phase = .opened ∨ o.phase = .composed
  open_ : o.good + o.failed + o.dropped ≠ o.nPrints

theorem Unfinished.closes {o : OpenOrder} (h : Unfinished o) (s : State) (i : Fin 8) : closes s i o = false := by
  obtain ⟨phase, left⟩ := h
  rw [Bool.eq_false_iff]
  intro c
  obtain ⟨-, -, done⟩ := (closes_iff s i o).1 c
  refine left (done ?_).1
  obtain p | p := phase <;> simp [leavingOrder, p]

theorem judgeClose_unfinished {i j : Fin 8} {n : Word} {s : State} {o : OpenOrder} (h : s.om.table[i] = some o)
    (u : Unfinished o) : (judgeClose j n s).om.table[i] = some o := by
  by_cases e : i = j
  · subst e
    cases held : orderIn s i n with
    | none => rw [judgeClose_none held, h]
    | some x =>
      obtain rfl : o = x := Option.some.inj (h.symm.trans (orderIn_some_iff.1 held).1)
      rw [judgeClose_some held, u.closes]
      exact h
  · rw [judgeClose_get_other e, h]

theorem removeEntry_unfinished {i : Fin 8} {k : EntryKey} {s : State} {o : OpenOrder} (h : s.om.table[i] = some o)
    (u : Unfinished o) : (removeEntry k s).om.table[i] = some o := by
  have om : (entryTaken k s).om = s.om := by rw [entryTaken_shape]
  cases g : findEntry s k with
  | none => rw [removeEntry_none g, h]
  | some e =>
    rw [removeEntry_eq g]
    cases e.ref with
    | none => rw [Option.elim_none, om, h]
    | some r => exact judgeClose_unfinished (by rw [om, h]) u

/-! ## Copies given back -/

/-- A cursor moved back to a returned copy, if that stands ahead of it (R17). -/
def earlierCursor (c : Option Cursor) (x : CopyRef) : Option Cursor :=
  match c with
  | some c => if c.item < x.item ∨ c.item = x.item ∧ c.copy < x.copy then some c else some ⟨x.item, x.copy⟩
  | none => some ⟨x.item, x.copy⟩

/-- An order with a copy given back to it (R17). -/
def orderReturned (x : CopyRef) (o : OpenOrder) : OpenOrder :=
  { o with
    cursor := earlierCursor o.cursor x, composed := o.composed - 1
    phase := if o.phase = .composed then .opened else o.phase }

theorem Cursor.before_iff (c d : Cursor) : c.before d = true ↔ c.item < d.item ∨ c.item = d.item ∧ c.copy < d.copy := by
  simp [Cursor.before]

theorem returnCopy_gone {x : CopyRef} {s : State} (h : orderIn s x.slot x.number = none) : returnCopy x s = s := by
  rw [returnCopy, h]

theorem returnCopy_held {x : CopyRef} {s : State} {o : OpenOrder} (h : orderIn s x.slot x.number = some o) :
    returnCopy x s = askAttempt (putOrder x.slot (orderReturned x o) s) := by
  simp only [returnCopy, h, orderReturned, earlierCursor]
  cases c : o.cursor with
  | none => rfl
  | some d =>
    by_cases b : d.item < x.item ∨ d.item = x.item ∧ d.copy < x.copy
    · simp only [(Cursor.before_iff d ⟨x.item, x.copy⟩).2 b, if_true, if_pos b]
    · have nb : d.before ⟨x.item, x.copy⟩ = false := by
        rw [Bool.eq_false_iff]
        exact fun g => b ((Cursor.before_iff _ _).1 g)
      simp only [nb, Bool.false_eq_true, if_false, if_neg b]

/-- Whether a copy is of an order in a slot. -/
def CopyRef.isOf (i : Fin 8) (n : Word) (x : CopyRef) : Bool := decide (x.slot = i) && decide (x.number = n)

theorem returnCopy_get {x : CopyRef} {i : Fin 8} {s : State} {o : OpenOrder} (h : s.om.table[i] = some o) :
    (returnCopy x s).om.table[i] = some (if x.isOf i o.number then orderReturned x o else o) := by
  by_cases e : x.slot = i
  · subst e
    by_cases n : x.number = o.number
    · have held : orderIn s x.slot x.number = some o := orderIn_some_iff.2 ⟨h, n.symm⟩
      have got : (putOrder x.slot (orderReturned x o) s).om.table[x.slot] = some (orderReturned x o) := by
        rw [putOrder_get, if_pos rfl]
      rw [returnCopy_held held]
      simpa [CopyRef.isOf, n, askAttempt] using got
    · have none : orderIn s x.slot x.number = none := by
        rw [orderIn, h, Option.filter_some, if_neg (by simpa using fun g => n g.symm)]
      rw [returnCopy_gone none, h]
      simp [CopyRef.isOf, n]
  · have same : (returnCopy x s).om.table[i] = s.om.table[i] := by
      cases held : orderIn s x.slot x.number with
      | none => rw [returnCopy_gone held]
      | some y =>
        rw [returnCopy_held held, askAttempt]
        simp only [putOrder_get, e, if_false]
    rw [same, h]
    simp [CopyRef.isOf, e]

/-- The copies given back to an order move its cursor to the earliest of them and lower its composed count (R17, R44). -/
theorem returnCopies_get (l : List CopyRef) {i : Fin 8} {s : State} {o : OpenOrder} (h : s.om.table[i] = some o)
    (p : o.phase = .opened ∨ o.phase = .composed) :
    (l.foldl (fun t x => returnCopy x t) s).om.table[i] = some { o with
      cursor := (l.filter (CopyRef.isOf i o.number)).foldl earlierCursor o.cursor
      composed := o.composed - (l.filter (CopyRef.isOf i o.number)).length
      phase := if l.filter (CopyRef.isOf i o.number) = [] then o.phase else .opened } := by
  induction l generalizing s o with
  | nil => simp [h]
  | cons x l ih =>
    rw [List.foldl_cons]
    by_cases mine : x.isOf i o.number
    · have opened : (orderReturned x o).phase = .opened := by
        obtain p | p := p <;> simp [orderReturned, p]
      have number : (orderReturned x o).number = o.number := rfl
      rw [ih ((returnCopy_get h).trans (by rw [if_pos mine])) (.inl opened), number, opened]
      simp [mine, orderReturned, Nat.sub_sub, Nat.add_comm]
    · rw [ih ((returnCopy_get h).trans (by rw [if_neg mine])) p]
      simp [mine]

/-! ## The row given back -/

theorem removeEntry_wt (k : EntryKey) (s : State) : (removeEntry k s).wt =
    { s.wt with track := s.wt.track.filter fun x => !decide (x.key = k) } := by
  have taken : (entryTaken k s).wt = { s.wt with track := s.wt.track.filter fun x => !decide (x.key = k) } := by
    rw [entryTaken_shape]
  cases h : findEntry s k with
  | none =>
    have same : (s.wt.track.filter fun x => !decide (x.key = k)) = s.wt.track := by
      rw [List.filter_eq_self]
      simpa using findEntry_eq_none.1 h
    rw [removeEntry_none h, same]
  | some e =>
    rw [removeEntry_eq h]
    cases e.ref with
    | none => exact taken
    | some r => simpa only [Option.elim_some, judgeClose_frame] using taken

theorem returnSlot_empty (s : State) : (returnSlot s).rc.slot = none := by
  cases h : s.rc.slot with
  | none => rw [returnSlot, h]; exact h
  | some r => rw [returnSlot_eq h]

theorem returnSlot_wt {s : State} {r : SlotRow} (h : s.rc.slot = some r) : (returnSlot s).wt = { s.wt with
    track := s.wt.track.filter fun e => !decide (e.key = ⟨none, .a, r.kind⟩ ∨ e.key = ⟨none, .b, r.kind⟩) } := by
  have wt : (returnSlot s).wt = (removeEntry (slotKey r.kind .b) (removeEntry (slotKey r.kind .a)
      { s with rc := { s.rc with slot := none } })).wt := by
    rw [returnSlot_eq h]
    exact foldl_keeps (fun t : State => t.wt) _ (by intros; simp) _ _
  have both : ((s.wt.track.filter fun e => !decide (e.key = slotKey r.kind .a)).filter fun e =>
        !decide (e.key = slotKey r.kind .b)) =
      s.wt.track.filter fun e => !decide (e.key = ⟨none, .a, r.kind⟩ ∨ e.key = ⟨none, .b, r.kind⟩) := by
    rw [List.filter_filter]
    refine List.filter_congr fun e _ => ?_
    rw [slotKey, slotKey, Bool.decide_or, Bool.not_or, Bool.and_comm]
  rw [wt, removeEntry_wt, removeEntry_wt]
  exact congrArg (fun l => { s.wt with track := l }) both

/-- What a lane of a returned row gives back (R44). -/
theorem returned_lane {s : State} {r : SlotRow} {l : Lane} {back : List CopyRef}
    (some' : ∀ p, r.prints.get l = some p → slotWithdrawn s r.kind l = false → back = [p.ref])
    (none' : r.prints.get l = none ∨ slotWithdrawn s r.kind l = true → back = []) :
    (((r.prints.get l).bind fun p => if slotWithdrawn s r.kind l then none else some p.ref).toList) = back := by
  cases h : r.prints.get l with
  | none => rw [none' (.inl h)]; rfl
  | some p =>
    cases w : slotWithdrawn s r.kind l with
    | true => rw [none' (.inr w)]; simp
    | false => rw [some' p h w]; simp

theorem returnedPrints_eq {s : State} {r : SlotRow} {backA backB : List CopyRef}
    (a : ((r.prints.get .a).bind fun p => if slotWithdrawn s r.kind .a then none else some p.ref).toList = backA)
    (b : ((r.prints.get .b).bind fun p => if slotWithdrawn s r.kind .b then none else some p.ref).toList = backB) :
    returnedPrints s r = backA ++ backB := by
  have pair (x y : Option CopyRef) : [x, y].filterMap id = x.toList ++ y.toList := by cases x <;> cases y <;> rfl
  rw [← a, ← b]
  exact pair _ _

theorem slotWithdrawn_iff (s : State) (k : RowKind) (l : Lane) :
    slotWithdrawn s k l = true ↔ ∃ e, findEntry s ⟨none, l, k⟩ = some e ∧ e.flags.withdrawn = true := by
  rw [slotWithdrawn, Option.any_eq_true]
  rfl

end Sys2Proof.Machine
end

section
/-! SUPPORT. The entry into FAULTED, and the return of the slot row, exactly (R44, R107, R108, R168, R169). -/

namespace Sys2Proof.Machine

/-! ## The entry into FAULTED -/

/-- The key a committed BLANK row's entry goes by. -/
def blankKey : EntryKey := ⟨none, .a, .blank⟩

/-- What a fault's entry loses of the track (R107). -/
def lostBy (stops : Bool) (e : Entry) : Bool :=
  decide (e.stage = .exposing ∨ e.stage = .processing) || (stops && decide (e.stage = .cut ∨ e.stage = .conveyor))

theorem lostBy_eq (stops : Bool) : lostBy stops = fun e : Entry => e.spoiled || (stops && e.cutFree) := by
  funext e
  simp [lostBy, Entry.spoiled, Entry.cutFree]

/-- The part as a fault halts it, the track, the slot row and the conveyor's pieces apart (R169, R77). -/
def faultHalted (c : FaultCause) (s : State) : State :=
  { s with
    mc :=
      { state := .faulted, faultCause := c, pauseCause := .noPause, paperOutReq := false
        convStop := s.mc.convStop || c.stopsConveyor }
    ee :=
      { s.ee with
        expo := none, continuity := false, drive := []
        buffers := ⟨s.ee.buffers.a.emptied, s.ee.buffers.b.emptied⟩ } }

/-- The late counts as a fault's entry raises them (R142). -/
def lateAtFault (stops : Bool) (s : State) : State := if stops then raiseLateForConveyor s else s

/-- The track after a fault's entry, before the slot row is returned (R107, R142). -/
def faultLosses (stops : Bool) (s : State) : State := loseWhere .lost (lostBy stops) (lateAtFault stops s)

theorem enterFault_eq (c : FaultCause) (s : State) :
    enterFault c s = askStatus (post .fault (BitVec.ofNat 32 c.code)
      (returnSlot (faultLosses c.stopsConveyor (removeEntry blankKey (faultHalted c s))))) := by
  rw [faultLosses, lostBy_eq]
  rfl

theorem enterFault_ee (c : FaultCause) (s : State) : (enterFault c s).ee = (faultHalted c s).ee := by
  rw [enterFault_eq]
  unfold faultLosses lateAtFault
  split <;> simp [askStatus]

theorem enterFault_slot (c : FaultCause) (s : State) : (enterFault c s).rc.slot = none := by
  rw [enterFault_eq]
  simp only [askStatus, post_frame]
  exact returnSlot_empty _

theorem faultLosses_slot (stops : Bool) (s : State) : (faultLosses stops s).rc.slot = s.rc.slot := by
  unfold faultLosses lateAtFault
  split <;> simp

theorem mem_faultLosses {stops : Bool} {s : State} {e : Entry} : e ∈ (faultLosses stops s).wt.track ↔
    e ∈ s.wt.track ∧ ∀ x ∈ s.wt.track, lostBy stops x = true → x.key ≠ e.key := by
  have track : (lateAtFault stops s).wt.track = s.wt.track := by
    unfold lateAtFault
    split <;> simp
  rw [faultLosses, mem_loseWhere, track]

theorem enterFault_track (c : FaultCause) (s : State) :
    (enterFault c s).wt.track = (returnSlot (faultLosses c.stopsConveyor (removeEntry blankKey (faultHalted c s)))).wt.track := by
  rw [enterFault_eq]
  simp only [askStatus, post_frame]

theorem mem_returnSlot {s : State} {e : Entry} (h : e ∈ (returnSlot s).wt.track) :
    e ∈ s.wt.track ∧ ∀ r l, s.rc.slot = some r → e.key ≠ ⟨none, l, r.kind⟩ := by
  cases g : s.rc.slot with
  | none =>
    rw [returnSlot, g] at h
    exact ⟨h, by simp⟩
  | some r =>
    rw [returnSlot_wt g] at h
    obtain ⟨mem, away⟩ := List.mem_filter.1 h
    have away : ¬(e.key = ⟨none, .a, r.kind⟩ ∨ e.key = ⟨none, .b, r.kind⟩) := by simpa using away
    refine ⟨mem, ?_⟩
    rintro _ l ⟨⟩ same
    cases l
    · exact away (.inl same)
    · exact away (.inr same)

theorem mem_returnSlot_started {s : State} {e : Entry} (h : e ∈ s.wt.track) (x : e.x0.isSome) :
    e ∈ (returnSlot s).wt.track := by
  cases g : s.rc.slot with
  | none =>
    rw [returnSlot, g]
    exact h
  | some r =>
    rw [returnSlot_wt g]
    refine List.mem_filter.2 ⟨h, ?_⟩
    have away (l : Lane) : e.key ≠ ⟨none, l, r.kind⟩ := fun same => by
      rw [show e.x0 = none from congrArg EntryKey.x0 same] at x
      exact absurd x (by decide)
    simp [away]

/-- What a fault's entry leaves on the track was there and is not lost (R107, R44). -/
theorem mem_enterFault {c : FaultCause} {s : State} {e : Entry} (h : e ∈ (enterFault c s).wt.track) :
    (e ∈ s.wt.track ∧ lostBy c.stopsConveyor e = false) ∧ e.key ≠ blankKey ∧
      ∀ r l, s.rc.slot = some r → e.key ≠ ⟨none, l, r.kind⟩ := by
  rw [enterFault_track] at h
  obtain ⟨left, slot⟩ := mem_returnSlot h
  obtain ⟨mem, kept⟩ := mem_faultLosses.1 left
  have there : e ∈ s.wt.track ∧ e.key ≠ blankKey := by
    rw [removeEntry_track] at mem
    obtain ⟨here, away⟩ := List.mem_filter.1 mem
    exact ⟨here, by simpa using away⟩
  refine ⟨⟨there.1, Bool.eq_false_iff.2 fun lost => kept e mem lost rfl⟩, there.2, fun r l hr => slot r l ?_⟩
  rw [faultLosses_slot]
  simpa [faultHalted] using hr

/-- An entry of a started row that a fault does not lose stays (R107). -/
theorem mem_enterFault_kept {c : FaultCause} {s : State} {e : Entry} (h : e ∈ s.wt.track) (x : e.x0.isSome)
    (kept : ∀ f ∈ s.wt.track, f.key = e.key → lostBy c.stopsConveyor f = false) : e ∈ (enterFault c s).wt.track := by
  rw [enterFault_track]
  refine mem_returnSlot_started (mem_faultLosses.2 ?_) x
  rw [removeEntry_track]
  refine ⟨List.mem_filter.2 ⟨h, ?_⟩, fun f hf lost same => ?_⟩
  · have away : e.key ≠ blankKey := fun same => by
      rw [show e.x0 = none from congrArg EntryKey.x0 same] at x
      exact absurd x (by decide)
    simp [away]
  · exact absurd ((kept f (List.mem_filter.1 hf).1 same).symm.trans lost) (by decide)

/-- With nothing to read for, an event's end begins no read (R71). -/
theorem startReads_idle {s : State} (e : s.ee.expo = none) (r : s.rc.slot = none) : startReads s = s := by
  have none (l : Lane) : startRead l s = s := by
    have nothing : nextRead s l = none := by simp [nextRead, exposingPrint, slotPrint, e, r]
    unfold startRead
    dsimp only
    rw [nothing]
    split <;> rfl
  rw [startReads, none .a, none .b]

theorem withLate_all (s : State) : withLate (Vector.ofFn fun d => s.su.late[d]) s = s := by
  have same : Vector.ofFn (fun d : Fin 34 => s.su.late[d]) = s.su.late := Vector.ext fun i hi => by
    rw [Vector.getElem_ofFn]
    rfl
  rw [same]
  rfl

/-- The late counts of a fault's entry, destination by destination (R142). -/
theorem lateAtFault_eq (stops : Bool) (s : State) : lateAtFault stops s =
    withLate (Vector.ofFn fun d => if stops = true ∧ conveyedTo s d ≠ 0 then
      { count := min 8 (s.su.late[d].count + conveyedTo s d), expiry := lateExpiryNow s } else s.su.late[d]) s := by
  cases stops with
  | false =>
    simp only [Bool.false_eq_true, false_and, if_false]
    exact (withLate_all s).symm
  | true =>
    have form : (fun d => if true = true ∧ conveyedTo s d ≠ 0 then
        { count := min 8 (s.su.late[d].count + conveyedTo s d), expiry := lateExpiryNow s } else s.su.late[d]) =
        lateRaised s := by
      funext d
      by_cases none : conveyedTo s d = 0 <;> simp [lateRaised, none]
    rw [form]
    exact raiseLateForConveyor_eq s

/-! ## The slot row -/

/-- The return of a slot row (R44), field by field. -/
theorem slotRow_returned (s : State) (r : SlotRow) (h : s.rc.slot = some r) :
    let gone (l : Lane) : Prop := ∃ e, findEntry s ⟨none, l, r.kind⟩ = some e ∧ e.flags.withdrawn = true
    let t := returnSlot s
    t.rc.slot = none ∧
    t.wt = { s.wt with
      track := s.wt.track.filter fun e =>
        !decide (e.key = ⟨none, .a, r.kind⟩ ∨ e.key = ⟨none, .b, r.kind⟩) } ∧
    ∀ backA backB : List CopyRef,
      (∀ p, r.prints.a = some p → ¬gone .a → backA = [p.ref]) → (r.prints.a = none ∨ gone .a → backA = []) →
      (∀ p, r.prints.b = some p → ¬gone .b → backB = [p.ref]) → (r.prints.b = none ∨ gone .b → backB = []) →
      t.rc.remakes = (backA ++ backB).filter (fun x => decide (2 ≤ x.attempt)) ++ s.rc.remakes ∧
      (∀ (i : Fin 8) (o : OpenOrder), s.om.table[i] = some o → (o.phase = .opened ∨ o.phase = .composed) →
        o.good + o.failed + o.dropped ≠ o.nPrints →
        let mine := (backA ++ backB).filter fun x =>
          decide (x.attempt < 2) && decide (x.slot = i) && decide (x.number = o.number)
        t.om.table[i] = some { o with
          cursor := mine.foldl earlierCursor o.cursor
          composed := o.composed - mine.length
          phase := if mine = [] then o.phase else .opened }) := by
  intro gone t
  have withdrawn (l : Lane) : slotWithdrawn s r.kind l = true ↔ gone l := slotWithdrawn_iff s r.kind l
  have live {l : Lane} (g : slotWithdrawn s r.kind l = false) : ¬gone l := fun e => by
    rw [(withdrawn l).2 e] at g
    exact absurd g (by decide)
  refine ⟨returnSlot_empty s, returnSlot_wt h, fun backA backB a a' b b' => ?_⟩
  have back : returnedPrints s r = backA ++ backB := returnedPrints_eq
    (returned_lane (fun p hp g => a p hp (live g)) fun g => a' (g.imp_right (withdrawn .a).1))
    (returned_lane (fun p hp g => b p hp (live g)) fun g => b' (g.imp_right (withdrawn .b).1))
  refine ⟨?_, fun i o ho phase left => ?_⟩
  · simp only [t]
    rw [returnSlot_eq h, back]
    rfl
  · intro mine
    have u : Unfinished o := ⟨phase, left⟩
    have before : (removeEntry (slotKey r.kind .b) (removeEntry (slotKey r.kind .a)
        { s with rc := { s.rc with slot := none } })).om.table[i] = some o :=
      removeEntry_unfinished (removeEntry_unfinished ho u) u
    have same : ((returnedPrints s r).filter fun c => decide (c.attempt ≤ 1)).filter (CopyRef.isOf i o.number) = mine := by
      rw [back, List.filter_filter]
      refine List.filter_congr fun x _ => ?_
      have two : x.attempt ≤ 1 ↔ x.attempt < 2 := by omega
      simp only [CopyRef.isOf, two, Bool.and_comm, Bool.and_assoc]
    have om : t.om = (slotReturned s r).om := by simp only [t, returnSlot_eq h]
    rw [om, slotReturned, returnCopies_get _ before phase, same]

/-! ## A sensor's fault -/

theorem takeCondition_live {c : FaultCause} {s : State}
    (h : s.mc.state = .running ∨ s.mc.state = .pausing ∨ s.mc.state = .paused) :
    takeCondition c s = enterFault c s := by
  obtain h | h | h := h <;> rw [takeCondition, h]

/-- The sensors' levels once a condition is reported. -/
def pinsWith (c : FaultCause) (p : Pins) : Pins :=
  { p with
    lineStop := p.lineStop || decide (c = .coverOpen), webJam := p.webJam || decide (c = .jamWeb)
    convJam := p.convJam || decide (c = .jamConveyor) }

/-- A fault sensor that reports takes its condition (R168). -/
theorem exec_sensor {s : State} {c : FaultCause} {i : Instr}
    (h : c = .coverOpen ∧ i = .lineStopInput true ∧ s.pins.lineStop = false ∨
      c = .jamWeb ∧ i = .webJamSensor true ∧ s.pins.webJam = false ∨
      c = .jamConveyor ∧ i = .conveyorJamSensor true ∧ s.pins.convJam = false) :
    exec i s = .next (settle (takeCondition c { s with pins := pinsWith c s.pins, work := {} })) := by
  obtain ⟨rfl, rfl, p⟩ | ⟨rfl, rfl, p⟩ | ⟨rfl, rfl, p⟩ := h
  · have pins : pinsWith .coverOpen s.pins = { s.pins with lineStop := true } := by simp [pinsWith]
    rw [pins]
    exact congrArg Host.Outcome.next (eventWhen_due (by simp [p]))
  · have pins : pinsWith .jamWeb s.pins = { s.pins with webJam := true } := by simp [pinsWith]
    rw [pins]
    exact congrArg Host.Outcome.next (eventWhen_due (by simp [p]))
  · have pins : pinsWith .jamConveyor s.pins = { s.pins with convJam := true } := by simp [pinsWith]
    rw [pins]
    exact congrArg Host.Outcome.next (eventWhen_due (by simp [p]))

theorem stopsConveyor_eq (c : FaultCause) : c.stopsConveyor = decide (c = .coverOpen ∨ c = .jamConveyor) := by
  cases c <;> rfl

/-- The late counts a fault's entry leaves, with no piece of a committed BLANK row on the conveyor (R142). -/
theorem enterFault_late {c : FaultCause} {s : State} (h : ∀ x ∈ s.su.conveyor, x.piece ≠ blankKey) (d : Fin 34) :
    (enterFault c s).su.late[d] = if c.stopsConveyor = true ∧ conveyedTo s d ≠ 0 then
      { count := min 8 (s.su.late[d].count + conveyedTo s d), expiry := lateExpiryNow s } else s.su.late[d] := by
  let u := removeEntry blankKey (faultHalted c s)
  have conveyor : u.su.conveyor = s.su.conveyor := by
    have gone : (s.su.conveyor.filter fun x => !decide (x.piece = blankKey)) = s.su.conveyor := by
      rw [List.filter_eq_self]
      simpa using h
    have form := removeEntry_conveyor blankKey (faultHalted c s)
    split at form
    · exact form.trans gone
    · exact form
  have conveyed : conveyedTo u d = conveyedTo s d := by rw [conveyedTo, conveyor, conveyedTo]
  have now : lateExpiryNow u = lateExpiryNow s := by simp [lateExpiryNow, State.cfg, u, faultHalted]
  have before : u.su.late = s.su.late := by simp [u, faultHalted]
  have late : (enterFault c s).su.late = (lateAtFault c.stopsConveyor u).su.late := by
    rw [enterFault_eq, faultLosses]
    simp only [askStatus, post_frame, returnSlot_frame, loseWhere_frame]
    rfl
  rw [late, lateAtFault_eq]
  refine (Vector.getElem_ofFn _).trans ?_
  rw [conveyed, now, before]

/-- With no committed BLANK entry a fault's entry is the halt, the losses and the slot row's return (R169). -/
theorem enterFault_unblanked {c : FaultCause} {s : State} (h : ∀ e ∈ s.wt.track, e.key ≠ blankKey) :
    enterFault c s = askStatus (post .fault (BitVec.ofNat 32 c.code)
      (returnSlot (loseWhere .lost (lostBy c.stopsConveyor) (withLate (Vector.ofFn fun d =>
        if c.stopsConveyor = true ∧ conveyedTo s d ≠ 0 then
          { count := min 8 (s.su.late[d].count + conveyedTo s d), expiry := lateExpiryNow s } else s.su.late[d])
        (faultHalted c s))))) := by
  have none : findEntry (faultHalted c s) blankKey = none := findEntry_eq_none.2 h
  rw [enterFault_eq, removeEntry_none none, faultLosses, lateAtFault_eq]
  rfl

end Sys2Proof.Machine
end

section
/-! CLAIMS. A fault brings the machine to FAULTED (R44, R107, R108, R168, R169). -/

namespace Sys2Proof.Machine

/-- Settles O15. -/
theorem faultEntered : Obligations.FaultEntered := by
  unfold Obligations.FaultEntered
  refine ⟨fun s c i h sensor live => ?_, fun s r h => ?_, fun x s => ⟨returnCopy_gone, fun o h => ?_⟩⟩
  · intro stops lost conveyed halted
    let s' : State := { s with pins := pinsWith c s.pins, work := {} }
    have run : exec i s = .next (settle (enterFault c s')) := by
      rw [exec_sensor sensor, takeCondition_live (s := s') live]
    have stopsEq : c.stopsConveyor = stops := stopsConveyor_eq c
    have lostEq : lostBy c.stopsConveyor = lost := by rw [stopsEq]; rfl
    have mc : (enterFault c s').mc = halted.mc := by
      rw [enterFault_mc, stopsEq]
    have still : (enterFault c s').mc.state ≠ .running ∨ (enterFault c s').work.attempt = false := .inl (by simp [mc, halted])
    have ee : (settle (enterFault c s')).ee = halted.ee := by
      have head : (enterFault c s').ee = halted.ee := enterFault_ee c s'
      rw [settle_still still, (settled_fields _).2.2.2.1, startReads_idle (by rw [head]) (enterFault_slot c s'), head]
    obtain ⟨-, om, rc, wt, su, -⟩ := settle_still_frame still
    have words := settle_status ((enterFault_sound c s').store h) (by rfl)
    refine ⟨settle (enterFault c s'), run, by simp only [settle_frame, mc], by rw [ee], by rw [ee], by rw [ee], ?_, by rw [ee],
      fun e he => ?_, fun e he x kept => ?_, fun e he => ?_, fun away d => ?_, ?_, ?_, ?_, ?_, ?_, ?_, ?_, ?_, ?_, ?_, ?_,
      ?_, ?_, ?_, ?_, fun none => ?_⟩
    · rw [rc]
      exact enterFault_slot c s'
    · rw [wt] at he
      rw [← lostEq]
      exact (mem_enterFault he).1
    · rw [wt]
      exact mem_enterFault_kept (s := s') he x (by rwa [lostEq])
    · rw [wt] at he
      exact (mem_enterFault he).2
    · rw [su, enterFault_late (s := s') away, stopsEq, apply_ite Late.count]
      rfl
    · refine ((askStatus_sound _).trans (settle_sound _)).told _ _ ?_
      exact post_told .fault _ _
    · rw [words.1, mc]
      rfl
    · rw [words.2.1, mc]
    · simp [s']
    · simp [s']
    · simp [s']
    · simp [s']
    · simp [s']
    · simp [s']
    · simp [s']
    · simp [s']
    · simp [s']
    · rw [om]; simp [s']
    · rw [om]; simp [s']
    · simp [s']
    · intro late
      have halt : faultHalted c s' = halted := by
        rw [faultHalted, stopsEq]
        rfl
      rw [enterFault_unblanked (s := s') none, lostEq, stopsEq, halt]
      rfl
  · intro gone t
    obtain ⟨slot, wt, given⟩ := slotRow_returned s r h
    refine ⟨slot, wt, fun backA backB a a' b b' => ?_⟩
    obtain ⟨remakes, table⟩ := given backA backB a a' b b'
    refine ⟨remakes, fun i o ho phase left => ?_, by simp [t], by simp [t], by simp [t],
      Fixed.lineKept (t := returnSlot s) {}, by simp [t], by simp [t]⟩
    exact table i o ho phase left
  · refine ⟨(orderReturned x o).cursor.getD ⟨x.item, x.copy⟩, ?_, fun none => ?_, fun d hd => ⟨fun g => ?_, fun g => ?_⟩⟩
    · have cursor : some ((orderReturned x o).cursor.getD ⟨x.item, x.copy⟩) = (orderReturned x o).cursor := by
        simp only [orderReturned, earlierCursor]
        split
        · split <;> rfl
        · rfl
      rw [returnCopy_held h, cursor]
      rfl
    · simp [orderReturned, earlierCursor, none]
    · simp [orderReturned, earlierCursor, hd, g]
    · simp [orderReturned, earlierCursor, hd, g]

end Sys2Proof.Machine
end

section
/-! CLAIMS. WITHDRAW, case by case (R22, R23). -/

namespace Sys2Proof.Machine

/-! ## The cases of WITHDRAW, one each -/

theorem slotOfNumber_none {s : State} {n : Word}
    (h : ∀ (i : Fin 8) (o : OpenOrder), s.om.table[i] = some o → o.number ≠ n) : slotOfNumber s n = none := by
  refine List.find?_eq_none.2 fun i _ => ?_
  cases held : s.om.table[i] with
  | none => simp
  | some o => simpa using h i o held

theorem slotOfNumber_number {s : State} {n : Word} {i : Fin 8} {o : OpenOrder} (h : slotOfNumber s n = some i)
    (held : s.om.table[i] = some o) : o.number = n := by
  have named := List.find?_some h
  rw [held] at named
  simpa using named

section
variable {n f : Word} {u : State}

theorem takeWithdraw_cleared (h : u.mc.state = .cleared) : takeWithdraw n f u = refuse .illegalState u := by
  rw [takeWithdraw, if_pos h]

theorem takeWithdraw_badOperand (h : u.mc.state ≠ .cleared) (h0 : f ≠ 0) (h1 : f ≠ 1) :
    takeWithdraw n f u = refuse .badOperand u := by
  rw [takeWithdraw, if_neg h, if_pos ⟨h0, h1⟩]

variable (h : u.mc.state ≠ .cleared) (charge : f = 0 ∨ f = 1)
include h charge

theorem takeWithdraw_unknown (closed : slotOfNumber u n = none)
    (listed : u.om.deferred.find? (fun d => decide (d.number = n)) = none) :
    takeWithdraw n f u = refuse .noSuchOrder u := by
  rw [takeWithdraw, if_neg h, if_neg (by tauto)]
  simp only [closed, listed]

theorem takeWithdraw_deferred (closed : slotOfNumber u n = none) {d : Deferred}
    (listed : u.om.deferred.find? (fun d => decide (d.number = n)) = some d) :
    takeWithdraw n f u = done (withdrawDeferred d u) := by
  rw [takeWithdraw, if_neg h, if_neg (by tauto)]
  simp only [closed, listed]

theorem takeWithdraw_withdrawing {i : Fin 8} {o : OpenOrder} {ch : Bool} (slot : slotOfNumber u n = some i)
    (held : u.om.table[i] = some o) (phase : o.phase = .withdrawing ch) :
    takeWithdraw n f u = refuse .illegalState u := by
  rw [takeWithdraw, if_neg h, if_neg (by tauto)]
  simp only [slot, held, phase]

theorem takeWithdraw_open {i : Fin 8} {o : OpenOrder} (slot : slotOfNumber u n = some i)
    (held : u.om.table[i] = some o) (phase : o.phase = .opened ∨ o.phase = .composed) :
    takeWithdraw n f u = done (withdrawOpen i o (decide (f = 1)) u) := by
  rw [takeWithdraw, if_neg h, if_neg (by tauto)]
  obtain phase | phase := phase <;> simp only [slot, held, phase]

end

/-- A print that a withdrawal flags is a live one of its order, not yet routed. -/
theorem withdrawable_eq (e : Entry) (i : Fin 8) (n : Word) : e.withdrawable i n =
    (decide (e.kind = .print) && !e.flags.reject && !e.flags.lost && !e.flags.withdrawn && !decide (e.stage = .conveyor)
      && e.ref.any fun r => decide (r.slot = i) && decide (r.number = n)) := by
  have ref : e.ofOrder i n = e.ref.any fun r => decide (r.slot = i) && decide (r.number = n) := by
    unfold Entry.ofOrder
    cases e.ref <;> rfl
  rw [Entry.withdrawable, ref, Entry.live, Bool.and_assoc, Bool.and_comm]

/-- Settles O20: the checks in their order, the deferred order, and the order in its slot. -/
theorem withdrawEndsOrder : Obligations.WithdrawEndsOrder := by
  have posted (n f : Word) {s : State} (h : StoreCanonical s) (idle : s.cu.job = none) :
      exec (.withdraw n f) s = .next (settle (answered .withdraw (takeWithdraw n f (offered2 .withdraw n f s)))) :=
    congrArg Host.Outcome.next (event_posted2 .withdraw n f h idle)
  refine ⟨fun n f s h idle => ?_, fun n f s i o h idle cleared charge slot held phase => ?_⟩
  · intro u
    have mc : u.mc = s.mc := by simp [u]
    have om : u.om = s.om := by simp [u]
    have slots : slotOfNumber u n = slotOfNumber s n := by rw [slotOfNumber, om, slotOfNumber]
    rw [posted n f h idle]
    refine ⟨fun c => ?_, fun c h0 h1 => ?_, fun c charge => ⟨fun closed => ⟨fun unlisted => ?_, fun d listed => ?_⟩,
      fun i o ch slot held phase => ?_⟩⟩
    · rw [takeWithdraw_cleared (by rwa [mc])]; rfl
    · rw [takeWithdraw_badOperand (by rwa [mc]) h0 h1]; rfl
    · rw [takeWithdraw_unknown (by rwa [mc]) charge (by rw [slots, slotOfNumber_none closed])
        (by rw [om]; exact List.find?_eq_none.2 fun d hd => by simpa using unlisted d hd)]
      rfl
    · rw [takeWithdraw_deferred (by rwa [mc]) charge (by rw [slots, slotOfNumber_none closed]) (by rwa [om])]
      have clock : u.cu.lineClock = s.cu.lineClock := by simp [u]
      have left (p : Progress) :
          (post .orderDone d.addr (writeRecord d.addr p u)).om.deferred = s.om.deferred := by simp [om]
      rw [withdrawDeferred, clock, dropDeferred, left]
      rfl
    · rw [takeWithdraw_withdrawing (by rwa [mc]) charge (by rwa [slots]) (by rwa [om]) phase]; rfl
  · intro u flagged mine o'
    have mc : u.mc = s.mc := by simp [u]
    have om : u.om = s.om := by simp [u]
    have rc : u.rc = s.rc := by simp [u]
    have wt : u.wt = s.wt := by simp [u]
    have slots : slotOfNumber u n = slotOfNumber s n := by rw [slotOfNumber, om, slotOfNumber]
    obtain rfl := slotOfNumber_number slot held
    have eq (e : Entry) : e.withdrawable i o.number = flagged e := withdrawable_eq e i o.number
    rw [posted _ f h idle, takeWithdraw_open (by rwa [mc]) charge (by rwa [slots]) (by rwa [om]) phase, withdrawOpen_eq,
      withdrawnCopies, copiesWithdrawn, rc, wt, ← Nat.add_assoc, ← Nat.add_assoc]
    simp only [eq]
    rfl

end Sys2Proof.Machine
end

section
/-! SUPPORT. The re-examination of BLOCKED queues, of deferred orders and of an open order's items (R13, R14). -/

namespace Sys2Proof.Machine

/-! ## BLOCKED queues (R13) -/

/-- A queue's context after its re-examination: its head stands. -/
def QueueCtx.woken (c : QueueCtx) : QueueCtx := { c with state := .active, halt := .noHalt }

/-- What a control block shows of a queue re-examined. -/
def showsWoken (m : Memory) (q : QueueId) (next : Word) : Prop :=
  Memory.read8 m q.blockAddr = 1 ∧ Memory.read8 m (q.blockAddr + 1) = 0 ∧ Memory.readWord m (q.blockAddr + 4) = next

theorem showsWoken_congr {m n : Memory} {q : QueueId} {w : Word} (h : showsWoken m q w)
    (kept : ∀ a, inControlBlock q a → Memory.read n a = Memory.read m a) : showsWoken n q w := by
  obtain ⟨state, halt, next⟩ := h
  have same (o k : Nat) (ok : o + k ≤ 16) : Memory.readNat n (q.blockAddr + o) k = Memory.readNat m (q.blockAddr + o) k :=
    Memory.readNat_congr k fun b h1 h2 => kept b ⟨by omega, by omega⟩
  exact ⟨(same 0 1 (by omega)).trans state, (same 1 1 (by omega)).trans halt,
    (congrArg (BitVec.ofNat 32) (same 4 4 (by omega))).trans next⟩

theorem inControlBlock_unique {q r : QueueId} {a : Nat} (hq : inControlBlock q a) (hr : inControlBlock r a) : q = r := by
  obtain ⟨q0, q1⟩ := hq
  obtain ⟨r0, r1⟩ := hr
  cases q <;> cases r <;> simp only [QueueId.blockAddr, QueueId.index] at * <;> first | rfl | omega

/-- What the re-examination of the queues of a list leaves. -/
structure Woken (l : List QueueId) (s t : State) : Prop where
  shape : t = { s with om := { s.om with queues := t.om.queues }, store := t.store, work := t.work }
  kept : ∀ q, ¬(q ∈ l ∧ (s.om.queues.get q).state = .blocked) → t.om.queues.get q = s.om.queues.get q
  woken : ∀ q ∈ l, (s.om.queues.get q).state = .blocked →
    t.om.queues.get q = (s.om.queues.get q).woken ∧ t.work.attempt = true
  owed : s.work.attempt = true → t.work.attempt = true
  still : (∀ q ∈ l, (s.om.queues.get q).state ≠ .blocked) → t = s
  store : StoreCanonical s →
    storeKept (fun x => ∃ q ∈ l, (s.om.queues.get q).state = .blocked ∧ inControlBlock q x) s t ∧
      ∀ q ∈ l, (s.om.queues.get q).state = .blocked → showsWoken t.store q (s.om.queues.get q).next

theorem reexamineQueue_blocked {s : State} {q : QueueId} (h : (s.om.queues.get q).state = .blocked) :
    reexamineQueue s q = askAttempt (setQueue q (s.om.queues.get q).woken s) := if_pos h

theorem reexamineQueue_other {s : State} {q : QueueId} (h : (s.om.queues.get q).state ≠ .blocked) :
    reexamineQueue s q = s := if_neg h

theorem woken_foldl (l : List QueueId) (s : State) : Woken l s (l.foldl reexamineQueue s) := by
  induction l generalizing s with
  | nil =>
    exact ⟨rfl, fun _ _ => rfl, fun _ h => absurd h List.not_mem_nil, id, fun _ => rfl,
      fun _ => ⟨fun _ _ => rfl, fun _ h => absurd h List.not_mem_nil⟩⟩
  | cons p l ih =>
    rw [List.foldl_cons]
    by_cases blocked : (s.om.queues.get p).state = .blocked
    · rw [reexamineQueue_blocked blocked]
      have rest := ih (askAttempt (setQueue p (s.om.queues.get p).woken s))
      have queues : (askAttempt (setQueue p (s.om.queues.get p).woken s)).om.queues =
          s.om.queues.set p (s.om.queues.get p).woken := rfl
      generalize hu : askAttempt (setQueue p (s.om.queues.get p).woken s) = u at rest queues ⊢
      generalize l.foldl reexamineQueue u = t at rest ⊢
      have atP : u.om.queues.get p = (s.om.queues.get p).woken := by rw [queues, PerQueue.get_set_self]
      have away {q : QueueId} (h : q ≠ p) : u.om.queues.get q = s.om.queues.get q := by
        rw [queues, PerQueue.get_set_ne _ _ h]
      have noMore : ¬(p ∈ l ∧ (u.om.queues.get p).state = .blocked) := by
        rw [atP]
        rintro ⟨-, state⟩
        cases state
      have owed : t.work.attempt = true := rest.owed (by rw [← hu]; rfl)
      refine ⟨?_, fun q hq => ?_, fun q hq b => ⟨?_, owed⟩, fun _ => owed,
        fun none => absurd blocked (none p List.mem_cons_self), fun canonical => ?_⟩
      · rw [rest.shape, ← hu]
        rfl
      · have ne : q ≠ p := fun e => hq ⟨e ▸ List.mem_cons_self, e ▸ blocked⟩
        rw [rest.kept q fun x => hq ⟨List.mem_cons_of_mem _ x.1, away ne ▸ x.2⟩, away ne]
      · by_cases e : q = p
        · rw [e, rest.kept p noMore, atP]
        · have inL : q ∈ l := (List.mem_cons.1 hq).resolve_left e
          rw [(rest.woken q inL (by rwa [away e])).1, away e]
      · obtain ⟨-, kept, state, halt, next, -⟩ := setQueue_words p (s.om.queues.get p).woken canonical
        have store : u.store = (setQueue p (s.om.queues.get p).woken s).store := by rw [← hu]; rfl
        obtain ⟨keptU, shownU⟩ := rest.store (by
          rw [StoreCanonical, store]
          exact (setQueue_sound p _ s).store canonical)
        refine ⟨fun a ha => ?_, fun q hq b => ?_⟩
        · rw [keptU a, store, kept a]
          · exact fun x => ha ⟨p, List.mem_cons_self, blocked, x⟩
          · rintro ⟨q, hq, b, x⟩
            by_cases e : q = p
            · exact noMore ⟨e ▸ hq, e ▸ b⟩
            · exact ha ⟨q, List.mem_cons_of_mem _ hq, away e ▸ b, x⟩
        · by_cases e : q = p
          · rw [e]
            refine showsWoken_congr (m := u.store) (by rw [store]; exact ⟨state, halt, next⟩) fun a x => keptU a ?_
            rintro ⟨r, hr, br, y⟩
            obtain rfl := inControlBlock_unique x y
            exact noMore ⟨hr, br⟩
          · have inL : q ∈ l := (List.mem_cons.1 hq).resolve_left e
            rw [← away e]
            exact shownU q inL (by rwa [away e])
    · rw [reexamineQueue_other blocked]
      have rest := ih s
      have inL {q : QueueId} (hq : q ∈ p :: l) (b : (s.om.queues.get q).state = .blocked) : q ∈ l :=
        (List.mem_cons.1 hq).resolve_left fun e => blocked (e ▸ b)
      refine ⟨rest.shape, fun q hq => rest.kept q fun x => hq ⟨List.mem_cons_of_mem _ x.1, x.2⟩,
        fun q hq b => rest.woken q (inL hq b) b, rest.owed,
        fun none => rest.still fun q hq => none q (List.mem_cons_of_mem _ hq), fun canonical => ?_⟩
      obtain ⟨kept, shown⟩ := rest.store canonical
      refine ⟨fun a ha => kept a ?_, fun q hq b => shown q (inL hq b) b⟩
      rintro ⟨q, hq, rest⟩
      exact ha ⟨q, List.mem_cons_of_mem _ hq, rest⟩

theorem mem_allQueues (q : QueueId) : q ∈ allQueues := by cases q <;> decide

theorem reexamineBlocked_woken (s : State) : Woken allQueues s (reexamineBlocked s) := woken_foldl allQueues s

/-! ## Records of orders that were never opened -/

theorem writeRecord_gen (a : Word) (p : Progress) {s : State} (h : StoreCanonical s) :
    Memory.read32 (writeRecord a p s).store (a.toNat + 0x2C) = (p.gen.getD 0).toNat := by
  obtain ⟨-, -, -, -, -, -, -, -, -, -, -, -, -, gen, -⟩ :=
    writeHead_words a.toNat p (wf_writeItems h a.toNat 0 p.items)
  exact gen

/-- A record written with zero counts, no bins, no prices and no generation shows an order never opened (R7, R8). -/
theorem writeRecord_unopened {s : State} (h : StoreCanonical s) (a : Word) (state : RecState) (reason : Reason)
    (items : List ItemProgress) :
    recordUnopened (writeRecord a { state := state, reason := reason, items := items } s).store a.toNat state.code
      reason.code := by
  obtain ⟨-, -, composed, good, rejected, failed, caught, flags, bins, subtotal, discount, total, -, -, stateAt,
    reasonAt, -⟩ := writeRecord_words a { state := state, reason := reason, items := items } h
  refine ⟨stateAt, reasonAt, fun j hj => ?_, flags, fun j hj => ?_, fun j hj => ?_⟩
  · interval_cases j
    exacts [composed, good, rejected, failed, caught]
  · exact bins j hj
  · interval_cases j
    exacts [subtotal, discount, total, writeRecord_gen a _ h]

/-! ## Items of an open order (R14) -/

theorem any_not_passed {items : List ItemProgress} {j : Nat} (h : j < items.length) :
    (items[j]?).any (!·.passed) = !(items[j]?).any (·.passed) := by
  simp [List.getElem?_eq_getElem h]

theorem itemFrom_eq_some {items : List ItemProgress} {n j : Nat} :
    itemFrom items n = some j ↔ n ≤ j ∧ j < items.length ∧ (items[j]?).any (·.passed) = false ∧
      ∀ m, n ≤ m → m < j → (items[m]?).any (·.passed) = true := by
  unfold itemFrom
  rw [List.find?_range_eq_some]
  simp only [Bool.and_eq_true, decide_eq_true_eq, List.mem_range, Bool.not_eq_true', Bool.and_eq_false_iff,
    decide_eq_false_iff_not]
  constructor
  · rintro ⟨⟨ge, here⟩, lt, before⟩
    rw [any_not_passed lt] at here
    refine ⟨ge, lt, by simpa using here, fun m hm mj => ?_⟩
    have passed := (before m mj).resolve_left (not_not.2 hm)
    rw [any_not_passed (mj.trans lt)] at passed
    simpa using passed
  · rintro ⟨ge, lt, here, before⟩
    refine ⟨⟨ge, by rw [any_not_passed lt, here]; rfl⟩, lt, fun m mj => or_iff_not_imp_left.2 fun hm => ?_⟩
    rw [any_not_passed (mj.trans lt), before m (not_not.1 hm) mj]
    rfl

theorem itemFrom_eq_none {items : List ItemProgress} {n : Nat}
    (h : ∀ j, n ≤ j → j < items.length → (items[j]?).any (·.passed) = true) : itemFrom items n = none := by
  cases found : itemFrom items n with
  | none => rfl
  | some j =>
    obtain ⟨ge, lt, here, -⟩ := itemFrom_eq_some.1 found
    rw [h j ge lt] at here
    cases here

/-- What R14 asks of an item of an open order: checks 4 and 6 of R7, and the fit of R8. -/
theorem itemStillOk_iff (s : State) (o : OpenOrder) (n : Nat) :
    itemStillOk s o n = true ↔ ∃ z, sizeOf s.cfg (readItem s.store o.addr.toNat n).size = some z ∧
      (readItem s.store o.addr.toNat n).width = z.width * 12 / 10 ∧
      (readItem s.store o.addr.toNat n).height = z.length * 12 / 10 ∧ z.width ≤ laneWidth s.cfg ∧
      laneWidth s.cfg ≤ z.width + 10 := by
  unfold itemStillOk dimensionsOk sizeFits
  generalize readItem s.store o.addr.toNat n = i
  cases size : sizeOf s.cfg i.size with
  | none => simp [size]
  | some z =>
    simp only [size, Option.isSome_some, Option.any_some, Bool.true_and, Bool.and_eq_true, decide_eq_true_eq,
      Option.some.injEq, exists_eq_left', and_assoc]
    rfl

/-! ## One item of an open order (R14) -/

/-- An open order one of whose items no longer passes, `k` of its copies with it (R14). -/
def itemDropped (o : OpenOrder) (n k : Nat) : OpenOrder :=
  let items := o.items.modify n fun x => { x with failed := x.failed + k, passed := true }
  let cursor := o.cursor.bind fun c => if c.item = n then cursorFrom items (n + 1) else some c
  { o with
    failed := o.failed + k, cursor := cursor, items := items
    phase := if cursor = none ∧ o.phase = .opened then .composed else o.phase }

section
variable {i : Fin 8} {number : Word} {n : Nat} {s : State} {o : OpenOrder}

theorem reexamineItem_gone (h : orderIn s i number = none) : reexamineItem i number s n = s := by
  simp only [reexamineItem, h]

theorem reexamineItem_kept (h : orderIn s i number = some o)
    (kept : uncomposedOf s.store o n + (remakesOf s i number n).length = 0 ∨ itemStillOk s o n = true) :
    reexamineItem i number s n = s := by
  simp only [reexamineItem, h, if_pos kept]

theorem reexamineItem_dropped (h : orderIn s i number = some o)
    (some : uncomposedOf s.store o n + (remakesOf s i number n).length ≠ 0) (bad : ¬itemStillOk s o n = true) :
    reexamineItem i number s n = judgeClose i number
      (putOrder i (itemDropped o n (uncomposedOf s.store o n + (remakesOf s i number n).length))
        { s with rc := { s.rc with
          remakes := s.rc.remakes.filter fun r =>
            !(decide (r.slot = i) && decide (r.number = number) && decide (r.item = n)) } }) := by
  have phase (o : OpenOrder) :
      o.settlePhase = { o with phase := if o.cursor = none ∧ o.phase = .opened then .composed else o.phase } := by
    unfold OpenOrder.settlePhase
    cases o with | mk _ _ _ _ cursor _ _ _ _ _ _ _ _ _ _ _ phase => cases cursor <;> cases phase <;> rfl
  simp only [reexamineItem, h, if_neg (not_or.2 ⟨some, bad⟩), phase]
  rfl

end

theorem itemDropped_cursor_kept {o : OpenOrder} {n k : Nat} (h : ∀ c, o.cursor = some c → c.item ≠ n) :
    (itemDropped o n k).cursor = o.cursor := by
  unfold itemDropped
  cases at_ : o.cursor with
  | none => rfl
  | some c => simp [h c at_]

theorem itemDropped_cursor {o : OpenOrder} {n k : Nat} {c : Cursor} (h : o.cursor = some c) (here : c.item = n) :
    (itemDropped o n k).cursor =
      cursorFrom (o.items.modify n fun x => { x with failed := x.failed + k, passed := true }) (n + 1) := by
  simp [itemDropped, h, here]

theorem cursorFrom_modified {items : List ItemProgress} {n : Nat} (f : ItemProgress → ItemProgress) :
    cursorFrom (items.modify n f) (n + 1) = cursorFrom items (n + 1) := by
  have same (j : Nat) (h : n < j) : (items.modify n f)[j]? = items[j]? := List.getElem?_modify_ne _ _ (by omega)
  unfold cursorFrom
  congr 1
  unfold itemFrom
  rw [List.length_modify]
  congr 1
  funext j
  by_cases h : n + 1 ≤ j
  · rw [same j h]
  · simp [h]

end Sys2Proof.Machine
end

section
/-! CLAIMS. A CONFIGURE re-examines orders and queues (R13, R14). -/

namespace Sys2Proof.Machine

theorem reexamineOrder_eq (s : State) (i : Fin 8) : reexamineOrder s i = (s.om.table[i]).elim s fun o =>
    (List.range o.items.length).foldl (reexamineItem i o.number) s := by
  unfold reexamineOrder
  cases s.om.table[i] <;> rfl

theorem writeRecord_shape (a : Word) (p : Progress) (s : State) :
    writeRecord a p s = { s with store := (writeRecord a p s).store } := rfl

theorem examineKept {s : State} {d : Deferred}
    (h : examine s (s.om.deferred.filter fun x => !decide (x = d)) d.addr.toNat = none) :
    reexamineDeferred s d = { s with om := { s.om with
      deferred := s.om.deferred.map fun x => if x = d then { x with fits := recordFits s d.addr.toNat } else x } } := by
  simp only [reexamineDeferred, h]

theorem examineRefused {s : State} {d : Deferred} {r : Reason}
    (h : examine s (s.om.deferred.filter fun x => !decide (x = d)) d.addr.toNat = some r) :
    reexamineDeferred s d = refuseRecord d.addr r (dropDeferred d s) := by
  simp only [reexamineDeferred, h]

/-- A refused record shows its reason and is posted; nothing else changes (R7). -/
theorem refuseRecord_posted (a : Word) (r : Reason) (s : State) : ∃ v, refuseRecord a r s = post .orderRefused a v ∧
    v = { s with store := v.store } ∧ (StoreCanonical s → recordUnopened v.store a.toNat 7 r.code) :=
  ⟨_, rfl, (writeRecord_shape a _ s), fun h => writeRecord_unopened h a .refused r _⟩

/-- Settles O24: the fold over the orders, the deferred entries, the queues, and one item. -/
theorem ordersReexamined : Obligations.OrdersReexamined := by
  refine ⟨fun s => ?_, fun s d => ?_, fun s => ?_, fun i number n s => ⟨reexamineItem_gone, fun o h inside => ?_⟩⟩
  · have slots : List.finRange 8 = [0, 1, 2, 3, 4, 5, 6, 7] := by decide
    rw [reexamineAll, slots, show reexamineOrder = _ from funext fun s => funext fun i => reexamineOrder_eq s i]
  · intro others
    refine ⟨fun r refused => ?_, examineKept⟩
    obtain ⟨v, posted, shape, record⟩ := refuseRecord_posted d.addr r (dropDeferred d s)
    exact ⟨v, (examineRefused refused).trans posted, shape, fun h => record ((dropDeferred_sound d s).store h)⟩
  · intro t blocked
    obtain ⟨shape, kept, woken, -, still, store⟩ := reexamineBlocked_woken s
    refine ⟨shape, fun q hq => kept q fun x => hq x.2, fun q hq => woken q (mem_allQueues q) hq,
      fun none => still fun q _ => none q, fun canonical => ?_⟩
    obtain ⟨storeKept, shown⟩ := store canonical
    refine ⟨fun a ha => storeKept a ?_, fun q hq => shown q (mem_allQueues q) hq⟩
    rintro ⟨q, -, x⟩
    exact ha ⟨q, x⟩
  · intro item lane stillOk passedOver ahead mine k
    have ok : itemStillOk s o n = true ↔ stillOk := itemStillOk_iff s o n
    have leave (r : CopyRef) : (decide (r.slot = i) && decide (r.number = number) && decide (r.item = n)) = mine r := by
      simp [mine, Bool.and_assoc]
    have remakes : remakesOf s i number n = s.rc.remakes.filter mine := List.filter_congr fun r _ => leave r
    have count : uncomposedOf s.store o n + (remakesOf s i number n).length = k := by
      rw [remakes]
      simp only [k, ahead, passedOver, uncomposedOf]
      cases o.cursor <;> rfl
    refine ⟨fun which => reexamineItem_kept h (which.imp count.trans ok.2), fun some bad => ?_⟩
    have dropped := reexamineItem_dropped h (by rwa [count]) (mt ok.1 bad)
    refine ⟨(itemDropped o n k).cursor, ?_, itemDropped_cursor_kept, fun c at_ here => ?_⟩
    · rw [dropped, count]
      simp only [leave]
      rfl
    · rw [itemDropped_cursor at_ here, cursorFrom_modified]
      refine ⟨fun j after lt open_ before => ?_, fun all => ?_⟩
      · rw [cursorFrom, itemFrom_eq_some.2 ⟨after, lt, open_, fun m hm mj => before m hm mj⟩]
        rfl
      · rw [cursorFrom, itemFrom_eq_none fun j after lt => all j after lt]
        rfl

end Sys2Proof.Machine
end

section
/-! CLAIMS. The examination of a record, check by check (R7, R8). -/

namespace Sys2Proof.Machine

theorem slotOfNumber_isSome {s : State} {n : Word} :
    (slotOfNumber s n).isSome = true ↔ ∃ (i : Fin 8) (o : OpenOrder), s.om.table[i] = some o ∧ o.number = n := by
  unfold slotOfNumber
  simp only [List.find?_isSome, List.mem_finRange, true_and, Option.any_eq_true, decide_eq_true_eq]

theorem numberKnown_iff {s : State} {d : List Deferred} {n : Word} :
    numberKnown s d n = true ↔
      (∃ (i : Fin 8) (o : OpenOrder), s.om.table[i] = some o ∧ o.number = n) ∨ ∃ x ∈ d, x.number = n := by
  simp only [numberKnown, Bool.or_eq_true, slotOfNumber_isSome, List.any_eq_true, decide_eq_true_eq]

theorem itemListOk_iff {m : Memory} {a : Nat} : itemListOk m a = true ↔
    1 ≤ recItemCount m a ∧ recItemCount m a ≤ 64 ∧ a + 64 + 32 * recItemCount m a ≤ 268435456 := by
  simp only [itemListOk, within, Bool.and_eq_true, decide_eq_true_eq, and_assoc]

/-! ## The four checks of one item (R7, checks 4 to 7) -/

/-- Check 6 on an item whose size has a definition. -/
def shapeOf (c : Conf) (i : ItemReq) : Prop :=
  ∀ z, sizeOf c i.size = some z → i.width = z.width * 12 / 10 ∧ i.height = z.length * 12 / 10

/-- Check 7 on an item. -/
def imageInStore (i : ItemReq) : Prop :=
  i.image % 64 = 0 ∧ 4096 ≤ i.image ∧ i.image + i.height * ((3 * i.width + 63) / 64 * 64) ≤ 268435456

theorem dimensionsOk_iff {c : Conf} {i : ItemReq} (h : (sizeOf c i.size).isSome) :
    dimensionsOk c i = true ↔ shapeOf c i := by
  obtain ⟨z, size⟩ := Option.isSome_iff_exists.1 h
  simp only [dimensionsOk, shapeOf, size, Option.any_some, Option.some.injEq, forall_eq', Bool.and_eq_true,
    decide_eq_true_eq]
  rfl

theorem imageOk_iff {i : ItemReq} : imageOk i = true ↔ imageInStore i := by
  simp only [imageOk, imageInStore, Bool.and_eq_true, decide_eq_true_eq, and_assoc]
  rfl

section
variable {c : Conf} {i : ItemReq}

theorem itemReason_size (h : sizeOf c i.size = none) : itemReason c i = some .badSize := by
  rw [itemReason, if_pos (by rw [h]; rfl)]

variable (size : (sizeOf c i.size).isSome)
include size

theorem itemReason_qty (h : ¬(1 ≤ i.qty ∧ i.qty ≤ 999)) : itemReason c i = some .badQty := by
  rw [itemReason, if_neg (by simpa using Option.ne_none_iff_isSome.2 size), if_pos (by omega)]

theorem itemReason_shape (qty : 1 ≤ i.qty ∧ i.qty ≤ 999) (h : ¬shapeOf c i) :
    itemReason c i = some .imageDimensions := by
  rw [itemReason, if_neg (by simpa using Option.ne_none_iff_isSome.2 size), if_neg (by omega),
    if_pos (by simpa using mt (dimensionsOk_iff size).1 h)]

theorem itemReason_image (qty : 1 ≤ i.qty ∧ i.qty ≤ 999) (shape : shapeOf c i) (h : ¬imageInStore i) :
    itemReason c i = some .imageAddress := by
  rw [itemReason, if_neg (by simpa using Option.ne_none_iff_isSome.2 size), if_neg (by omega),
    if_neg (by simpa using (dimensionsOk_iff size).2 shape), if_pos (by simpa using mt imageOk_iff.1 h)]

theorem itemReason_none (qty : 1 ≤ i.qty ∧ i.qty ≤ 999) (shape : shapeOf c i) (image : imageInStore i) :
    itemReason c i = none := by
  rw [itemReason, if_neg (by simpa using Option.ne_none_iff_isSome.2 size), if_neg (by omega),
    if_neg (by simpa using (dimensionsOk_iff size).2 shape), if_neg (by simpa using imageOk_iff.2 image)]

end

/-- An item passes its four checks just when none names a reason. -/
theorem itemReason_none_iff {c : Conf} {i : ItemReq} : itemReason c i = none ↔
    (sizeOf c i.size).isSome ∧ (1 ≤ i.qty ∧ i.qty ≤ 999) ∧ shapeOf c i ∧ imageInStore i := by
  refine ⟨fun h => ?_, fun ⟨size, qty, shape, image⟩ => itemReason_none size qty shape image⟩
  by_cases size : (sizeOf c i.size).isSome
  · by_cases qty : 1 ≤ i.qty ∧ i.qty ≤ 999
    · by_cases shape : shapeOf c i
      · by_cases image : imageInStore i
        · exact ⟨size, qty, shape, image⟩
        · rw [itemReason_image size qty shape image] at h
          cases h
      · rw [itemReason_shape size qty shape] at h
        cases h
    · rw [itemReason_qty size qty] at h
      cases h
  · rw [itemReason_size (by simpa using size)] at h
    cases h

/-- The first failing check of a list of items in record order. -/
theorem findSome_first {α : Type} {f : ItemReq → Option α} {g : Nat → ItemReq} {n count : Nat} (lt : n < count) {r : α}
    (before : ∀ m < n, f (g m) = none) (here : f (g n) = some r) : ((List.range count).map g).findSome? f = some r := by
  rw [List.findSome?_map, List.findSome?_eq_some_iff]
  refine ⟨List.range n, n, (List.range count).drop (n + 1), ?_, here, fun m hm => before m (List.mem_range.1 hm)⟩
  have cut := List.take_append_drop n (List.range count)
  rw [List.drop_eq_getElem_cons (by simpa using lt), List.take_range, Nat.min_eq_left lt.le, List.getElem_range] at cut
  exact cut.symm

/-! ## The checks of a record in their order -/

section
variable {s : State} {d : List Deferred} {a : Nat}

theorem examine_zero (h : recNumber s.store a = 0) : examine s d a = some .zeroNumber := by
  rw [examine]
  exact if_pos h

variable (number : recNumber s.store a ≠ 0)
include number

theorem examine_count (h : ¬itemListOk s.store a = true) : examine s d a = some .itemCount := by
  simp only [examine, if_neg number, h]
  rfl

variable (count : itemListOk s.store a = true)
include count

theorem examine_duplicate (h : numberKnown s d (recNumber s.store a) = true) : examine s d a = some .duplicate := by
  simp only [examine, if_neg number, count, h]
  rfl

variable (fresh : ¬numberKnown s d (recNumber s.store a) = true)
include fresh

theorem examine_item {r : Reason} (h : (readItems s.store a).findSome? (itemReason s.cfg) = some r) :
    examine s d a = some r := by
  simp only [examine, if_neg number, count, fresh, h]
  rfl

/-- What is left once every item has passed: the number of kinds and of bins. -/
theorem examine_whole (h : (readItems s.store a).findSome? (itemReason s.cfg) = none) :
    examine s d a =
      if 8 < distinctCount ((readItems s.store a).map fun i => (sizeOf s.cfg i.size).elim 0 (·.group)) then
        some .tooManyKinds
      else if 4 < ceilDiv (printCount (readItems s.store a)) s.cfg.binCap then some .tooLarge
      else none := by
  simp only [examine, if_neg number, count, fresh, h]
  rfl

end

/-- Settles O21: the checks in their order, the items in record order, and the fit. -/
theorem recordExamined : Obligations.RecordExamined := by
  intro s d a number count listOk known item size qtyOk shapeOk imageIn itemOk groups bins lane
  have list : itemListOk s.store a = true ↔ listOk := itemListOk_iff
  have dup : numberKnown s d (recNumber s.store a) = true ↔ known := numberKnown_iff
  have passes (n : Nat) : itemReason s.cfg (item n) = none ↔ itemOk n := itemReason_none_iff
  have items : readItems s.store a = (List.range count).map item := rfl
  have allPass : (readItems s.store a).findSome? (itemReason s.cfg) = none ↔ ∀ n < count, itemOk n := by
    rw [items, List.findSome?_eq_none_iff]
    simp only [List.forall_mem_map, List.mem_range, passes]
  have kinds : distinctCount ((readItems s.store a).map fun i => (sizeOf s.cfg i.size).elim 0 (·.group)) =
      groups.dedup.length := by
    rw [items, List.map_map]
    rfl
  have needed : ceilDiv (printCount (readItems s.store a)) s.cfg.binCap = bins := by
    rw [items, printCount, List.map_map]
    rfl
  have zero (h : number = 0) : examine s d a = some .zeroNumber := examine_zero h
  have itemCount (h : number ≠ 0) (l : ¬listOk) : examine s d a = some .itemCount := examine_count h (mt list.1 l)
  have duplicate (h : number ≠ 0) (l : listOk) (k : known) : examine s d a = some .duplicate :=
    examine_duplicate h (list.2 l) (dup.2 k)
  have whole (h : number ≠ 0) (l : listOk) (k : ¬known) (all : ∀ n < count, itemOk n) : examine s d a =
      if 8 < groups.dedup.length then some .tooManyKinds else if 4 < bins then some .tooLarge else none := by
    rw [examine_whole h (list.2 l) (mt dup.1 k) (allPass.2 all), kinds, needed]
  refine ⟨zero, itemCount, duplicate, fun h l k => ⟨fun n lt before => ?_, fun all => ⟨fun many => ?_, fun few large => ?_,
    fun few small => ?_⟩⟩, fun none => ?_, ?_⟩
  · have first {r : Reason} (here : itemReason s.cfg (item n) = some r) : examine s d a = some r :=
      examine_item h (list.2 l) (mt dup.1 k) (findSome_first lt (fun m hm => (passes m).2 (before m hm)) here)
    exact ⟨fun x => first (itemReason_size x), fun x q => first (itemReason_qty x q),
      fun x q sh => first (itemReason_shape x q sh), fun x q sh im => first (itemReason_image x q sh im)⟩
  · rw [whole h l k all, if_pos many]
  · rw [whole h l k all, if_neg (by omega), if_pos large]
  · rw [whole h l k all, if_neg (by omega), if_neg (by omega)]
  · have refused {r : Reason} (x : examine s d a = some r) : False := by
      rw [none] at x
      cases x
    have h : number ≠ 0 := fun x => refused (zero x)
    have l : listOk := by_contra fun x => refused (itemCount h x)
    have k : ¬known := fun x => refused (duplicate h l x)
    have all : ∀ n < count, itemOk n := by
      refine allPass.1 (Option.eq_none_iff_forall_ne_some.2 fun r x => ?_)
      exact refused (examine_item h (list.2 l) (mt dup.1 k) x)
    have rest := (whole h l k all).symm.trans none
    refine ⟨h, l, k, all, ?_, ?_⟩
    · by_contra many
      rw [if_pos (by omega)] at rest
      cases rest
    · by_contra large
      rw [if_pos (show 4 < bins by omega)] at rest
      split at rest <;> cases rest
  · rw [recordFits, items]
    simp only [List.all_map, List.all_eq_true, List.mem_range, Function.comp, sizeFits, Option.any_eq_true,
      Bool.and_eq_true, decide_eq_true_eq]
    rfl

end Sys2Proof.Machine
end

section
/-! SUPPORT. The opening of an order, part by part (R16, R128, R150, R151). -/

namespace Sys2Proof.Machine

/-! ## Bins (R128) -/

/-- A bin reserved for an order. -/
def Bin.reservedFor (o : Owner) (b : Bin) : Bin :=
  { b with state := .reserved, owner := some o, delivered := 0, routed := 0, countdown := none }

/-- The bin table changed as a whole. -/
def withBins (v : Vector Bin 32) (s : State) : State := { s with su := { s.su with bins := v } }

/-- The bin table with the bins of a list reserved for an order. -/
@[irreducible] def binsReserved (o : Owner) (l : List (Fin 32)) (v : Vector Bin 32) : Vector Bin 32 :=
  Vector.ofFn fun b : Fin 32 => if b ∈ l then v[b].reservedFor o else v[b]

theorem binsReserved_get (o : Owner) (l : List (Fin 32)) (v : Vector Bin 32) (b : Fin 32) :
    (binsReserved o l v)[b] = if b ∈ l then v[b].reservedFor o else v[b] := by
  simp [binsReserved]

theorem reserveBin_withBins (o : Owner) (b : Fin 32) (v : Vector Bin 32) (s : State) :
    reserveBin o (withBins v s) b = withBins (v.set b.1 (v[b].reservedFor o) b.2) s := rfl

theorem foldl_withBins (o : Owner) (l : List (Fin 32)) (v : Vector Bin 32) (s : State) :
    l.foldl (reserveBin o) (withBins v s) = withBins (binsReserved o l v) s := by
  induction l generalizing v with
  | nil =>
    have same : binsReserved o [] v = v := by
      refine Vector.ext fun j hj => ?_
      simpa using binsReserved_get o [] v ⟨j, hj⟩
    rw [same]
    rfl
  | cons b l ih =>
    have table : binsReserved o l (v.set b.1 (v[b].reservedFor o) b.2) = binsReserved o (b :: l) v := by
      refine Vector.ext fun j hj => ?_
      have left := binsReserved_get o l (v.set b.1 (v[b].reservedFor o) b.2) ⟨j, hj⟩
      have right := binsReserved_get o (b :: l) v ⟨j, hj⟩
      simp only [Fin.getElem_fin, Vector.getElem_set] at left right ⊢
      rw [left, right]
      by_cases same : b.1 = j
      · subst same
        simp [Bin.reservedFor]
      · have ne : (⟨j, hj⟩ : Fin 32) ≠ b := fun e => same (Fin.ext_iff.1 e).symm
        simp only [List.mem_cons, ne, false_or, if_neg same]
    rw [List.foldl_cons, reserveBin_withBins, ih, table]

theorem reserveBins_foldl (o : Owner) (l : List (Fin 32)) (s : State) :
    l.foldl (reserveBin o) s = withBins (binsReserved o l s.su.bins) s := foldl_withBins o l s.su.bins s

/-! ## The generation an order takes (R150) -/

theorem find_filterMap (l : List (Option GenSlot)) :
    ((l.filterMap id).find? (·.current)).map (·.number) =
      l.findSome? fun g => (g.filter (·.current)).map (·.number) := by
  induction l with
  | nil => rfl
  | cons g l ih =>
    cases g with
    | none => simpa using ih
    | some g =>
      rw [List.filterMap_cons_some (f := id) rfl, List.findSome?_cons, List.find?_cons, Option.filter_some]
      cases current : g.current
      · exact ih
      · rfl

section
variable {s : State} {j : Fin 2} {g : GenSlot}

theorem holdCurrent_none (h : s.pu.gens[j] = none) : (holdCurrent s).pu.gens[j] = none := by
  unfold holdCurrent
  split
  · rw [setHold_get]
    split <;> simp_all
  · exact h

theorem holdCurrent_other (h : s.pu.gens[j] = some g) (other : g.current = false) :
    (holdCurrent s).pu.gens[j] = some g := by
  unfold holdCurrent
  split
  next i found =>
    have named := List.find?_some found
    rw [setHold_get, if_neg, h]
    rintro rfl
    rw [h] at named
    simp [other] at named
  · exact h

theorem holdCurrent_held (h : s.pu.gens[j] = some g) (current : g.current = true)
    (first : ∀ k < j, ∀ x, s.pu.gens[k] = some x → x.current = false) :
    (holdCurrent s).pu.gens[j] = some { g with hold := g.hold + 1 } := by
  have found : findGen s (·.current) = some j := findGen_eq_some (by rw [h]; exact current) fun k hk => by
    cases held : s.pu.gens[k] with
    | none => rfl
    | some x => exact first k hk x held
  unfold holdCurrent
  simp only [found]
  rw [setHold_get, if_pos rfl, h]
  rfl

end

/-! ## The opening -/

/-- The part with an order's bins reserved and its tally begun. -/
def orderPrepared (i : Fin 8) (a : Word) (bins : List (Fin 32)) (s : State) : State :=
  setPuOrder i { kinds := kindsOf s.cfg (readItems s.store a.toNat) }
    (withBins (binsReserved { slot := i, number := recNumber s.store a.toNat } bins s.su.bins) s)

/-- The part with an order opened: its bins reserved, its generation held, its slot filled and its record written. -/
def afterOpening (i : Fin 8) (q : QueueId) (a : Word) (bins : List (Fin 32)) (s : State) : State :=
  let t := putOrder i (newOrder s q a bins) (holdCurrent (orderPrepared i a bins s))
  { t with om := { t.om with seq := t.om.seq + 1 } }

section
variable {q : QueueId} {a : Word} {s : State}

theorem freeOrderSlot_none (h : ∀ i : Fin 8, s.om.table[i].isSome) : freeOrderSlot s = none :=
  List.find?_eq_none.2 fun i _ => by simpa using Option.isSome_iff_ne_none.1 (h i)

theorem freeOrderSlot_some {i : Fin 8} (free : s.om.table[i] = none) (first : ∀ j < i, s.om.table[j].isSome) :
    freeOrderSlot s = some i := by
  rw [freeOrderSlot, List.find?_eq_some_iff_append]
  refine ⟨by rw [free]; rfl, (List.finRange 8).take i.1, (List.finRange 8).drop (i.1 + 1), ?_, fun j hj => ?_⟩
  · have cut := List.take_append_drop i.1 (List.finRange 8)
    rw [List.drop_eq_getElem_cons (by simp)] at cut
    simpa using cut.symm
  · obtain ⟨k, hk, rfl⟩ := List.mem_take_iff_getElem.1 hj
    have lt : k < i.1 := by
      rw [List.length_finRange] at hk
      omega
    have held := first ⟨k, by omega⟩ lt
    simpa using held

theorem openOrder_waitSlot (h : ∀ i : Fin 8, s.om.table[i].isSome) : openOrder q a s = .waitSlot := by
  simp only [openOrder, freeOrderSlot_none h]

variable {i : Fin 8} (slot : freeOrderSlot s = some i)
include slot

theorem openOrder_waitBins
    (h : (freeBins s).length < ceilDiv (printCount (readItems s.store a.toNat)) s.cfg.binCap) :
    openOrder q a s = .waitBins := by
  simp only [openOrder, slot, reserveBins, if_neg (Nat.not_le.2 h)]

theorem openOrder_opened
    (h : ceilDiv (printCount (readItems s.store a.toNat)) s.cfg.binCap ≤ (freeBins s).length) :
    openOrder q a s = .opened i
      (afterOpening i q a ((freeBins s).take (ceilDiv (printCount (readItems s.store a.toNat)) s.cfg.binCap)) s) := by
  simp only [openOrder, slot, reserveBins, if_pos h, reserveBins_foldl]
  rfl

end

end Sys2Proof.Machine
end

section
/-! CLAIMS. The opening of an order (R16, R128, R150, R151). -/

namespace Sys2Proof.Machine

section
variable (i : Fin 8) (q : QueueId) (a : Word) (bins : List (Fin 32)) (s : State)

@[simp] theorem orderPrepared_frame :
    (orderPrepared i a bins s).cu = s.cu ∧ (orderPrepared i a bins s).om = s.om ∧ (orderPrepared i a bins s).rc = s.rc ∧
      (orderPrepared i a bins s).wt = s.wt ∧ (orderPrepared i a bins s).pu.counter = s.pu.counter ∧
      (orderPrepared i a bins s).store = s.store :=
  ⟨rfl, rfl, rfl, rfl, rfl, rfl⟩

theorem afterOpening_gens : (afterOpening i q a bins s).pu.gens = (holdCurrent (orderPrepared i a bins s)).pu.gens := by
  simp [afterOpening]

theorem afterOpening_orders : (afterOpening i q a bins s).pu.orders =
    s.pu.orders.set i.1 { kinds := kindsOf s.cfg (readItems s.store a.toNat) } i.2 := by
  simp only [afterOpening, putOrder_frame, holdCurrent_frame]
  rfl

theorem afterOpening_bins : (afterOpening i q a bins s).su.bins =
    binsReserved { slot := i, number := recNumber s.store a.toNat } bins s.su.bins := by
  simp only [afterOpening, putOrder_frame, holdCurrent_frame]
  rfl

/-- The progress of an order just opened. -/
def freshProgress (bins : List BinPlace) (gen : Option Word) (n : Nat) : Progress :=
  { bins := bins, gen := gen, state := .opened, reason := .noReason, items := List.replicate n {} }

theorem newOrder_progress : (newOrder s q a bins).progress =
    freshProgress (bins.map fun b => { bin := b }) (genForOpening s) (readItems s.store a.toNat).length := rfl

/-- The record of an order just opened shows it OPEN, with its bins and its generation (R16, R150). -/
theorem writeRecord_fresh (places : List BinPlace) (gen : Option Word) (k : Nat) {v : State} (h : StoreCanonical v) :
    let m := (writeRecord a (freshProgress places gen k) v).store
    let b := a.toNat
    Memory.read8 m (b + 0x34) = 2 ∧ Memory.read8 m (b + 0x35) = 0 ∧ Memory.read16 m (b + 0x10) = 0 ∧
      Memory.read16 m (b + 0x12) = 0 ∧ Memory.read16 m (b + 0x14) = 0 ∧ Memory.read16 m (b + 0x16) = 0 ∧
      Memory.read16 m (b + 0x18) = 0 ∧ Memory.read8 m (b + 0x1A) = 0 ∧ Memory.read32 m (b + 0x20) = 0 ∧
      Memory.read32 m (b + 0x24) = 0 ∧ Memory.read32 m (b + 0x28) = 0 ∧
      Memory.readWord m (b + 0x2C) = gen.getD 0 ∧
      (∀ j < 4, Memory.read8 m (b + 0x1C + j) = (places[j]?).elim 255 fun x => x.bin.1 + if x.early then 64 else 0) ∧
      ∀ n < k, Memory.read16 m (b + 64 + 32 * n + 0x10) = 0 ∧
        Memory.read16 m (b + 64 + 32 * n + 0x12) = 0 ∧ Memory.read8 m (b + 64 + 32 * n + 0x14) = 0 := by
  intro m b
  have words := writeRecord_words a (freshProgress places gen k) h
  obtain ⟨-, -, composed, good, rejected, failed, caught, flags, bins, subtotal, discount, total, gen, -, state, reason,
    items⟩ := words
  exact ⟨state, reason, composed, good, rejected, failed, caught, flags, subtotal, discount, total, gen, bins,
    fun n hn => items n {} (by simpa [freshProgress, List.getElem?_replicate] using hn)⟩

theorem afterOpening_store : (afterOpening i q a bins s).store =
    (writeRecord a (freshProgress (bins.map fun b => { bin := b }) (genForOpening s) (readItems s.store a.toNat).length)
      (setSlot i (some (newOrder s q a bins)) (holdCurrent (orderPrepared i a bins s)))).store := by
  have addr : (newOrder s q a bins).addr = a := rfl
  rw [afterOpening, putOrder, newOrder_progress, addr]

end

/-- Settles O22: the waits, and the parts of an opening. -/
theorem orderOpened : Obligations.OrderOpened := by
  intro Q a s items need free
  refine ⟨openOrder_waitSlot, fun i none first => ?_⟩
  have slot := freeOrderSlot_some none first
  refine ⟨openOrder_waitBins slot, fun enough => ?_⟩
  have gen : genForOpening s = s.pu.gens.toList.findSome? fun g => (g.filter (·.current)).map (·.number) :=
    find_filterMap _
  refine ⟨_, newOrder s Q a (free.take need), openOrder_opened slot enough, ?_⟩
  refine ⟨(putOrder_get i i _ _).trans (if_pos rfl), fun j ne => ?_, rfl, rfl, rfl, rfl, ?_, rfl, rfl, rfl, rfl, rfl, rfl,
    rfl, rfl, rfl, rfl, rfl, rfl, gen, fun j g held => ⟨fun other => ?_, fun current before => ?_⟩, fun j held => ?_, ?_, ?_,
    fun j ne => ?_, ?_, ?_, ?_, ?_, ?_, fun canonical => ?_, fun b => ?_⟩
  · refine (putOrder_get i j _ _).trans ((if_neg ne.symm).trans ?_)
    simp
  · simp [afterOpening]
  · rw [afterOpening_gens]
    exact holdCurrent_other (s := orderPrepared i a _ s) held other
  · rw [afterOpening_gens]
    exact holdCurrent_held (s := orderPrepared i a _ s) held current before
  · rw [afterOpening_gens]
    exact holdCurrent_none (s := orderPrepared i a _ s) held
  · simp [afterOpening]
  · rw [afterOpening_orders, Fin.getElem_fin, Vector.getElem_set_self]
    rfl
  · rw [afterOpening_orders, Fin.getElem_fin, Vector.getElem_set_ne _ _ (fun e => ne (Fin.ext e.symm))]
    rfl
  · simp [afterOpening]
  · simp [afterOpening]
  · simp [afterOpening]
  · simp [afterOpening]
  · simp [afterOpening]
  · have store : StoreCanonical (setSlot i (some (newOrder s Q a (free.take need)))
        (holdCurrent (orderPrepared i a (free.take need) s))) := by
      simp only [StoreCanonical, setSlot_frame, holdCurrent_frame, orderPrepared_frame]
      exact canonical
    have words := writeRecord_fresh a ((free.take need).map fun b => { bin := b }) (genForOpening s) items.length store
    rw [← afterOpening_store] at words
    obtain ⟨state, reason, composed, good, rejected, failed, caught, flags, subtotal, discount, total, gen, bins, items⟩ :=
      words
    refine ⟨state, reason, composed, good, rejected, failed, caught, flags, subtotal, discount, total, gen, fun j hj => ?_,
      items⟩
    refine (bins j hj).trans ?_
    rw [List.getElem?_map]
    cases (free.take need)[j]? <;> rfl
  · rw [afterOpening_bins, binsReserved_get]
    rfl

end Sys2Proof.Machine
end

section
/-! CLAIMS. New orders are sought, and heads are taken (R6 to R9, R33 to R35). -/

namespace Sys2Proof.Machine

/-! ## Records refused and deferred -/

theorem zeroItems_length (m : Memory) (a : Nat) : (zeroItems m a).length ≤ 64 := by
  unfold zeroItems
  split
  next ok => exact (List.length_replicate (n := recItemCount m a)).trans_le (itemListOk_iff.1 ok).2.1
  next => exact Nat.zero_le _

/-- The bytes of a record that a writing can change. -/
def recordBytes (a : Nat) (x : Nat) : Prop := a + 16 ≤ x ∧ x < a + 64 + 32 * 64

theorem writeRecord_kept {s : State} (h : StoreCanonical s) (a : Word) (p : Progress) (few : p.items.length ≤ 64) :
    storeKept (recordBytes a.toNat) s (writeRecord a p s) := by
  have words := writeRecord_words a p h
  obtain ⟨-, kept, -⟩ := words
  refine fun x out => kept x ?_
  rintro (⟨low, high⟩ | ⟨n, hn, low, high⟩)
  · exact out ⟨low, by omega⟩
  · exact out ⟨by omega, by omega⟩

theorem refuseRecord_written (a : Word) (r : Reason) (s : State) : ∃ v, refuseRecord a r s = post .orderRefused a v ∧
    v = { s with store := v.store } ∧ (StoreCanonical s → recordUnopened v.store a.toNat 7 r.code ∧
      storeKept (recordBytes a.toNat) s v) := by
  refine ⟨_, rfl, writeRecord_shape a _ s, fun h => ⟨writeRecord_unopened h a .refused r _, writeRecord_kept h a _ ?_⟩⟩
  dsimp only
  split
  · exact Nat.zero_le _
  · exact zeroItems_length _ _

theorem deferRecord_written (q : QueueId) (a : Word) (s : State) : ∃ v, deferRecord q a s = post .paperWanted a v ∧
    v = { s with
      store := v.store
      om := { s.om with
        deferred := s.om.deferred ++
          [{ addr := a, number := Memory.readWord s.store (a.toNat + 4), queue := q, fits := false }] } } ∧
    (StoreCanonical s → recordUnopened v.store a.toNat 1 1 ∧ storeKept (recordBytes a.toNat) s v) := by
  let listed : State := { s with
    om := { s.om with
      deferred := s.om.deferred ++
        [{ addr := a, number := Memory.readWord s.store (a.toNat + 4), queue := q, fits := false }] } }
  refine ⟨writeRecord a { state := .deferred, reason := .noFit, items := zeroItems s.store a.toNat } listed, rfl,
    writeRecord_shape a _ listed, fun h => ⟨?_, ?_⟩⟩
  · exact writeRecord_unopened (s := listed) h a .deferred .noFit _
  · exact writeRecord_kept (s := listed) h a _ (zeroItems_length _ _)

/-! ## The take of a head (R6) -/

section
variable {q : QueueId} {s : State}

theorem takeHead_refused {r : Reason} (h : examine s s.om.deferred (s.om.queues.get q).next.toNat = some r) :
    takeHead q s = .passed (followLink q (s.om.queues.get q).next (refuseRecord (s.om.queues.get q).next r s)) := by
  simp only [takeHead, h]

variable (passes : examine s s.om.deferred (s.om.queues.get q).next.toNat = none)
include passes

theorem takeHead_deferred (fits : recordFits s (s.om.queues.get q).next.toNat = false) (room : s.om.deferred.length < 8) :
    takeHead q s = .passed (followLink q (s.om.queues.get q).next (deferRecord q (s.om.queues.get q).next s)) := by
  simp only [takeHead, passes, fits]
  exact if_pos room

theorem takeHead_blocked (fits : recordFits s (s.om.queues.get q).next.toNat = false) (full : 8 ≤ s.om.deferred.length) :
    takeHead q s = .blocked (setQueue q { s.om.queues.get q with state := .blocked, halt := .deferFull } s) := by
  simp only [takeHead, passes, fits]
  exact if_neg (Nat.not_lt.2 full)

theorem takeHead_fits (fits : recordFits s (s.om.queues.get q).next.toNat = true) :
    (∀ i t, openOrder q (s.om.queues.get q).next s = .opened i t →
      takeHead q s = .opened i (followLink q (s.om.queues.get q).next t)) ∧
    (openOrder q (s.om.queues.get q).next s = .waitSlot → takeHead q s = .waitSlot) ∧
    (openOrder q (s.om.queues.get q).next s = .waitBins → takeHead q s = .waitBins) := by
  refine ⟨fun i t o => ?_, fun o => ?_, fun o => ?_⟩ <;> simp only [takeHead, passes, fits, if_true, o]

end

/-! ## The questions to a queue (R33 to R35) -/

theorem takeFirst_found {i : Fin 8} {t : State} {o : OpenOrder} {k : Cursor} (held : t.om.table[i] = some o)
    (cursor : o.cursor = some k) : takeFirst i t =
      .found { slot := i, number := o.number, item := k.item, copy := k.copy, attempt := 1 } (commitCopy i o k t) := by
  simp only [takeFirst, held, cursor, takeCopy]

/-- The first item's row length of a record, as a search looks at it. -/
def firstLines (s : State) (a : Word) : Option Nat :=
  (sizeOf s.cfg (readItem s.store a.toNat 0).size).map fun z => z.length * 12 / 10

/-- Whether a search goes on to take a head: it needs no length, or the head's first item has it (R35). -/
def headWanted (s : State) (need : Option Nat) (a : Word) : Prop :=
  need = none ∨ 1 ≤ recItemCount s.store a.toNat ∧ recItemCount s.store a.toNat ≤ 64 ∧ need = firstLines s a

theorem headWanted_iff {s : State} {need : Option Nat} {a : Word} :
    headWanted s need a ↔ ¬(need.isSome = true ∧ headLines s a ≠ need) := by
  have lines : headLines s a =
      if 1 ≤ recItemCount s.store a.toNat ∧ recItemCount s.store a.toNat ≤ 64 then firstLines s a else none := by
    simp only [headLines, within, Bool.and_eq_true, decide_eq_true_eq]
    rfl
  rw [headWanted, lines]
  cases need with
  | none => simp
  | some n =>
    by_cases count : 1 ≤ recItemCount s.store a.toNat ∧ recItemCount s.store a.toNat ≤ 64
    · simp [count, eq_comm]
    · simp [count, ← and_assoc]

section
variable {q : QueueId} {need : Option Nat} {n : Nat} {s : State}

theorem askQueue_idle (h : (s.om.queues.get q).state ≠ .active) :
    askQueue q need (n + 1) s = .nothing (setBinWait q false s) := by
  rw [askQueue, if_pos h]

variable (active : (s.om.queues.get q).state = .active)
include active

theorem askQueue_unwanted (h : ¬headWanted s need (s.om.queues.get q).next) : askQueue q need (n + 1) s = .nothing s := by
  rw [askQueue, if_neg (not_not.2 active), if_pos (by rwa [headWanted_iff, not_not] at h)]

theorem askQueue_wanted (h : headWanted s need (s.om.queues.get q).next) :
    (∀ t, takeHead q s = .passed t → askQueue q need (n + 1) s = askQueue q need n (setBinWait q false t)) ∧
    (∀ t, takeHead q s = .blocked t → askQueue q need (n + 1) s = .nothing (setBinWait q false t)) ∧
    (∀ i t, takeHead q s = .opened i t → askQueue q need (n + 1) s = takeFirst i (setBinWait q false t)) ∧
    (takeHead q s = .waitSlot → askQueue q need (n + 1) s = .nothing s) ∧
    (takeHead q s = .waitBins → askQueue q need (n + 1) s = .nothing (waitForBins q s)) := by
  refine ⟨fun t taken => ?_, fun t taken => ?_, fun i t taken => ?_, fun taken => ?_, fun taken => ?_⟩ <;>
    simp only [askQueue, if_neg (not_not.2 active), if_neg (headWanted_iff.1 h), taken]

end

theorem lengthOk_iff (need : Option Nat) (s : State) (a : Word) :
    lengthOk need (itemLines s a 0) = decide (need = none ∨ need = some ((firstLines s a).getD 0)) := by
  have lines : itemLines s a 0 = (firstLines s a).getD 0 := by
    unfold itemLines sizeLines firstLines
    cases sizeOf s.cfg (readItem s.store a.toNat 0).size <;> rfl
  rw [lines]
  cases need with
  | none => rfl
  | some n => simp [lengthOk, eq_comm]

section
variable {q : QueueId} {need : Option Nat} {s : State}

theorem takeNew_queue (h : deferredCandidate s q need = none) : takeNew q need s = askQueue q need 8388608 s := by
  simp only [takeNew, h]

variable {d : Deferred} (listed : deferredCandidate s q need = some d)
include listed

theorem takeNew_deferred :
    (∀ i t, openOrder q d.addr s = .opened i t →
      takeNew q need s = takeFirst i (dropDeferred d (setBinWait q false t))) ∧
    (openOrder q d.addr s = .waitSlot → takeNew q need s = .nothing s) ∧
    (openOrder q d.addr s = .waitBins → takeNew q need s = .nothing (waitForBins q s)) := by
  refine ⟨fun i t o => ?_, fun o => ?_, fun o => ?_⟩ <;> simp only [takeNew, listed, o]

end

/-- Settles O23: the take of a head, the questions to a queue, and the deferred list before them. -/
theorem newOrdersSought : Obligations.NewOrdersSought := by
  refine ⟨fun q s => ?_, fun q need s => ?_⟩
  · intro c a written
    refine ⟨fun r refused => ?_, fun passes unfit => ⟨fun room => ?_, takeHead_blocked passes unfit⟩, takeHead_fits⟩
    · obtain ⟨v, posted, shape, words⟩ := refuseRecord_written a r s
      exact ⟨v, by rw [takeHead_refused refused, posted], shape, words⟩
    · obtain ⟨v, posted, shape, words⟩ := deferRecord_written q a s
      exact ⟨v, by rw [takeHead_deferred passes unfit room, posted], shape, words⟩
  · intro c marked waited long looks first
    refine ⟨fun n => ⟨askQueue_idle, askQueue_unwanted, fun active wanted => ?_⟩, ?_⟩
    · obtain ⟨passed, blocked, opened, waitSlot, waitBins⟩ := askQueue_wanted (n := n) active wanted
      exact ⟨passed, blocked, fun i t o k h held cursor => (opened i t h).trans (takeFirst_found held cursor),
        waitSlot, waitBins⟩
    · intro candidate
      have listed : deferredCandidate s q need = s.om.deferred.find? candidate := by
        rw [deferredCandidate]
        congr 1
        funext d
        rw [lengthOk_iff]
        rfl
      refine ⟨fun none => takeNew_queue (listed.trans none), fun d some => ?_⟩
      obtain ⟨opened, waitSlot, waitBins⟩ := takeNew_deferred (listed.trans some)
      refine ⟨fun i t o k h held cursor => ?_, waitSlot, waitBins⟩
      intro u
      rw [opened i t h]
      exact takeFirst_found (t := dropDeferred d u) (by simpa [dropDeferred, u, marked] using held) cursor

end Sys2Proof.Machine
end

section
/-! CLAIMS. Densitometer readings and the balances they set (R85 to R89). -/

namespace Sys2Proof.Machine

/-- A notice is raised from the notice slots, the line clock and the store alone. -/
theorem post_work (c : Cause) (w : Word) (s : State) (x : Work) :
    post c w { s with work := x } = { post c w s with work := x } := by
  unfold post
  dsimp only
  split
  · rfl
  · split <;> rfl

theorem endFirstCal_eq (s : State) : endFirstCal s =
    { s with
      rc := { s.rc with firstCal := false }
      work := { s.work with attempt := s.work.attempt || s.rc.firstCal } } := by
  unfold endFirstCal
  split
  next set =>
    rw [set, Bool.or_true]
    rfl
  next clear =>
    have hold : s.rc.firstCal = false := by simpa using clear
    have rc : { s.rc with firstCal := false } = s.rc := by rw [← hold]
    rw [rc, hold, Bool.or_false]

theorem readingValid_iff (c : Conf) (m : PerChan Nat) : readingValid c m = true ↔
    ∀ k : Chan, 50 ≤ m.get k ∧ m.get k ≤ 3999 ∧ exposure (c.table.get k) (m.get k) ≠ 0 := by
  have all (p : Chan → Bool) : allChans.all p = true ↔ ∀ k, p k = true := by
    rw [List.all_eq_true]
    exact ⟨fun h k => h k (by cases k <;> decide), fun h k _ => h k⟩
  rw [readingValid, all]
  refine forall_congr' fun k => ?_
  rw [within, Bool.and_eq_true, Bool.and_eq_true, decide_eq_true_eq, decide_eq_true_eq, Bool.not_eq_true',
    decide_eq_false_iff_not, and_assoc]
  rfl

theorem newBalance_eq (old eTarget eRead : Nat) : newBalance old eTarget eRead =
    min 6143 (max 2048 (min (old + old / 8) (max (old - old / 8) ((old * eTarget + eRead / 2) / eRead)))) := by
  unfold newBalance
  dsimp only
  generalize (old * eTarget + eRead / 2) / eRead = q
  split <;> [skip; split] <;> split <;> [skip; split; skip; split; skip; split] <;> omega

/-! ## The three outcomes of a reading -/

section
variable {p : Patch} {m : PerChan Nat} {s : State}

theorem judgeReading_valid (valid : readingValid s.cfg m = true) {old : PerChan Nat} (balances : s.ca.bal = some old) :
    judgeReading p m s = { s with
      ca := { state := .valid, thetaCal := p.theta, invalid := 0, patch := none, bal := some (newBalances s.cfg old m) }
      rc := { s.rc with firstCal := false }
      work := { s.work with attempt := s.work.attempt || s.rc.firstCal } } := by
  rw [judgeReading, if_pos valid, applyReading, endFirstCal_eq, balances]
  rfl

variable (invalid : ¬readingValid s.cfg m = true)
include invalid

theorem judgeReading_again (few : s.ca.invalid < 2) :
    judgeReading p m s = { s with
      ca := { s.ca with state := .due, invalid := s.ca.invalid + 1, patch := none }
      work := { s.work with attempt := true } } := by
  rw [judgeReading, if_neg invalid, failReading, if_pos (by omega)]
  rfl

theorem judgeReading_third (many : 2 ≤ s.ca.invalid) :
    judgeReading p m s =
      { post .calFailed 0
          { s with ca := { s.ca with state := .stale, invalid := 3, thetaCal := p.theta, patch := none } } with
        rc := { s.rc with firstCal := false }
        work := { s.work with attempt := s.work.attempt || s.rc.firstCal } } := by
  rw [judgeReading, if_neg invalid, failReading, if_neg (by omega), endFirstCal_eq]
  simp only [post_frame]

end

section
variable {r g b : Nat} {s : State}

theorem densitometerReading_refused (h : 4095 < r ∨ 4095 < g ∨ 4095 < b) :
    exec (.densitometerReading r g b) s = .refused .sensorRange := by
  refine if_neg ?_
  simp only [densityInRange, Bool.and_eq_true, decide_eq_true_eq]
  omega

theorem densitometerReading_judged (hr : r ≤ 4095) (hg : g ≤ 4095) (hb : b ≤ 4095) {p : Patch} (due : patchDue s = some p) :
    exec (.densitometerReading r g b) s = .next (event (judgeReading p ⟨r, g, b⟩) s) := by
  have range : (densityInRange r && densityInRange g && densityInRange b) = true := by
    simp only [densityInRange, Bool.and_eq_true, decide_eq_true_eq]
    omega
  refine (if_pos range).trans ?_
  simp only [due]

end

/-- Settles O29: the three outcomes of a reading, and the bounds of R87. -/
theorem readingsSetBalances : Obligations.ReadingsSetBalances := by
  refine ⟨fun r g b s => ⟨densitometerReading_refused, fun hr hg hb p old flying patch balances there => ?_⟩,
    fun old eTarget eRead low high _ => ?_⟩
  · intro m e valid
    have due := (patchDue_iff s p).2 ⟨flying, patch, there⟩
    have judged : readingValid s.cfg m = true ↔ valid := readingValid_iff s.cfg m
    rw [densitometerReading_judged hr hg hb due, event]
    refine ⟨fun good => ?_, fun bad few => ?_, fun bad many => ?_⟩
    · rw [judgeReading_valid (m := ⟨r, g, b⟩) (s := { s with work := {} }) (judged.2 good) balances, Bool.false_or]
      rfl
    · rw [judgeReading_again (m := ⟨r, g, b⟩) (s := { s with work := {} }) (mt judged.1 bad) few]
    · rw [judgeReading_third (m := ⟨r, g, b⟩) (s := { s with work := {} }) (mt judged.1 bad) many, Bool.false_or]
      have posted := post_work .calFailed 0
        { s with ca := { s.ca with state := .stale, invalid := 3, thetaCal := p.theta, patch := none } } {}
      rw [posted]
  · intro q
    have step := newBalance_eq old eTarget eRead
    have range := newBalance_range old eTarget eRead
    refine ⟨step, range.1, range.2, ?_, ?_⟩ <;> rw [step] <;> omega

end Sys2Proof.Machine
end

section
/-! CLAIMS. Price lines, breaks, tallies and the price at a close (R153 to R159). -/

namespace Sys2Proof.Machine

/-! ## The price of a tally -/

section
variable (t : PriceTable) (tier : Nat)

/-- The unit price a tally entry is priced with: 0 where no line matches. -/
def unitOf (e : TallyEntry) : Nat := (lineFor t.lines e.kind tier).elim 0 fun l => l.unitPrice e.qty

theorem priceEntry_getD (e : TallyEntry) : (priceEntry t tier e).getD 0 = unitOf t tier e := by
  unfold priceEntry unitOf
  cases lineFor t.lines e.kind tier <;> rfl

theorem amountOf_eq : amountOf t tier = fun e => e.qty * unitOf t tier e := by
  funext e
  rw [amountOf, priceEntry_getD]

theorem discountOf_eq (p : Promotion) (tally : List TallyEntry) :
    let m := tally.filter fun e => p.mask.getLsbD e.kind.group
    let amount := (m.map fun e => e.qty * unitOf t tier e).sum
    (p.kind = .percent → discountOf t tier p tally = (amount * p.value + 50) / 100) ∧
    (p.kind = .freeNth → discountOf t tier p tally = (m.map fun e => e.qty / p.value * unitOf t tier e).sum) ∧
    (p.kind = .fixedOff → discountOf t tier p tally = min p.value amount) := by
  intro m amount
  have whole : maskedAmount t tier p tally = amount := by rw [maskedAmount, amountOf_eq]; rfl
  refine ⟨fun k => ?_, fun k => ?_, fun k => ?_⟩ <;> simp only [discountOf, k, whole, priceEntry_getD]
  rfl

theorem maskedAmount_le (p : Promotion) (tally : List TallyEntry) :
    maskedAmount t tier p tally ≤ (tally.map (amountOf t tier)).sum :=
  (List.filter_sublist.map _).sum_le_sum fun _ _ => Nat.zero_le _

/-- A discount takes off no more than the subtotal (R156). -/
theorem discountOf_le {p : Promotion} (percent : p.kind = .percent → p.value ≤ 100) (tally : List TallyEntry) :
    discountOf t tier p tally ≤ (tally.map (amountOf t tier)).sum := by
  refine Nat.le_trans ?_ (maskedAmount_le t tier p tally)
  unfold discountOf
  split
  next k =>
    have := Nat.mul_le_mul_left (maskedAmount t tier p tally) (percent k)
    omega
  next =>
    exact List.sum_le_sum fun e _ => Nat.mul_le_mul_right _ (Nat.div_le_self _ _)
  next => exact Nat.min_le_right _ _

end

/-- A promotion found takes off its discount when it is met, and nothing when it is not (R155). -/
theorem priceTally_found {t : PriceTable} {tier promo : Nat} {tally : List TallyEntry} {q : Promotion} (ask : promo ≠ 0)
    (found : t.promos.find? (fun q => decide (q.code = promo)) = some q) :
    (priceTally t tier promo tally).promoUnknown = false ∧
      ((priceTally t tier promo tally).subtotal < q.qualifying →
        (priceTally t tier promo tally).discount = 0 ∧ (priceTally t tier promo tally).promoNotMet = true) ∧
      (q.qualifying ≤ (priceTally t tier promo tally).subtotal →
        (priceTally t tier promo tally).discount = discountOf t tier q tally ∧
          (priceTally t tier promo tally).promoNotMet = false) := by
  refine ⟨by simp [priceTally, found], fun short => ?_, fun met => ?_⟩
  · have unmet : ¬q.qualifying ≤ (tally.map (amountOf t tier)).sum := Nat.not_le.2 short
    simp [priceTally, found, ask, unmet, Option.filter_some]
  · have met : q.qualifying ≤ (tally.map (amountOf t tier)).sum := met
    simp [priceTally, found, ask, met, Option.filter_some]

/-- Settles O49: the sum, the promotion found or not, met or not, and the minimum charge. -/
theorem priceOfTally : Obligations.PriceOfTally := by
  intro t tier promo tally percent p unit
  have subtotal : p.subtotal = (tally.map fun e => e.qty * unit e).sum := congrArg (fun f => (tally.map f).sum) (amountOf_eq t tier)
  have subtotal' : p.subtotal = (tally.map (amountOf t tier)).sum := rfl
  have within : p.discount ≤ p.subtotal := by
    rw [subtotal']
    change (if promo = 0 then 0 else _) ≤ _
    split
    · exact Nat.zero_le _
    · cases found : (t.promos.find? fun q => decide (q.code = promo)).filter
        fun q => decide (q.qualifying ≤ (tally.map (amountOf t tier)).sum) with
      | none => exact Nat.zero_le _
      | some q =>
        have mem := List.mem_of_find?_eq_some (Option.filter_eq_some_iff.1 found).1
        exact discountOf_le t tier (percent q mem) tally
  have raised : p.minCharge = (decide (p.subtotal ≠ 0) && decide (p.subtotal - p.discount < t.minCharge)) := rfl
  have total : p.total = if p.subtotal = 0 then 0 else if p.minCharge then t.minCharge else p.subtotal - p.discount := rfl
  refine ⟨subtotal, within, fun zero => ⟨by rw [total, if_pos zero], by simp [raised, zero]⟩, fun pos => ⟨?_, ?_⟩, ?_,
    fun none => ⟨if_pos none, ?_, ?_⟩, fun ask unknown => ?_, fun q ask found => ?_⟩
  · rw [total, if_neg pos]
    by_cases low : p.subtotal - p.discount < t.minCharge
    · rw [if_pos (by simp [raised, pos, low]), Nat.max_eq_left low.le]
    · rw [if_neg (by simp [raised, pos, low]), Nat.max_eq_right (Nat.not_lt.1 low)]
  · simp [raised, pos]
  · change tally.any (fun e => (priceEntry t tier e).isNone) = true ↔ _
    simp [priceEntry, List.any_eq_true]
  · change (decide (promo ≠ 0) && _) = false
    simp [none]
  · change (decide (promo ≠ 0) && _ && _) = false
    simp [none]
  · have found : t.promos.find? (fun q => decide (q.code = promo)) = Option.none :=
      List.find?_eq_none.2 fun q hq => by simpa using unknown q hq
    simp [p, priceTally, found, ask]
  · obtain ⟨known, unmet, met⟩ := priceTally_found (tier := tier) (tally := tally) ask found
    refine ⟨known, unmet, fun reached => ⟨(met reached).2, ?_⟩⟩
    intro masked amount
    have off : p.discount = discountOf t tier q tally := (met reached).1
    obtain ⟨percent, freeNth, fixedOff⟩ := discountOf_eq t tier q tally
    exact ⟨fun k => off.trans (percent k), fun k => off.trans (freeNth k), fun k => off.trans (fixedOff k)⟩

/-! ## Lines, breaks and the price at a close -/

theorem matchesAt_iff {l : PriceLine} {k : ItemKind} {tier : Nat} {level : Fin 4} :
    l.matchesAt k tier level = true ↔ l.group = k.group ∧
      (level.1 = 0 ∧ l.surface = some k.surface ∧ l.tier = some tier ∨
        level.1 = 1 ∧ l.surface = some k.surface ∧ l.tier = none ∨
        level.1 = 2 ∧ l.surface = none ∧ l.tier = some tier ∨ level.1 = 3 ∧ l.surface = none ∧ l.tier = none) := by
  match level with
  | 0 => simp [PriceLine.matchesAt, and_assoc]
  | 1 => simp [PriceLine.matchesAt, and_assoc]
  | 2 => simp [PriceLine.matchesAt, and_assoc]
  | 3 => simp [PriceLine.matchesAt, and_assoc]

/-- The last break of an ascending list that a quantity reaches has the greatest minimum (R154). -/
theorem unitPrice_of_greatest {l : PriceLine} {q : Nat} (sorted : l.breaks.Pairwise fun a b => a.minimum < b.minimum)
    {b : Break} (mem : b ∈ l.breaks) (le : b.minimum ≤ q)
    (greatest : ∀ x ∈ l.breaks, x.minimum ≤ q → x.minimum ≤ b.minimum) : l.unitPrice q = b.price := by
  have here : b ∈ l.breaks.filter fun b => decide (b.minimum ≤ q) := List.mem_filter.2 ⟨mem, by simpa using le⟩
  have ordered := sorted.filter fun b => decide (b.minimum ≤ q)
  cases last : (l.breaks.filter fun b => decide (b.minimum ≤ q)).getLast? with
  | none =>
    rw [List.getLast?_eq_none_iff.1 last] at here
    cases here
  | some x =>
    obtain ⟨before, cut⟩ := List.getLast?_eq_some_iff.1 last
    rw [PriceLine.unitPrice, last]
    rw [cut] at here ordered
    obtain earlier | same := List.mem_append.1 here
    · have lt := (List.pairwise_append.1 ordered).2.2 b earlier x List.mem_cons_self
      obtain ⟨inBreaks, reached⟩ := List.mem_filter.1 (List.mem_of_getLast? last)
      exact absurd lt (Nat.not_lt.2 (greatest x inBreaks (by simpa using reached)))
    · rw [List.mem_singleton.1 same]
      rfl

theorem unitPrice_base {l : PriceLine} {q : Nat} (h : ∀ b ∈ l.breaks, q < b.minimum) : l.unitPrice q = l.base := by
  have none : l.breaks.filter (fun b => decide (b.minimum ≤ q)) = [] :=
    List.filter_eq_nil_iff.2 fun b hb => by simpa using h b hb
  rw [PriceLine.unitPrice, none]
  rfl

/-- The first line of a list at a level. -/
def firstAt (ls : List PriceLine) (k : ItemKind) (tier : Nat) (level : Fin 4) : Option PriceLine :=
  ls.find? fun l => l.matchesAt k tier level

theorem findSome_four {α : Type} (f : Fin 4 → Option α) :
    (List.finRange 4).findSome? f = (f 0).or ((f 1).or ((f 2).or (f 3))) := by
  have levels : List.finRange 4 = [0, 1, 2, 3] := by decide
  rw [levels]
  simp only [List.findSome?_cons, List.findSome?_nil]
  cases f 0 <;> cases f 1 <;> cases f 2 <;> cases f 3 <;> rfl

theorem lineFor_eq (ls : List PriceLine) (k : ItemKind) (tier : Nat) : lineFor ls k tier =
    (firstAt ls k tier 0).or ((firstAt ls k tier 1).or ((firstAt ls k tier 2).or (firstAt ls k tier 3))) :=
  findSome_four (firstAt ls k tier)

section
variable {ls : List PriceLine} {k : ItemKind} {tier : Nat} {level : Fin 4}

theorem firstAt_none_iff : firstAt ls k tier level = none ↔ ∀ l ∈ ls, l.matchesAt k tier level = false := by
  simp [firstAt]

theorem firstAt_some {l : PriceLine} {i : Nat} (here : ls[i]? = some l) (at_ : l.matchesAt k tier level = true)
    (first : ∀ j < i, ∀ x, ls[j]? = some x → x.matchesAt k tier level = false) : firstAt ls k tier level = some l := by
  obtain ⟨lt, rfl⟩ := List.getElem?_eq_some_iff.1 here
  rw [firstAt, List.find?_eq_some_iff_getElem]
  refine ⟨at_, i, lt, rfl, fun j hj => ?_⟩
  rw [first j hj _ (List.getElem?_eq_getElem (hj.trans lt))]
  rfl

/-- The lowest level at which a line matches gives the line (R153). -/
theorem lineFor_at {l : PriceLine} (here : firstAt ls k tier level = some l)
    (lower : ∀ m < level, firstAt ls k tier m = none) : lineFor ls k tier = some l := by
  rw [lineFor_eq]
  match level with
  | 0 => rw [here]; rfl
  | 1 => rw [here, lower 0 (by decide)]; rfl
  | 2 => rw [here, lower 0 (by decide), lower 1 (by decide)]; rfl
  | 3 => rw [here, lower 0 (by decide), lower 1 (by decide), lower 2 (by decide)]; rfl

theorem lineFor_none_iff : lineFor ls k tier = none ↔ ∀ level : Fin 4, firstAt ls k tier level = none := by
  rw [lineFor_eq]
  simp [Option.or_eq_none_iff, Fin.forall_fin_succ]

end

section
variable {s : State} {i : Fin 8} {o : OpenOrder}

theorem priceOrder_uncharged (h : o.phase = .withdrawing false) : priceOrder s i o = { withdrawnUncharged := true } :=
  if_pos h

variable (charged : o.phase ≠ .withdrawing false)
include charged

theorem priceOrder_without (h : o.gen = none) : priceOrder s i o = priceWithout o.promo := by
  rw [priceOrder, if_neg charged, h]
  rfl

theorem priceOrder_with {n : Word} {t : PriceTable} (h : o.gen = some n) (table : tableOf s n = some t) :
    priceOrder s i o = priceTally t o.tier o.promo s.pu.orders[i].tally := by
  rw [priceOrder, if_neg charged, h]
  simp only [Option.bind_some, table]

end

theorem tableOf_eq {s : State} {j : Fin 2} {g : GenSlot} (held : s.pu.gens[j] = some g)
    (only : ∀ (k : Fin 2) (x : GenSlot), s.pu.gens[k] = some x → x.number = g.number → k = j) :
    tableOf s g.number = some g.table := by
  have both : s.pu.gens.toList = [s.pu.gens[(0 : Fin 2)], s.pu.gens[(1 : Fin 2)]] := by
    refine List.ext_getElem (by simp) fun n h _ => ?_
    rw [Vector.length_toList] at h
    interval_cases n <;> simp
  rw [tableOf, both]
  match j with
  | 0 =>
    rw [held]
    simp
  | 1 =>
    rw [held]
    cases first : s.pu.gens[(0 : Fin 2)] with
    | none => simp
    | some x =>
      have ne : x.number ≠ g.number := fun same => absurd (only 0 x first same) (by decide)
      simp [ne]

/-- Settles O50: the four levels of a line, the break reached, and the three cases of a close. -/
theorem pricesChosen : Obligations.PricesChosen := by
  refine ⟨fun ls k tier => ?_, fun l q sorted => ⟨fun b mem le greatest => unitPrice_of_greatest sorted mem le greatest,
    unitPrice_base⟩, fun s i o => ⟨priceOrder_uncharged, fun charged => ⟨priceOrder_without charged,
      fun j g gen held only => priceOrder_with charged gen (tableOf_eq held only)⟩⟩⟩
  intro at?
  have level (l : PriceLine) (v : Fin 4) : l.matchesAt k tier v = true ↔ at? (v.1 + 1) l := by
    rw [matchesAt_iff]
    simp only [at?, Nat.reduceEqDiff, Nat.add_eq_right]
  have range {n : Nat} {l : PriceLine} (h : at? n l) : ∃ v : Fin 4, n = v.1 + 1 := by
    obtain ⟨-, ⟨rfl, -⟩ | ⟨rfl, -⟩ | ⟨rfl, -⟩ | ⟨rfl, -⟩⟩ := h
    exacts [⟨0, rfl⟩, ⟨1, rfl⟩, ⟨2, rfl⟩, ⟨3, rfl⟩]
  have none (v : Fin 4) (h : ∀ x ∈ ls, ¬at? (v.1 + 1) x) : firstAt ls k tier v = none :=
    firstAt_none_iff.2 fun x hx => by simpa using mt (level x v).1 (h x hx)
  refine ⟨fun n i l here at_ lower first => ?_, ?_⟩
  · obtain ⟨v, rfl⟩ := range at_
    refine lineFor_at (level := v) (firstAt_some here ((level l v).2 at_) fun j hj x hx => ?_) fun m hm => ?_
    · simpa using mt (level x v).1 (first j hj x hx)
    · exact none m (lower (m.1 + 1) (by omega))
  · rw [lineFor_none_iff]
    refine ⟨fun h n l hl at_ => ?_, fun h v => none v (h (v.1 + 1))⟩
    obtain ⟨v, rfl⟩ := range at_
    have miss := firstAt_none_iff.1 (h v) l hl
    rw [(level l v).2 at_] at miss
    cases miss

end Sys2Proof.Machine
end

section
/-! CLAIMS. LOAD_PRICES, at its taking and at the end of its reading (R147 to R149). -/

namespace Sys2Proof.Machine

/-! ## Generations at an installation (R149) -/

section
variable {s : State} {i : Fin 2} {g : GenSlot}

theorem freeGen_of_none (h : ∃ i : Fin 2, s.pu.gens[i] = none) :
    ∃ i : Fin 2, (List.finRange 2).find? (fun i => (s.pu.gens[i]).isNone) = some i ∧ s.pu.gens[i] = none := by
  obtain ⟨k, free⟩ := h
  cases found : (List.finRange 2).find? (fun i => (s.pu.gens[i]).isNone) with
  | none =>
    have taken := List.find?_eq_none.1 found k (List.mem_finRange k)
    rw [free] at taken
    exact absurd rfl taken
  | some i => exact ⟨i, rfl, by simpa using List.find?_some found⟩

/-- With a slot free, the generation in the other slot is the one found CURRENT. -/
theorem findGen_current {j : Fin 2} (free : s.pu.gens[j] = none) (held : s.pu.gens[i] = some g)
    (current : g.current = true) : findGen s (·.current) = some i := by
  refine findGen_eq_some (by rw [held]; exact current) fun k hk => ?_
  have ne : i ≠ j := fun e => by rw [e, free] at held; cases held
  have other : k = j := by omega
  rw [other, free]
  rfl

/-- The generation that was CURRENT, now RETIRING. -/
def retiring (i : Fin 2) (g : GenSlot) (s : State) : State := setGen i (some { g with current := false }) s

theorem retireCurrent_held (found : findGen s (·.current) = some i) (held : s.pu.gens[i] = some g) (h : g.hold ≠ 0) :
    retireCurrent s = retiring i g s := by
  simp only [retireCurrent, found, held, retireIfUnheld, setGen_get]
  simp [h, retiring]

theorem retireCurrent_unheld (found : findGen s (·.current) = some i) (held : s.pu.gens[i] = some g) (h : g.hold = 0) :
    retireCurrent s = post .pricesRetired g.number (setGen i none (retiring i g s)) := by
  simp only [retireCurrent, found, held, retireIfUnheld, setGen_get]
  simp [h, retiring]

theorem retireCurrent_kept (found : findGen s (·.current) = some i) (held : s.pu.gens[i] = some g) (h : g.hold ≠ 0) :
    (retireCurrent s).pu.gens[i] = some { g with current := false } := by
  rw [retireCurrent_held found held h, retiring, setGen_get, if_pos rfl]

theorem retireCurrent_emptied (found : findGen s (·.current) = some i) (held : s.pu.gens[i] = some g) (h : g.hold = 0) :
    (retireCurrent s).pu.gens[i] = none ∧ told .pricesRetired g.number (retireCurrent s) := by
  rw [retireCurrent_unheld found held h]
  refine ⟨?_, post_told _ _ _⟩
  have gens (u : State) : (post .pricesRetired g.number u).pu = u.pu := by simp
  rw [gens, setGen_get, if_pos rfl]

variable {t : PriceTable} (free : (List.finRange 2).find? (fun i => (s.pu.gens[i]).isNone) = some i)
include free

theorem installPrices_gens (j : Fin 2) : (installPrices t s).pu.gens[j] =
    if i = j then some { current := true, number := s.pu.counter, table := t, hold := 0 }
    else (retireCurrent s).pu.gens[j] := by
  simp only [installPrices, free]
  exact setGen_get i j _ _

theorem installPrices_counter : (installPrices t s).pu.counter = nextGen s.pu.counter := by
  simp only [installPrices, free]

theorem installPrices_classes : (installPrices t s).cu = (retireCurrent s).cu := by
  simp only [installPrices, free]
  rfl

end

/-! ## LOAD_PRICES at its taking (R147) -/

section
variable {a : Word} {u : State}

theorem takeLoadPrices_cleared (h : u.mc.state = .cleared) : takeLoadPrices a u = refuse .illegalState u := by
  rw [takeLoadPrices, if_pos h]

variable (h : u.mc.state ≠ .cleared)
include h

theorem takeLoadPrices_badOperand (bad : recordAddressOk a.toNat 16 = false) :
    takeLoadPrices a u = refuse .badOperand u := by
  rw [takeLoadPrices, if_neg h, bad]
  rfl

variable (ok : recordAddressOk a.toNat 16 = true)
include ok

theorem takeLoadPrices_judged : takeLoadPrices a u =
    if u.pu.gens.toList.all (·.isSome) then refuse .pricesBusy u
    else .reading { u with cu := { u.cu with job := some (.loadPrices a) } } := by
  rw [takeLoadPrices, if_neg h, ok]
  rfl

end

theorem gens_taken_iff {s : State} : s.pu.gens.toList.all (·.isSome) = true ↔ ∀ i : Fin 2, s.pu.gens[i].isSome := by
  rw [List.all_eq_true]
  constructor
  · exact fun h i => h _ (by simp)
  · intro h g hg
    obtain ⟨n, hn, rfl⟩ := List.getElem_of_mem hg
    rw [Vector.length_toList] at hn
    simpa using h ⟨n, hn⟩

/-- The end of a reading is the answer at its completion, no attention left pending (R178). -/
theorem settle_completeReading (c : Command) (rc : ReplyCode) (data : Nat) (u : State) :
    settle (completeReading c (rc, data, u)) = ended c rc data u := by
  rw [completeReading_eq]
  rfl

/-- The reading of a price table ends in its answer. -/
theorem exec_loadPricesComplete {a : Word} {s : State} (h : s.cu.job = some (.loadPrices a)) :
    exec .loadPricesComplete s =
      .next (settle (completeReading .loadPrices (endLoadPrices a { s with work := {} }))) := by
  change execLoadPricesComplete s = _
  simp only [execLoadPricesComplete, h, event]

/-- Settles O48: the checks at the taking, and the reading's two ends. -/
theorem pricesLoaded : Obligations.PricesLoaded := by
  refine fun a s => ⟨fun h idle => ?_, fun job => ⟨fun o bad => ?_, fun good free canonical => ?_⟩, fun none => ?_⟩
  · intro u
    have mc : u.mc = s.mc := by simp [u]
    have pu : u.pu = s.pu := by simp [u]
    have address : recordAddressOk a.toNat 16 = true ↔
        a.toNat % 64 = 0 ∧ 4096 ≤ a.toNat ∧ a.toNat + 16 ≤ 268435456 := by
      simp only [recordAddressOk, Config.anchorBytes, Config.storeBytes, Bool.and_eq_true, decide_eq_true_eq, and_assoc]
    have run : exec (.loadPrices a) s = .next (settle (answered .loadPrices (takeLoadPrices a u))) :=
      congrArg Host.Outcome.next (event_posted1 .loadPrices a h idle)
    rw [run]
    refine ⟨fun c => ?_, fun c => ⟨fun bad => ?_, fun aligned low high => ⟨fun taken => ?_, fun free => ?_⟩⟩⟩
    · rw [takeLoadPrices_cleared (by rwa [mc])]; rfl
    · rw [takeLoadPrices_badOperand (by rwa [mc]) (by simpa using mt address.1 bad)]; rfl
    · rw [takeLoadPrices_judged (by rwa [mc]) (address.2 ⟨aligned, low, high⟩),
        if_pos (gens_taken_iff.2 (by rwa [pu]))]
      rfl
    · obtain ⟨i, free⟩ := free
      rw [takeLoadPrices_judged (by rwa [mc]) (address.2 ⟨aligned, low, high⟩), if_neg fun all => ?_]
      · rfl
      · have taken := gens_taken_iff.1 all i
        rw [pu, free] at taken
        cases taken
  · rw [exec_loadPricesComplete job]
    simp only [endLoadPrices, bad, settle_completeReading]
  · let v : State := { s with work := {} }
    let w := installPrices (parsePrices s.store a.toNat) v
    let x : State := setAttn false w
    have run : exec .loadPricesComplete s = .next (replied .loadPrices .done 0 x) := by
      rw [exec_loadPricesComplete job]
      simp only [endLoadPrices, good, settle_completeReading]
      rfl
    have attempt : x.work.attempt = false := by simp [x, w, v, setAttn]
    have store : Memory.wf x.store := (installPrices_sound _ v).store canonical
    have still : (complete 11 .done 0 x).mc.state ≠ .running ∨ (complete 11 .done 0 x).work.attempt = false := .inr attempt
    obtain ⟨cu, om, rc, wt, su, pu⟩ := settle_still_frame still
    have fixed : Fixed s (replied .loadPrices .done 0 x) :=
      execLoadPricesComplete_fixed s _ run
    obtain ⟨i, found, none⟩ := freeGen_of_none free
    have gens (j : Fin 2) : (replied .loadPrices .done 0 x).pu.gens[j] = w.pu.gens[j] := congrArg (fun p => p.gens[j]) pu
    refine ⟨_, run, answered_settle store (by decide) rfl (.inr attempt), fixed.lineKept, ?_, ?_, ?_, ?_, ?_, ?_, ?_,
      ⟨i, none, ?_⟩, fun j g held current => ⟨fun unheld => ⟨?_, ?_⟩, fun held' => ?_⟩⟩
    · simp [replied, x, w, v, setAttn, complete]
    · exact om.trans (by simp [x, w, v, setAttn, complete])
    · exact rc.trans (by simp [x, w, v, setAttn, complete])
    · exact wt.trans (by simp [x, w, v, setAttn, complete])
    · exact su.trans (by simp [x, w, v, setAttn, complete])
    · exact (congrArg PuState.orders pu).trans (by simp [x, w, v, setAttn, complete])
    · exact (congrArg PuState.counter pu).trans (installPrices_counter (s := v) found)
    · exact (gens i).trans ((installPrices_gens (s := v) found i).trans (if_pos rfl))
    all_goals
      have current : findGen v (·.current) = some j := findGen_current (s := v) none held current
      have ne : i ≠ j := fun e => by rw [← e, none] at held; cases held
      have away := (gens j).trans ((installPrices_gens (s := v) found j).trans (if_neg ne))
    · exact away.trans (retireCurrent_emptied (s := v) current held unheld).1
    · refine (settle_sound _).told _ _ ?_
      have told' := (retireCurrent_emptied (s := v) current held unheld).2
      have cu : w.cu = (retireCurrent v).cu := installPrices_classes (s := v) found
      rw [told, ← cu] at told'
      exact told'
    · exact away.trans (retireCurrent_kept (s := v) current held held')
  · change execLoadPricesComplete s = _
    unfold execLoadPricesComplete
    split
    next b job => exact absurd job (none b)
    next => rfl

end Sys2Proof.Machine
end

section
/-! CLAIMS. Mark windows, mark reports and misses (R116 to R119). -/

namespace Sys2Proof.Machine

/-! ## Boundaries and marks -/

theorem findBoundary_first {s : State} {f : Boundary → Bool} {i : Nat} {b : Boundary} (h : firstBoundary s f i b) :
    findBoundary s f = some (i, b) := by
  obtain ⟨here, takes, before⟩ := h
  obtain ⟨lt, rfl⟩ := List.getElem?_eq_some_iff.1 here
  have found : s.ct.queue.findIdx? f = some i := by
    rw [List.findIdx?_eq_some_iff_getElem]
    refine ⟨lt, takes, fun j hj => ?_⟩
    rw [before j hj _ (List.getElem?_eq_getElem (hj.trans lt))]
    exact Bool.false_ne_true
  rw [findBoundary, found]
  simp

section
variable {s : State} {i : Nat} {b : Boundary} (runs : s.feedRuns = true)
include runs

theorem exec_markWindowOpen (h : windowToOpen s = some (i, b)) :
    exec .markWindowOpen s = .next (event (setBoundary i { b with window := .opened }) s) := by
  change execMarkWindowOpen s = _
  simp only [execMarkWindowOpen, runs, if_true, h]

theorem exec_markReport {y : Word} (h : boundaryFor y s = some (i, b)) :
    exec (.markReport y) s = .next (event (seeMark i b y) s) := by
  change execMarkReport y s = _
  simp only [execMarkReport, runs, if_true, h]

theorem exec_markReport_none {y : Word} (h : boundaryFor y s = none) : exec (.markReport y) s = .next s := by
  change execMarkReport y s = _
  simp only [execMarkReport, runs, if_true, h]

theorem exec_markMissed (h : boundaryMissed s = some (i, b)) :
    exec .markMissed s = .next (event (missMark i b) s) := by
  change execMarkMissed s = _
  simp only [execMarkMissed, runs, if_true, h]

end

/-! ## A fault that leaves the conveyor running -/

section
variable {c : FaultCause} (runs : c.stopsConveyor = false) (s : State)
include runs

theorem enterFault_running : enterFault c s = askStatus (post .fault (BitVec.ofNat 32 c.code)
    (returnSlot (loseWhere .lost (lostBy false) (removeEntry blankKey (faultHalted c s))))) := by
  rw [enterFault_eq, runs]
  rfl

theorem enterFault_late_kept : (enterFault c s).su.late = s.su.late := by
  rw [enterFault_running runs]
  simp [askStatus, faultHalted]

end

theorem lostBy_running (e : Entry) : lostBy false e = decide (e.stage = .exposing ∨ e.stage = .processing) := by
  simp [lostBy]

/-- An entry with its mark missed is where it was. -/
theorem marked_key (b : Boundary) (e : Entry) :
    let f : Entry :=
      if e.kind = .print ∧ e.x0.isSome ∧ e.x0 = b.rowAfter then { e with flags := { e.flags with markMissed := true } }
      else e
    f.key = e.key ∧ f.x0 = e.x0 ∧ f.stage = e.stage := by
  dsimp only
  split <;> exact ⟨rfl, rfl, rfl⟩

/-- Settles O40: windows and reports by the first boundary found, the first miss, and the second with its fault. -/
theorem marksSeenAndMissed : Obligations.MarksSeenAndMissed := by
  refine ⟨fun s live => ?_, fun s i b live first => ?_⟩
  · intro put
    have runs := (feedRuns_iff s).2 live
    refine ⟨fun i b first => ?_, fun y => ?_⟩
    · rw [exec_markWindowOpen runs (findBoundary_first first)]
      rfl
    · intro takes
      have report : boundaryFor y s = findBoundary s takes := rfl
      refine ⟨fun i b first => ?_, fun none => exec_markReport_none runs (report.trans (findBoundary_eq_none none))⟩
      rw [exec_markReport runs (report.trans (findBoundary_first first))]
      rfl
  · intro b' flag
    have runs := (feedRuns_iff s).2 live
    have run : exec .markMissed s = .next (event (missMark i b) s) := exec_markMissed runs (findBoundary_first first)
    rw [event, missMark_eq] at run
    refine ⟨fun none => ?_, fun one two => ?_⟩
    · rw [run]
      have count : min 2 (s.ct.misses + 1) = 1 := by omega
      have eq : markMissed i b { s with work := {} } = { s with
          ct := { queue := s.ct.queue.set i b', misses := 1 }
          wt := { s.wt with track := s.wt.track.map flag }, work := {} } := by
        rw [← count]
        rfl
      rw [eq]
      rfl
    · let m : State := { s with
        ct := { queue := s.ct.queue.set i b', misses := 2 }
        wt := { s.wt with track := s.wt.track.map flag }, work := {} }
      have count : min 2 (s.ct.misses + 1) = 2 := by omega
      have eq : markMissed i b { s with work := {} } = m := by
        rw [show m = { s with
          ct := { queue := s.ct.queue.set i b', misses := min 2 (s.ct.misses + 1) }
          wt := { s.wt with track := s.wt.track.map flag }, work := {} } by rw [count]]
        rfl
      have kept : FaultCause.marksLost.stopsConveyor = false := rfl
      have taken : takeCondition .marksLost m = enterFault .marksLost m :=
        takeCondition_live (s := m) (live.elim .inl fun x => .inr (.inl x))
      rw [eq, if_pos (show m.ct.marksLost = true from rfl), taken] at run
      have mc : (enterFault .marksLost m).mc = (faultHalted .marksLost m).mc := enterFault_mc _ _
      have still : (enterFault .marksLost m).mc.state ≠ .running ∨ (enterFault .marksLost m).work.attempt = false :=
        .inl (by rw [mc]; simp [faultHalted])
      have ee : (settle (enterFault .marksLost m)).ee = (faultHalted .marksLost m).ee := by
        have head : (enterFault .marksLost m).ee = (faultHalted .marksLost m).ee := enterFault_ee _ _
        rw [settle_still still, (settled_fields _).2.2.2.1, startReads_idle (by rw [head]; rfl) (enterFault_slot _ _), head]
      obtain ⟨-, -, rc, wt, su, -⟩ := settle_still_frame still
      have marked (e : Entry) : (flag e).key = e.key ∧ (flag e).x0 = e.x0 ∧ (flag e).stage = e.stage := marked_key b e
      have lost (e : Entry) : lostBy FaultCause.marksLost.stopsConveyor (flag e) =
          decide (e.stage = .exposing ∨ e.stage = .processing) := by
        rw [kept, lostBy_running, (marked e).2.2]
      have left {e : Entry} (h : e ∈ (settle (enterFault .marksLost m)).wt.track) :
          ∃ f ∈ s.wt.track, e = flag f ∧ decide (f.stage = .exposing ∨ f.stage = .processing) = false := by
        rw [wt] at h
        obtain ⟨mem, away⟩ := (mem_enterFault h).1
        obtain ⟨f, hf, rfl⟩ := List.mem_map.1 mem
        exact ⟨f, hf, rfl, by rw [← lost]; exact away⟩
      have fixed : Fixed s (settle (enterFault .marksLost m)) := execMarkMissed_fixed s _ run
      have misses : (settle (enterFault .marksLost m)).ct.misses = 2 := by simp [m]
      refine ⟨_, run, by simp only [settle_frame, mc]; rfl, by simp only [settle_frame, mc]; rfl,
        by simp only [settle_frame, mc]; rfl, ?_, misses, ?_, fixed.y, fixed.x, by rw [ee]; rfl, by rw [ee]; rfl, ?_,
        fun e he => ?_, ?_⟩
      · simp only [settle_frame, mc, faultHalted, kept, Bool.or_false]
        rfl
      · rw [CtState.marksLost, misses]
        rfl
      · exact ((askStatus_sound _).trans (settle_sound _)).told _ _ (post_told .fault _ _)
      · obtain ⟨f, -, rfl, stays⟩ := left he
        rw [(marked f).2.2]
        simpa using stays
      · intro spoiled
        refine ⟨?_, ?_, fixed.lineKept, fun e => left, fun e he x stays => ?_, fun canonical => ?_, fun none => ?_⟩
        · rw [rc]
          exact enterFault_slot _ _
        · rw [su, enterFault_late_kept kept]
        · rw [wt]
          refine mem_enterFault_kept (s := m) (List.mem_map_of_mem he) (by rwa [(marked e).2.1]) fun g hg same => ?_
          obtain ⟨f, hf, rfl⟩ := List.mem_map.1 hg
          rw [lost]
          exact stays f hf (by rw [← (marked f).1, same, (marked e).1])
        · obtain ⟨state, fault, -⟩ := settle_status ((enterFault_sound .marksLost m).store canonical) (by rfl)
          exact ⟨by rw [state, mc]; rfl, by rw [fault, mc]; rfl⟩
        · have unblanked : findEntry (faultHalted .marksLost m) blankKey = Option.none := by
            refine findEntry_eq_none.2 fun g hg => ?_
            obtain ⟨f, hf, rfl⟩ := List.mem_map.1 hg
            rw [(marked f).1]
            exact none f hf
          have halt : faultHalted .marksLost m = { s with
              ct := { queue := s.ct.queue.set i b', misses := 2 }
              wt := { s.wt with track := s.wt.track.map flag }
              mc :=
                { state := .faulted, faultCause := .marksLost, pauseCause := .noPause, paperOutReq := false
                  convStop := s.mc.convStop }
              ee :=
                { s.ee with
                  expo := Option.none, continuity := false, drive := []
                  buffers := ⟨s.ee.buffers.a.emptied, s.ee.buffers.b.emptied⟩ }
              work := {} } := by
            rw [faultHalted, kept, Bool.or_false]
          rw [enterFault_running kept, removeEntry_none unblanked, halt,
            show lostBy false = spoiled from funext lostBy_running]
          rfl

end Sys2Proof.Machine
end

section
/-! SUPPORT. Row starts: boundaries, entries, drift, and the start of a BLANK row as a whole (R64 to R67, R113). -/

namespace Sys2Proof.Machine

/-! ## Boundaries -/

/-- The boundary of a row started at `b`, as it joins the cut queue (R113). -/
def newBoundary (b : Word) (s : State) : Boundary :=
  { pos := b, rowAfter := some b, rowBefore := rowBefore s.wt.track s.ct.queue b }

/-- The part with the boundary of a row started at `b` added. -/
def boundaryAdded (b : Word) (s : State) : State :=
  { s with ct := { s.ct with queue := s.ct.queue ++ [newBoundary b s] } }

theorem addBoundary_room {s : State} (room : s.ct.queue.length < 65) (b : Word) : addBoundary b s = boundaryAdded b s := by
  have same : makeCutRoom s = s := if_pos room
  simp only [addBoundary, same]
  exact if_pos room

/-! ## Entries -/

theorem mem_startEntries {blank : Bool} {x : Word} {s : State} {e : Entry} : e ∈ (startEntries blank x s).wt.track ↔
    (e ∈ s.wt.track ∧ e.x0.isSome = true) ∨
      (∃ f ∈ s.wt.track, f.starting blank = true ∧ { f with x0 := some x, stage := .exposing } = e) ∨
      (e ∈ s.wt.track ∧ e.x0.isNone = true ∧ e.starting blank = false) := by
  simp only [startEntries, List.mem_append, List.mem_filter, List.mem_map, Bool.and_eq_true, Bool.not_eq_true',
    or_assoc, and_assoc]

/-! ## Drift and factors (R51, R65) -/

theorem factors_eq (c : Conf) (theta : Nat) : factors c theta = PerChan.ofFn fun k =>
    (max 3072 (min 5120 (4096 + c.tempCoef.get k * ((theta : Int) - c.thetaRef)))).toNat := rfl

/-- Whether a temperature lies further from θ_cal than CAL_DRIFT (R65). -/
def farFrom (s : State) (theta : Nat) : Prop :=
  (s.cfg.calDrift : Int) < ((theta : Int) - s.ca.thetaCal).natAbs

theorem drifted_iff (s : State) (theta : Nat) : drifted s theta = true ↔ farFrom s theta := by
  unfold drifted farFrom
  rw [decide_eq_true_iff]
  split <;> omega

section
variable {theta : Nat} {s : State}

theorem judgeDrift_near (h : ¬farFrom s theta) : judgeDrift theta s = s := if_neg (mt (drifted_iff s theta).1 h)

theorem judgeDrift_pending (h : s.ca.state = .due ∨ s.ca.state = .inFlight) : judgeDrift theta s = s := by
  unfold judgeDrift
  split
  · exact trigger_pending h
  · rfl

theorem judgeDrift_valid (h : farFrom s theta) (valid : s.ca.state = .valid) :
    judgeDrift theta s = askAttempt { s with ca := { s.ca with state := .due } } :=
  (if_pos ((drifted_iff s theta).2 h)).trans (trigger_valid valid)

theorem judgeDrift_stale (h : farFrom s theta) (stale : s.ca.state = .stale) :
    judgeDrift theta s = askAttempt { s with ca := { s.ca with state := .due, invalid := 0 } } :=
  (if_pos ((drifted_iff s theta).2 h)).trans (trigger_stale stale)

end

/-! ## The start of a BLANK row -/

/-- A BLANK row's start before the drift is judged: its context, its entry and its boundary (R64, R66, R113). -/
def blankBegun (s : State) : State :=
  boundaryAdded s.wt.x (startEntries true s.wt.x (setExpo (some (.row (blankRun s))) s))

section
variable {s : State} (room : s.ct.queue.length < 65)
include room

theorem startBlankRow_room : startBlankRow s = askStatus (judgeDrift s.ee.sample (blankBegun s)) := by
  have room' : (startEntries true s.wt.x (setExpo (some (.row (blankRun s))) s)).ct.queue.length < 65 := room
  rw [startBlankRow_eq, addBoundary_room room']
  rfl

theorem startBlankRow_track : (startBlankRow s).wt.track = (startEntries true s.wt.x s).wt.track := by
  rw [startBlankRow_room room]
  simp only [askStatus, judgeDrift_frame]
  rfl

theorem startBlankRow_queue : ∃ q, (startBlankRow s).ct.queue = s.ct.queue ++ [q] ∧ q.pos = s.wt.x ∧
    q.rowAfter = some s.wt.x ∧ q.mark = .pending ∧ q.delta = 0 ∧ q.window = .ahead := by
  refine ⟨newBoundary s.wt.x (startEntries true s.wt.x (setExpo (some (.row (blankRun s))) s)), ?_, rfl, rfl, rfl, rfl, rfl⟩
  rw [startBlankRow_room room]
  simp only [askStatus, judgeDrift_frame]
  rfl

theorem startBlankRow_ca : (¬farFrom s s.ee.sample ∨ s.ca.state = .due ∨ s.ca.state = .inFlight →
      (startBlankRow s).ca = s.ca) ∧
    (farFrom s s.ee.sample → s.ca.state = .valid → (startBlankRow s).ca = { s.ca with state := .due }) ∧
    (farFrom s s.ee.sample → s.ca.state = .stale → (startBlankRow s).ca = { s.ca with state := .due, invalid := 0 }) := by
  rw [startBlankRow_room room]
  have far : farFrom (blankBegun s) s.ee.sample ↔ farFrom s s.ee.sample := Iff.rfl
  refine ⟨fun h => ?_, fun h valid => ?_, fun h stale => ?_⟩
  · obtain near | pending := h
    · rw [judgeDrift_near (mt far.1 near)]
      rfl
    · rw [judgeDrift_pending (s := blankBegun s) pending]
      rfl
  · rw [judgeDrift_valid (far.2 h) valid]
    rfl
  · rw [judgeDrift_stale (far.2 h) stale]
    rfl

end

/-- What a BLANK row's start reads of the part is as it was at the start of the event. -/
structure SameHead (s v : State) : Prop where
  x : v.wt.x = s.wt.x := by simp
  sample : v.ee.sample = s.ee.sample := by simp
  mask : v.ee.maskInForce = s.ee.maskInForce := by simp
  ca : v.ca = s.ca := by simp
  conf : v.conf = s.conf := by simp
  clock : v.cu.lineClock = s.cu.lineClock := by simp
  store : StoreCanonical s → StoreCanonical v

/-- The BLANK row started in an event, once the event has ended (R64 to R66, R185). -/
theorem blankRow_started {s v : State} (h : SameHead s v) (room : v.ct.queue.length < 65) :
    blankRowStarted s (settle (startBlankRow v)) := by
  have cfg : v.cfg = s.cfg := by rw [State.cfg, h.conf, State.cfg]
  have far : farFrom v v.ee.sample ↔ farFrom s s.ee.sample := by rw [farFrom, cfg, h.ca, h.sample, farFrom]
  obtain ⟨near, valid, stale⟩ := startBlankRow_ca room
  rw [far, h.ca] at near valid stale
  unfold blankRowStarted
  intro phi drift
  refine ⟨?_, by simp [h.mask], fun c => ?_, fun d c => ?_, fun d c => ?_, fun canonical => ?_⟩
  · simp only [settle_frame, startBlankRow_expo]
    rw [blankRun, h.x, cfg, h.sample, factors_eq]
  · simp only [settle_frame]
    exact near c
  · simp only [settle_frame]
    exact valid d c
  · simp only [settle_frame]
    exact stale d c
  · have status : (startBlankRow v).work.status = true := by
      rw [startBlankRow_room room]
      rfl
    obtain ⟨-, -, -, -, -, words⟩ := eventEnd (startBlankRow v)
    obtain ⟨state, -, -, cal, x, y, -, theta, mask, -, -, -, -, -, -, -, -, clock⟩ :=
      words ((startBlankRow_sound v).store (h.store canonical)) status
    refine ⟨state, cal, ?_, y, ?_, ?_, ?_⟩
    · rw [x]
      simp [h.x]
    · rw [theta]
      simp [h.sample]
    · rw [mask]
      simp [h.mask]
    · rw [clock]
      simp [h.clock]

end Sys2Proof.Machine
end

section
/-! CLAIMS. The process feed, and blank paper at the empty loop (R66, R67, R94 to R96). -/

namespace Sys2Proof.Machine

/-! ## Blank paper at the empty loop -/

theorem keepLoop_kept {s : State} (h : blankDue s = false) : keepLoop s = s := by
  rw [keepLoop, h]
  rfl

section
variable {s : State} (due : blankDue s = true)
include due

theorem keepLoop_started (room : s.wt.track.length < 64) (mark : s.ee.continuity = true) :
    keepLoop s = startBlankRow (blankAdded s) := by
  rw [keepLoop, if_pos due, requestBlank_eq, if_pos room, if_pos mark]

theorem keepLoop_leadIn (room : s.wt.track.length < 64) (mark : s.ee.continuity = false) :
    keepLoop s = setExpo (some (.leadIn 0 true)) (blankAdded s) := by
  rw [keepLoop, if_pos due, requestBlank_eq, if_pos room, mark]
  rfl

theorem keepLoop_extended (full : 64 ≤ s.wt.track.length) {e : Entry} {x0 : Word} (last : lastStarted s = some e)
    (kind : e.kind = .blank) (x : e.x0 = some x0) : keepLoop s = blankExtended e x0 s := by
  rw [keepLoop, if_pos due, requestBlank_eq, if_neg (Nat.not_lt.2 full)]
  simp only [extendBlank, last, kind, x]
  rfl

end

/-- A BLANK row's entry as it starts (R66). -/
def blankEntry (s : State) : Entry :=
  { kind := .blank, lane := .a, x0 := some s.wt.x, length := s.cfg.minPiece, stage := .exposing }

theorem startBlankRow_entry {s : State} (room : s.ct.queue.length < 65) :
    blankEntry s ∈ (startBlankRow (blankAdded s)).wt.track := by
  rw [startBlankRow_track (s := blankAdded s) room, mem_startEntries]
  exact .inr (.inl ⟨_, List.mem_append_right _ List.mem_cons_self, rfl, rfl⟩)

/-- A slot row stands through the end of an event (R30). -/
theorem settle_slot {s : State} (h : s.rc.slot.isSome = true) : (settle s).rc.slot = s.rc.slot := by
  have same : (if s.work.attempt then compose s else s) = s := by
    split
    · exact if_pos (.inl h)
    · rfl
  rw [settle_eq, same, (settled_fields _).2.2.1]
  simp

/-! ## The extension of a BLANK row (R67) -/

theorem mem_updateEntry {k : EntryKey} {f : Entry → Entry} {s : State} {e : Entry}
    (h : e ∈ (updateEntry k f s).wt.track) (key : e.key = k) : ∃ g ∈ s.wt.track, e = f g := by
  obtain ⟨g, hg, rfl⟩ := List.mem_map.1 h
  by_cases mine : g.key = k
  · exact ⟨g, hg, if_pos mine⟩
  · rw [if_neg mine] at key
    exact absurd key mine

theorem blankExtended_entries {s : State} {e f : Entry} {x0 : Word} (h : f ∈ (blankExtended e x0 s).wt.track)
    (key : f.key = e.key) : f.length = e.length + s.cfg.minPiece ∧ f.stage = .exposing := by
  obtain ⟨g, -, rfl⟩ := mem_updateEntry (s := s) (f := fun x => { x with length := e.length + s.cfg.minPiece, stage := .exposing }) h key
  exact ⟨rfl, rfl⟩

/-! ## One step of Y -/

/-- An entry after a step of Y to `y` (R96, R101). -/
def Entry.fedTo (y : Word) (e : Entry) : Entry :=
  if e.stage = .inLoop ∧ e.x0 = some y then { e with stage := .processing } else e

theorem Entry.fedTo_kept (y : Word) (e : Entry) :
    (e.fedTo y).key = e.key ∧ (e.fedTo y).x0 = e.x0 ∧ (e.fedTo y).kind = e.kind ∧ (e.fedTo y).length = e.length := by
  unfold Entry.fedTo
  split <;> exact ⟨rfl, rfl, rfl, rfl⟩

/-- The web one step further in the drum, or standing at the empty loop (R94, R95). -/
def yFed (s : State) : State :=
  if s.wt.x = s.wt.y then s
  else { s with wt := { s.wt with y := s.wt.y + 1, track := s.wt.track.map (Entry.fedTo (s.wt.y + 1)) } }

theorem advanceY_fed (s : State) : advanceY s = yFed s := by
  rw [advanceY_eq, yFed]
  by_cases h : s.wt.x = s.wt.y
  · rw [if_pos h, if_pos ((loopFill_eq_zero s).2 h)]
  · rw [if_neg h, if_neg (mt (loopFill_eq_zero s).1 h)]
    rfl

theorem yFed_frame (s : State) : (yFed s).cu = s.cu ∧ (yFed s).rc = s.rc ∧ (yFed s).ee = s.ee ∧ (yFed s).ca = s.ca ∧
    (yFed s).ct = s.ct ∧ (yFed s).mc = s.mc ∧ (yFed s).conf = s.conf ∧ (yFed s).store = s.store ∧
    (yFed s).work = s.work ∧ (yFed s).wt.x = s.wt.x ∧ (yFed s).wt.track.length = s.wt.track.length := by
  unfold yFed
  split <;> simp

/-- The row that last started is the same after a step of Y. -/
theorem yFed_lastStarted {s : State} {e : Entry} (h : lastStarted s = some e) :
    ∃ f, lastStarted (yFed s) = some f ∧ f.key = e.key ∧ f.x0 = e.x0 ∧ f.kind = e.kind ∧ f.length = e.length := by
  unfold yFed
  split
  · exact ⟨e, h, rfl, rfl, rfl, rfl⟩
  · refine ⟨e.fedTo (s.wt.y + 1), ?_, e.fedTo_kept _⟩
    have started : (fun f : Entry => f.x0.isSome) ∘ Entry.fedTo (s.wt.y + 1) = fun f => f.x0.isSome :=
      funext fun f => congrArg Option.isSome (f.fedTo_kept _).2.1
    rw [lastStarted] at h ⊢
    rw [List.filter_map, started, List.getLast?_map, h]
    rfl

/-- Settles O39: the standing feed, the empty loop, and blank paper by the room and the mark. -/
theorem processFeedSteps : Obligations.ProcessFeedSteps := by
  refine fun s => ⟨fun n p => ?_, fun runs => ?_⟩
  · exact congrArg Host.Outcome.next (eventWhen_not (Bool.eq_false_iff.2 fun h => ((feedRuns_iff s).1 h).elim n p))
  · intro stage moved
    let u : State := { s with work := {} }
    have fed : yFed u = moved := rfl
    have run : exec .processFeedStep s = .next (settle (keepLoop moved)) := by
      rw [← fed, ← advanceY_fed]
      exact congrArg Host.Outcome.next (eventWhen_due ((feedRuns_iff s).2 runs))
    have frame := yFed_frame u
    rw [fed] at frame
    obtain ⟨cu, rc, ee, ca, ct, mc, conf, store, work, x, count⟩ := frame
    have cfg : moved.cfg = s.cfg := by rw [State.cfg, conf, State.cfg]
    rw [run]
    have kept (h : s.ee.expo.isSome ∨ moved.wt.x ≠ moved.wt.y ∨ slotCanGo moved = true) : keepLoop moved = moved := by
      refine keepLoop_kept (Bool.eq_false_iff.2 fun due => ?_)
      obtain ⟨none, -, empty, stands⟩ := (blankDue_iff moved).1 due
      obtain some | away | goes := h
      · rw [ee] at none
        rw [none] at some
        cases some
      · exact away empty
      · rw [stands] at goes
        cases goes
    have due (empty : moved.wt.x = moved.wt.y) (none : s.ee.expo = none) (stands : slotCanGo moved = false) :
        blankDue moved = true :=
      (blankDue_iff moved).2 ⟨by rw [ee]; exact none, by rw [mc]; exact runs, empty, stands⟩
    refine ⟨fun empty busy => ⟨_, rfl, ?_⟩, fun busy => by rw [kept busy], fun empty none stands room =>
      ⟨fun mark few => ?_, fun mark => ?_⟩, fun empty none stands full e x0 last kind at_ => ?_⟩
    · have same : moved = u := if_pos empty
      rw [kept (busy.imp id fun goes => .inr (by rw [same]; exact goes)), same, settle_idle u rfl]
      exact startReads_shape u
    · rw [keepLoop_started (due empty none stands) (by rwa [count]) (by rwa [ee])]
      have few : (blankAdded moved).ct.queue.length < 65 := by
        change moved.ct.queue.length < 65
        rwa [ct]
      have head : SameHead s (blankAdded moved) :=
        ⟨x, congrArg EeState.sample ee, congrArg EeState.maskInForce ee, ca, conf, congrArg CuState.lineClock cu,
          fun h => by rw [StoreCanonical, show (blankAdded moved).store = s.store from store]; exact h⟩
      obtain ⟨q, queue, -⟩ := startBlankRow_queue few
      refine ⟨_, blankRun (blankAdded moved), rfl, by simp only [settle_frame, startBlankRow_expo], rfl, x,
        congrArg Conf.minPiece cfg, by simp only [settle_frame, startBlankRow_frame]; rfl, ?_, fun slot => ?_, ?_,
        blankRow_started head few, blankEntry moved, ?_, rfl, congrArg some x, rfl, congrArg Conf.minPiece cfg⟩
      · simp only [settle_frame, startBlankRow_frame]
        exact x
      · have before : (startBlankRow (blankAdded moved)).rc.slot = s.rc.slot := by
          simp only [startBlankRow_frame]
          exact congrArg RcState.slot rc
        rw [settle_slot (by rwa [before]), before]
      · rw [show (settle (startBlankRow (blankAdded moved))).ct = (startBlankRow (blankAdded moved)).ct by simp, queue,
          List.length_append]
        exact congrArg (fun c => c.queue.length + 1) ct
      · exact (settle_appended _).mem (startBlankRow_entry few)
    · rw [keepLoop_leadIn (due empty none stands) (by rwa [count]) (by rwa [ee]), setExpo, blankAdded, cfg,
        ee]
    · obtain ⟨f, last', key, x', kind', length⟩ := yFed_lastStarted (s := u) last
      rw [fed] at last'
      rw [keepLoop_extended (due empty none stands) (by rwa [count]) last' (kind'.trans kind) (x'.trans at_)]
      have idle : (blankExtended f x0 moved).work = {} := work
      rw [settle_idle _ idle]
      refine ⟨_, rfl, ?_, by simp [blankExtended, setExpo, updateEntry], ?_, ?_, ?_, fun g hg same => ?_⟩
      · simp only [startReads_frame, blankExtended, setExpo, cfg, length]
      · simp only [startReads_frame]
        exact (List.length_map _).trans count
      · simp only [startReads_frame]
        exact ct
      · simp only [startReads_frame]
        exact store
      · simp only [startReads_frame] at hg
        have ends := blankExtended_entries hg (same.trans key.symm)
        rwa [length, cfg] at ends

end Sys2Proof.Machine
end

section
/-! CLAIMS. Lead-ins (R63, R66, R70). -/

namespace Sys2Proof.Machine

theorem judgePaperRequest_none {s : State} (h : s.mc.paperOutReq = false) : judgePaperRequest s = s := by
  rw [judgePaperRequest, h]
  rfl

theorem slotCanGo_unmarked {s : State} (h : s.ee.continuity = false) : slotCanGo s = slotCredit s 4 := by
  rw [slotCanGo, h]
  rfl

section
variable {s : State}

theorem beginLeadIn_slot (h : slotCredit s 4 = true) : beginLeadIn s = setExpo (some (.leadIn 0 false)) s := if_pos h

theorem beginLeadIn_blank (h : slotCredit s 4 = false) (room : s.wt.track.length < 64) (mark : s.ee.continuity = false) :
    beginLeadIn s = setExpo (some (.leadIn 0 true)) (blankAdded s) := by
  rw [beginLeadIn, if_neg (by rw [show Config.leadInLines = 4 from rfl, h]; decide), requestBlank_eq, if_pos room, mark]
  rfl

theorem leadInForBlank_eq {n : Nat} {b : Bool} (h : s.ee.expo = some (.leadIn n b)) : leadInForBlank s = b := by
  simp only [leadInForBlank, h]

theorem leadInEnded_of {n : Nat} {b : Bool} (h : s.ee.expo = some (.leadIn n b)) (four : 4 ≤ n) : leadInEnded s = true := by
  simp only [leadInEnded, h]
  exact decide_eq_true four

/-- Behind its lead-in the slot row waits for its start while the loop is not empty (R70). -/
theorem endLeadIn_slot {n : Nat} (h : s.ee.expo = some (.leadIn n false)) (away : s.wt.x ≠ s.wt.y)
    (noRequest : s.mc.paperOutReq = false) : endLeadIn s = leadInPassed s := by
  rw [endLeadIn_eq, leadInForBlank_eq h, if_neg Bool.false_ne_true, judgePaperRequest_none (s := leadInPassed s) noRequest]
  exact keepLoop_kept (Bool.eq_false_iff.2 fun due => away ((blankDue_iff _).1 due).2.2.1)

theorem endLeadIn_blank {n : Nat} (h : s.ee.expo = some (.leadIn n true)) (noRequest : s.mc.paperOutReq = false) :
    endLeadIn s = startBlankRow (leadInPassed s) := by
  rw [endLeadIn_eq, leadInForBlank_eq h, if_pos rfl, judgePaperRequest_none]
  simp only [startBlankRow_frame]
  exact noRequest

end

theorem startBlankRow_fixed (s : State) : Fixed s (settle (startBlankRow s)) :=
  Fixed.trans (t := startBlankRow s) {} (settle_fixed _)

/-- Settles O33: the lead-in's start by the slot row's credit, and its end by what follows it. -/
theorem leadInsRun : Obligations.LeadInsRun := by
  refine ⟨fun s mark idle runs room => ?_, fun s n four noRequest => ?_⟩
  · intro credit
    have enough : slotCredit s 4 = true ↔ credit := by
      rw [slotCredit_iff]
      constructor
      · rintro ⟨-, -, cool, -, r, slot, fits⟩
        exact ⟨r, slot, cool, fits⟩
      · rintro ⟨r, slot, cool, fits⟩
        exact ⟨runs, idle, cool, room, r, slot, fits⟩
    have due : leadInDue s = true ↔ credit ∨ s.wt.x = s.wt.y := by
      rw [leadInDue_iff, blankDue_iff, enough, slotCanGo_unmarked mark]
      constructor
      · rintro ⟨-, c | ⟨⟨-, -, empty, -⟩, -⟩⟩
        · exact .inl c
        · exact .inr empty
      · intro h
        by_cases c : credit
        · exact ⟨mark, .inl c⟩
        · exact ⟨mark, .inr ⟨⟨idle, runs, h.resolve_left c, Bool.eq_false_iff.2 (mt enough.1 c)⟩, room⟩⟩
    have run (h : credit ∨ s.wt.x = s.wt.y) : exec .leadInStart s = .next (settle (beginLeadIn { s with work := {} })) :=
      congrArg Host.Outcome.next (eventWhen_due (due.2 h))
    refine ⟨fun c => ?_, fun c empty => ?_, fun c away => ?_⟩
    · rw [run (.inl c), beginLeadIn_slot (s := { s with work := {} }) (enough.2 c)]
      rfl
    · rw [run (.inr empty), beginLeadIn_blank (s := { s with work := {} }) (Bool.eq_false_iff.2 (mt enough.1 c)) room mark]
      rfl
    · exact congrArg Host.Outcome.next (eventWhen_not (Bool.eq_false_iff.2 fun d => (due.1 d).elim c away))
  · have run (h : leadInEnded s = true) : exec .leadInEnd s = .next (settle (endLeadIn { s with work := {} })) :=
      congrArg Host.Outcome.next (eventWhen_due h)
    refine ⟨fun head away => ?_, fun head few => ?_⟩
    · rw [run (leadInEnded_of head four), endLeadIn_slot (s := { s with work := {} }) head away noRequest]
      rfl
    · have run := run (leadInEnded_of head four)
      rw [endLeadIn_blank (s := { s with work := {} }) head noRequest] at run
      let v := leadInPassed { s with work := {} }
      have few : v.ct.queue.length < 65 := few
      have same : SameHead s v := ⟨rfl, rfl, rfl, rfl, rfl, rfl, id⟩
      have fixed : Fixed s (settle (startBlankRow (leadInPassed { s with work := {} }))) :=
        Fixed.trans (t := v) (by constructor <;> rfl) (startBlankRow_fixed v)
      have added := settle_appended (startBlankRow v)
      have table : (startBlankRow v).wt.track = (startEntries true v.wt.x v).wt.track := startBlankRow_track few
      obtain ⟨q, queue, pos, after, mark, delta, window⟩ := startBlankRow_queue few
      refine ⟨_, blankRun v, q, run, by simp only [settle_frame, startBlankRow_expo, v], rfl, rfl, rfl, ?_, ?_, fixed.lineKept,
        ?_, ?_, pos, after, mark, delta, window, ?_, blankRow_started same few, fun e he kind none => ?_,
        fun e he kind => ?_⟩
      · simp only [settle_frame, startBlankRow_frame]
        rfl
      · simp only [settle_frame, startBlankRow_frame]
        rfl
      · simp only [settle_frame, startBlankRow_frame]
        rfl
      · simp only [settle_frame]
        exact queue
      · simp only [settle_frame, startBlankRow_frame]
        rfl
      · refine added.mem ?_
        rw [table, mem_startEntries]
        exact .inr (.inl ⟨e, he, by simp [Entry.starting, kind, none], rfl⟩)
      · obtain ⟨l, new, committed⟩ := added
        rw [show (settle (startBlankRow (leadInPassed { s with work := {} }))).wt.track = _ from new, table] at he
        obtain old | last := List.mem_append.1 he
        · obtain ⟨-, x⟩ | ⟨f, -, -, rfl⟩ | ⟨-, -, other⟩ := mem_startEntries.1 old
          · exact x
          · rfl
          · by_contra none
            simp [Entry.starting, kind, Option.not_isSome_iff_eq_none.1 none] at other
        · exact absurd kind (committed e last).2.2

end Sys2Proof.Machine
end

section
/-! CLAIMS. The slot row starts (R63 to R65, R84, R113). -/

namespace Sys2Proof.Machine

/-! ## The line buffers through the end of an event -/

/-- Beginning a read keeps what a lane holds (R71). -/
theorem laneRead_kept (s : State) (l : Lane) : (laneRead s l).held = (s.ee.buffers.get l).held ∧
    (laneRead s l).lines = (s.ee.buffers.get l).lines := by
  by_cases full : (s.ee.buffers.get l).reading.isSome ∨ Config.linePlaces ≤ (s.ee.buffers.get l).used
  · rw [laneRead_full full]
    exact ⟨rfl, rfl⟩
  · rw [laneRead_free full]
    cases nextRead s l <;> exact ⟨rfl, rfl⟩

theorem settle_buffers (s : State) (l : Lane) :
    ((settle s).ee.buffers.get l).held = (s.ee.buffers.get l).held ∧
      ((settle s).ee.buffers.get l).lines = (s.ee.buffers.get l).lines := by
  have before : (if s.work.attempt then compose s else s).ee = s.ee := by
    split <;> simp
  have ee : (settle s).ee = (startReads (if s.work.attempt then compose s else s)).ee := by
    rw [settle_eq, (settled_fields _).2.2.2.1]
  rw [ee, startReads_get]
  have kept := laneRead_kept (if s.work.attempt then compose s else s) l
  rwa [before] at kept

/-! ## The slot row's start -/

/-- The slot row's start before the drift is judged (R64, R84, R113). -/
def slotRowBegun (r : SlotRow) (s : State) : State :=
  patchIfCalib r.kind s.wt.x s.ee.sample (boundaryAdded s.wt.x (flagIfStale (decide (s.ca.state = .stale)) s.wt.x
    (startEntries false s.wt.x (headTaken r s))))

section
variable (r : SlotRow) (s : State)

theorem flagIfStale_ct (stale : Bool) (x : Word) (s : State) : (flagIfStale stale x s).ct = s.ct := by
  unfold flagIfStale
  split <;> rfl

theorem startSlotRow_room (room : s.ct.queue.length < 65) :
    startSlotRow r s = askAttempt (askStatus (judgeDrift s.ee.sample (slotRowBegun r s))) := by
  rw [startSlotRow_eq, addBoundary_room, slotRowBegun]
  rw [flagIfStale_ct]
  exact room

/-- What the parts of a slot row's start leave, each field from the part that sets it. -/
theorem slotRowBegun_frame :
    (slotRowBegun r s).ee = (headTaken r s).ee ∧ (slotRowBegun r s).rc = (headTaken r s).rc ∧
      (slotRowBegun r s).cu = s.cu ∧ (slotRowBegun r s).mc = s.mc ∧ (slotRowBegun r s).conf = s.conf ∧
      (slotRowBegun r s).store = s.store ∧ (slotRowBegun r s).pins = s.pins ∧ (slotRowBegun r s).pending = s.pending ∧
      (slotRowBegun r s).work = s.work ∧
      (slotRowBegun r s).wt =
        (flagIfStale (decide (s.ca.state = .stale)) s.wt.x (startEntries false s.wt.x (headTaken r s))).wt := by
  unfold slotRowBegun patchIfCalib flagIfStale
  split <;> split <;> exact ⟨rfl, rfl, rfl, rfl, rfl, rfl, rfl, rfl, rfl, rfl⟩

theorem slotRowBegun_ca : (r.kind = .calib → (slotRowBegun r s).ca = { s.ca with
      state := .inFlight, patch := some { x0 := s.wt.x, theta := s.ee.sample, bal := s.ca.bal } }) ∧
    (r.kind ≠ .calib → (slotRowBegun r s).ca = s.ca) := by
  have before (b : Word) : (boundaryAdded b (flagIfStale (decide (s.ca.state = .stale)) s.wt.x
      (startEntries false s.wt.x (headTaken r s)))).ca = s.ca := by
    unfold flagIfStale
    split <;> rfl
  refine ⟨fun k => ?_, fun k => ?_⟩
  · rw [slotRowBegun, patchIfCalib, if_pos k, startPatch, before]
  · rw [slotRowBegun, patchIfCalib, if_neg k, before]

theorem slotRowBegun_queue : ∃ q, (slotRowBegun r s).ct.queue = s.ct.queue ++ [q] ∧ q.pos = s.wt.x ∧
    q.rowAfter = some s.wt.x ∧ q.mark = .pending ∧ q.delta = 0 ∧ q.window = .ahead := by
  refine ⟨newBoundary s.wt.x (flagIfStale (decide (s.ca.state = .stale)) s.wt.x
    (startEntries false s.wt.x (headTaken r s))), ?_, rfl, rfl, rfl, rfl, rfl⟩
  unfold slotRowBegun patchIfCalib boundaryAdded
  split <;> simp only [startPatch, flagIfStale_ct] <;> rfl

/-- The entries of the slot row take the row start, and a STALE row's prints are flagged (R64). -/
theorem slotRowBegun_entry {e : Entry} (mem : e ∈ s.wt.track) (none : e.x0 = none) (kind : e.kind ≠ .blank) :
    ∃ e' ∈ (slotRowBegun r s).wt.track, e'.x0 = some s.wt.x ∧ e'.stage = .exposing ∧ e'.kind = e.kind ∧ e'.lane = e.lane ∧
      e'.ref = e.ref ∧ e'.length = e.length ∧ (e.kind = .print → s.ca.state = .stale → e'.flags.uncalibrated = true) := by
  have started : { e with x0 := some s.wt.x, stage := .exposing } ∈ (startEntries false s.wt.x (headTaken r s)).wt.track :=
    mem_startEntries.2 (.inr (.inl ⟨e, mem, by simp [Entry.starting, none, kind], rfl⟩))
  have wt := (slotRowBegun_frame r s).2.2.2.2.2.2.2.2.2
  rw [wt, flagIfStale]
  by_cases stale : s.ca.state = .stale
  · rw [if_pos (decide_eq_true stale)]
    refine ⟨_, List.mem_map_of_mem started, ?_⟩
    by_cases print : e.kind = .print
    · rw [if_pos ⟨rfl, print⟩]
      exact ⟨rfl, rfl, rfl, rfl, rfl, rfl, fun _ _ => rfl⟩
    · rw [if_neg fun h => print h.2]
      exact ⟨rfl, rfl, rfl, rfl, rfl, rfl, fun h => absurd h print⟩
  · rw [if_neg (by simpa using stale)]
    exact ⟨_, started, rfl, rfl, rfl, rfl, rfl, rfl, fun _ h => absurd h stale⟩

end

/-- Settles O34: the start part by part, and the end of the event. -/
theorem rowStarts : Obligations.RowStarts := by
  intro s r slot mark idle runs cool fits room few canonical phi drift
  let u : State := { s with work := {} }
  let b := slotRowBegun r u
  let v := askAttempt (askStatus (judgeDrift s.ee.sample b))
  have run : exec .rowStart s = .next (settle v) := by
    have due : rowStartDue s = true := (rowStartDue_iff s).2 ⟨mark, (slotCredit_iff s 0).2
      ⟨runs, idle, cool, room, r, slot, by simpa using fits⟩⟩
    have start : startRow u = v := by
      simp only [startRow, u, slot]
      exact startSlotRow_room r u few
    rw [← start]
    exact congrArg Host.Outcome.next (eventWhen_due due)
  obtain ⟨ee, rc, cu, mc, conf, store, pins, pending, work, wt⟩ := slotRowBegun_frame r u
  obtain ⟨calib, other⟩ := slotRowBegun_ca r u
  obtain ⟨q, queue, pos, after, qmark, delta, window⟩ := slotRowBegun_queue r u
  have vee : v.ee = (headTaken r u).ee := by
    simp only [v, askAttempt, askStatus, judgeDrift_frame]
    exact ee
  have vmc : v.mc = s.mc := by
    simp only [v, askAttempt, askStatus, judgeDrift_frame]
    exact mc
  have cfg : b.cfg = s.cfg := congrArg (fun c : Option Conf => c.getD {}) conf
  have vca (h : b.ca = s.ca) : (¬drift ∨ s.ca.state = .due ∨ s.ca.state = .inFlight → v.ca = s.ca) ∧
      (drift → s.ca.state = .valid → v.ca = { s.ca with state := .due }) ∧
      (drift → s.ca.state = .stale → v.ca = { s.ca with state := .due, invalid := 0 }) := by
    have far : farFrom b s.ee.sample ↔ drift := by rw [farFrom, cfg, h]
    refine ⟨fun c => ?_, fun d c => ?_, fun d c => ?_⟩
    · obtain near | pending := c
      · simp only [v, judgeDrift_near (mt far.1 near)]
        exact h
      · simp only [v, judgeDrift_pending (s := b) (by rwa [h])]
        exact h
    · simp only [v, judgeDrift_valid (far.2 d) (by rwa [h])]
      rw [← h]
      rfl
    · simp only [v, judgeDrift_stale (far.2 d) (by rwa [h])]
      rw [← h]
      rfl
  have status : v.work = { attempt := true, status := true } := rfl
  have wf : StoreCanonical v := by
    have same : v.store = s.store := by
      simp only [v, askAttempt, askStatus, judgeDrift_frame]
      exact store
    rwa [StoreCanonical, same]
  obtain ⟨-, -, -, -, -, words⟩ := eventEnd v
  obtain ⟨state, -, -, -, -, -, -, theta, mask, -⟩ := words wf rfl
  have bal : b.ca.bal = s.ca.bal ∧ b.ca.thetaCal = s.ca.thetaCal := by
    by_cases k : r.kind = .calib
    · rw [calib k]
      exact ⟨rfl, rfl⟩
    · rw [other k]
      exact ⟨rfl, rfl⟩
  have fixed : Fixed s (settle v) := by
    have start : startSlotRow r u = v := startSlotRow_room r u few
    rw [← start]
    exact Fixed.trans (t := u) (by constructor <;> rfl) (Fixed.trans (t := startSlotRow r u) {} (settle_fixed _))
  refine ⟨settle v, q, run, ?_, ?_, fixed.lineKept, ?_, ?_, ?_, fun k => ?_, fun k d => ?_, fun k d c => ?_,
    fun k d c => ?_, fun k d c => ?_, ?_, pos, after, qmark, delta, window, fun e he none kind => ?_, ?_, ?_, ?_, ?_⟩
  · simp only [settle_frame, vee]
    rfl
  · simp only [settle_frame, vee]
    rfl
  · simp only [settle_frame, vmc]
  · simp only [settle_frame, v, askAttempt, askStatus, judgeDrift_frame, bal.1]
  · simp only [settle_frame, v, askAttempt, askStatus, judgeDrift_frame, bal.2]
  · simp only [settle_frame, v, judgeDrift_pending (s := b) (.inr (by rw [calib k]))]
    exact calib k
  · simp only [settle_frame]
    exact (vca (other k)).1 (.inl d)
  · simp only [settle_frame]
    exact (vca (other k)).2.1 d c
  · simp only [settle_frame]
    exact (vca (other k)).2.2 d c
  · simp only [settle_frame]
    exact (vca (other k)).1 (.inr c)
  · simp only [settle_frame, v, askAttempt, askStatus, judgeDrift_frame]
    exact queue
  · obtain ⟨e', he', rest⟩ := slotRowBegun_entry r u he none kind
    refine ⟨e', (settle_appended v).mem ?_, rest⟩
    simp only [v, askAttempt, askStatus, judgeDrift_frame]
    exact he'
  · rw [state]
    simp only [settle_frame, vmc]
  · rw [theta]
    simp only [settle_frame, vee]
    rfl
  · rw [mask]
    simp only [settle_frame, vee]
    rfl
  · intro begun
    refine ⟨fun l => ?_, v, rfl, ?_, status, ?_⟩
    · obtain ⟨held, lines⟩ := settle_buffers v l
      rw [held, lines, vee]
      cases l <;> exact ⟨rfl, rfl⟩
    · simp only [v, askAttempt, askStatus, judgeDrift_frame]
      rw [rc]
      rfl
    · simp only [settle_frame, vee]
      rfl

end Sys2Proof.Machine
end

section
/-! SUPPORT. One line of the exposing row, lane by lane (R55, R68, R71, R72). -/

namespace Sys2Proof.Machine

/-! ## A lane's buffer at a line -/

/-- The next line of a lane's buffer is the one the head stands at (R71). -/
def LineBuffer.atLine (b : LineBuffer) (k : Nat) : Prop :=
  ∃ x rest, b.lines = x :: rest ∧ x.forSlot = false ∧ x.line = k

/-- The line the head stands at is not there (R72). -/
def LineBuffer.missing (b : LineBuffer) (k : Nat) : Prop := ∀ x ∈ b.lines.head?, x.forSlot = true ∨ x.line ≠ k

theorem LineBuffer.feed_there {b : LineBuffer} {k : Nat} {x : BufLine} {rest : List BufLine} (h : b.lines = x :: rest)
    (own : x.forSlot = false) (line : x.line = k) : b.feed k = ({ b with held := some x.data, lines := rest }, false) := by
  simp only [LineBuffer.feed, h, own, line]
  rfl

theorem LineBuffer.feed_missing {b : LineBuffer} {k : Nat} (h : b.missing k) :
    b.feed k = ({ b with nextExp := max b.nextExp (k + 1) }, true) := by
  unfold LineBuffer.missing at h
  unfold LineBuffer.feed
  split
  next x rest lines =>
    have other := h x (by rw [lines]; rfl)
    have no : ¬(!x.forSlot && decide (x.line = k)) = true := by
      rw [Bool.and_eq_true, Bool.not_eq_true', decide_eq_true_eq]
      rintro ⟨own, line⟩
      obtain slot | ne := other
      · rw [own] at slot
        cases slot
      · exact ne line
    rw [if_neg no, lines]
  next lines => rw [lines]

/-! ## A lane of the exposing row -/

/-- A lane of the exposing row at line `k`, as the feed leaves it. -/
def laneFed (r : ExposingRow) (k : Nat) (s : State) (l : Lane) :
    LineBuffer × Option PrintRun × Option (PrintSpec × List Byte) :=
  feedLane s.cfg r.context k (s.ee.buffers.get l) (r.prints.get l)

/-- The clipped values of the line a lane sends (R55). -/
def laneClips (r : ExposingRow) (s : State) (p : PrintRun) (held : Option (List Byte)) : Nat :=
  held.elim 0 fun px => clipsOfLine s.cfg r.context p.spec px

section
variable {r : ExposingRow} {k : Nat} {s : State} {l : Lane}

theorem laneFed_none (h : r.prints.get l = none) : laneFed r k s l = (s.ee.buffers.get l, none, none) := by
  simp only [laneFed, h, feedLane]

theorem laneFed_some {p : PrintRun} (h : r.prints.get l = some p) :
    laneFed r k s l = (((s.ee.buffers.get l).feed k).1,
      some { p with
        clip := p.clip + laneClips r s p ((s.ee.buffers.get l).feed k).1.held
        underrun := p.underrun || ((s.ee.buffers.get l).feed k).2 },
      ((s.ee.buffers.get l).feed k).1.held.map fun px => (p.spec, px)) := by
  simp only [laneFed, h, feedLane]
  rfl

end

/-! ## The step -/

/-- The exposing row after line `k`. -/
def rowFed (r : ExposingRow) (k : Nat) (s : State) : ExposingRow :=
  { r with prints := ⟨(laneFed r k s .a).2.1, (laneFed r k s .b).2.1⟩ }

theorem rowFed_prints (r : ExposingRow) (k : Nat) (s : State) (l : Lane) :
    (rowFed r k s).prints.get l = (laneFed r k s l).2.1 := by cases l <;> rfl

/-- The head and the line buffers after line `k` was sent (R68). -/
def lineSent (r : ExposingRow) (k : Nat) (s : State) : State :=
  { s with
    ee := { s.ee with
      expo := some (.row (rowFed r k s))
      buffers := ⟨(laneFed r k s .a).1, (laneFed r k s .b).1⟩
      drive := driveLine s.cfg (markLine r.length k)
        { kind := r.kind, ctx := r.context, lanes := ⟨(laneFed r k s .a).2.2, (laneFed r k s .b).2.2⟩ } } }

theorem exposeLine_eq (r : ExposingRow) (k : Nat) (s : State) : exposeLine r k s =
    advanceX (wastes s.cfg r k) (flagUnderrun r.x0 .b (laneFed r k s .b).2.1
      (flagUnderrun r.x0 .a (laneFed r k s .a).2.1 (lineSent r k s))) := rfl

theorem exposeLine_ee (r : ExposingRow) (k : Nat) (s : State) : (exposeLine r k s).ee = (lineSent r k s).ee := by
  simp only [exposeLine_eq, advanceX, flagUnderrun_frame]

theorem exposeLine_buffers (r : ExposingRow) (k : Nat) (s : State) (l : Lane) :
    (exposeLine r k s).ee.buffers.get l = (laneFed r k s l).1 := by
  rw [exposeLine_ee]
  cases l <;> rfl

theorem flagUnderrun_kept {x : Word} {l m : Lane} {p : Option PrintRun} {s : State}
    (h : ∀ e ∈ s.wt.track, e.key = printKey x l → e.flags.underrun = true) :
    ∀ e ∈ (flagUnderrun x m p s).wt.track, e.key = printKey x l → e.flags.underrun = true := by
  unfold flagUnderrun
  split
  · intro e he key
    obtain ⟨f, hf, rfl⟩ := List.mem_map.1 he
    by_cases mine : f.key = printKey x m
    · rw [if_pos mine]
    · rw [if_neg mine] at key ⊢
      exact h f hf key
  · exact h

theorem flagUnderrun_flagged {x : Word} {l : Lane} {p : Option PrintRun} {s : State} (h : p.any (·.underrun) = true) :
    ∀ e ∈ (flagUnderrun x l p s).wt.track, e.key = printKey x l → e.flags.underrun = true := by
  intro e he key
  rw [flagUnderrun, if_pos h] at he
  obtain ⟨f, -, rfl⟩ := mem_updateEntry (f := fun e => { e with flags := { e.flags with underrun := true } }) he key
  rfl

/-- The entries of a print that has underrun are flagged (R72). -/
theorem exposeLine_flagged {r : ExposingRow} {k : Nat} {s : State} {l : Lane}
    (h : (laneFed r k s l).2.1.any (·.underrun) = true) :
    ∀ e ∈ (exposeLine r k s).wt.track, e.key = printKey r.x0 l → e.flags.underrun = true := by
  cases l with
  | a => exact flagUnderrun_kept (flagUnderrun_flagged h)
  | b => exact flagUnderrun_flagged h

section
variable {s : State} (runs : s.mc.state = .running ∨ s.mc.state = .pausing)
include runs

theorem exec_feedStep_row {r : ExposingRow} (h : s.ee.expo = some (.row r)) (inside : (s.wt.x - r.x0).toNat < r.length) :
    exec .exposureFeedStep s = .next (startReads (exposeLine r (s.wt.x - r.x0).toNat { s with work := {} })) := by
  have due : feedStepDue s = true := by
    simp only [feedStepDue, h, Bool.and_eq_true]
    exact ⟨(feedRuns_iff s).2 runs, by simpa [ExposingRow.ended] using inside⟩
  have step : feedStep { s with work := {} } = exposeLine r (s.wt.x - r.x0).toNat { s with work := {} } := by
    simp only [feedStep, h]
  have idle : (exposeLine r (s.wt.x - r.x0).toNat { s with work := {} }).work = {} := by simp
  have run : exec .exposureFeedStep s = .next (event feedStep s) := congrArg Host.Outcome.next (eventWhen_due due)
  rw [run, event, step, settle_idle _ idle]

theorem exec_feedStep_leadIn {n : Nat} {b : Bool} (h : s.ee.expo = some (.leadIn n b)) (more : n < 4) :
    exec .exposureFeedStep s = .next (settle (exposeLeadIn n b { s with work := {} })) := by
  have due : feedStepDue s = true := by
    simp only [feedStepDue, h, Bool.and_eq_true]
    exact ⟨(feedRuns_iff s).2 runs, by simpa [Config.leadInLines] using more⟩
  have step : feedStep { s with work := {} } = exposeLeadIn n b { s with work := {} } := by
    simp only [feedStep, h]
  have run : exec .exposureFeedStep s = .next (event feedStep s) := congrArg Host.Outcome.next (eventWhen_due due)
  rw [run, event, step]

end

end Sys2Proof.Machine
end

section
/-! CLAIMS. One step of the exposure feed (R68 to R72, R94, R105). -/

namespace Sys2Proof.Machine

/-- A line of a row that is not a PRINT row sends no print and is waste (R68, R105). -/
theorem exposeLine_other {r : ExposingRow} {k : Nat} {s : State} (head : s.ee.expo = some (.row r)) (kind : r.kind ≠ .print)
    (bare : r.prints = ⟨none, none⟩) : exposeLine r k s = { s with
      ee := { s.ee with
        drive := driveLine s.cfg (markLine r.length k) { kind := r.kind, ctx := r.context, lanes := ⟨none, none⟩ } }
      wt := { s.wt with x := s.wt.x + 1, paperUsed := s.wt.paperUsed + 1, waste := s.wt.waste + 1 } } := by
  have a : laneFed r k s .a = (s.ee.buffers.get .a, none, none) := laneFed_none (by rw [bare]; rfl)
  have b : laneFed r k s .b = (s.ee.buffers.get .b, none, none) := laneFed_none (by rw [bare]; rfl)
  have wasted : wastes s.cfg r k = true := by
    unfold wastes
    cases at_ : r.kind with
    | print => exact absurd at_ kind
    | calib => rfl
    | blank => rfl
  have same : rowFed r k s = r := by
    rw [rowFed, a, b, ← bare]
  rw [exposeLine_eq, lineSent, wasted, same, ← head, a, b]
  dsimp only
  generalize driveLine s.cfg (markLine r.length k) { kind := r.kind, ctx := r.context, lanes := ⟨none, none⟩ } = line
  rfl

theorem wastes_print {c : Conf} {r : ExposingRow} {k : Nat} (h : r.kind = .print) : wastes c r k = true ↔
    c.laneMode = .twoUp ∧ ¬(r.prints.a.isSome ∧ r.prints.b.isSome) ∧ k % 2 = 1 := by
  simp only [wastes, h, Bool.and_eq_true, decide_eq_true_eq, Bool.not_eq_true', Bool.and_eq_false_iff, and_assoc,
    not_and_or, Bool.not_eq_true]

/-- Settles O35: a lead-in's line, a CALIB or BLANK row's, and a PRINT row's lane by lane. -/
theorem linesExposed : Obligations.LinesExposed := by
  refine ⟨fun s runs => ?_, fun s r runs head kind inside => ?_⟩
  · intro moved
    refine ⟨fun n b head more => ?_, fun r head kind bare inside => ?_⟩
    · rw [exec_feedStep_leadIn runs head more]
      rfl
    · rw [exec_feedStep_row runs head inside,
        exposeLine_other (s := { s with work := {} }) head kind bare, ← settle_idle _ (by rfl)]
      rfl
  · intro k alone
    let u : State := { s with work := {} }
    let v := exposeLine r k u
    have run : exec .exposureFeedStep s = .next (startReads v) := exec_feedStep_row runs head inside
    have idle : v.work = {} := by simp [v, u]
    rw [← settle_idle v idle] at run
    have waste : v.wt.waste = if wastes s.cfg r k then s.wt.waste + 1 else s.wt.waste := by
      simp only [v, exposeLine_eq, advanceX, flagUnderrun_frame]
      rfl
    have prints (l : Lane) (p : PrintRun) (h : r.prints.get l = some p) := laneFed_some (k := k) (s := u) h
    refine ⟨settle v, rowFed r k u, run, ?_, ?_, fun w => ?_, fun w => ?_, ?_, ?_, kind, rfl, rfl, rfl, ?_, ?_, ?_, ?_, ?_, ?_,
      ?_, ?_, fun l p h => ⟨fun x rest lines own line => ?_, fun missing => ?_⟩, v, rfl, ?_, fun l => ?_⟩
    · simp [v, exposeLine_eq, advanceX, lineSent, u]
    · simp [v, exposeLine_eq, advanceX, lineSent, u]
    · simp only [settle_frame]
      rw [waste, if_pos ((wastes_print kind).2 w)]
    · simp only [settle_frame]
      rw [waste, if_neg (mt (wastes_print kind).1 w)]
    · simp [v, u]
    · simp only [settle_frame, v, exposeLine_ee]
      rfl
    · simp only [settle_frame, v, exposeLine_ee, lineSent]
      exact driveLine_length _ _ _
    · simp [v, u]
    · simp [v, u]
    · rw [settle_idle v idle]
      simp [v, u]
    · rw [settle_idle v idle]
      simp [v, u]
    · simp [v, u]
    · simp [v, u]
    · rw [settle_idle v idle]
      simp [v, u]
    · obtain ⟨held, left⟩ := settle_buffers v l
      have fed := prints l p h
      rw [LineBuffer.feed_there (b := u.ee.buffers.get l) lines own line] at fed
      rw [held, left, exposeLine_buffers, rowFed_prints, fed]
      exact ⟨rfl, rfl, _, rfl, rfl, Bool.or_false _, Nat.le_add_right _ _⟩
    · obtain ⟨held, left⟩ := settle_buffers v l
      have fed := prints l p h
      rw [LineBuffer.feed_missing (b := u.ee.buffers.get l) missing] at fed
      rw [held, left, exposeLine_buffers, rowFed_prints, fed]
      refine ⟨rfl, rfl, ⟨_, rfl, rfl, Bool.or_true _, fun none => ?_⟩, fun e he key => ?_⟩
      · dsimp only
        rw [show (u.ee.buffers.get l).held = Option.none from none]
        rfl
      · have flagged := exposeLine_flagged (r := r) (k := k) (s := u) (l := l) (by rw [fed]; exact Bool.or_true _)
        rw [settle_idle v idle] at he
        simp only [startReads_frame] at he
        exact flagged e he key
    · have shape := startReads_shape v
      rw [settle_idle v idle, shape]
    · intro b
      rw [exposeLine_buffers]
      refine ⟨fun none => by rw [laneFed_none none], fun some => ⟨fun x rest lines own line => ?_, fun missing => ?_⟩⟩
      · obtain ⟨p, h⟩ := Option.isSome_iff_exists.1 some
        rw [prints l p h, LineBuffer.feed_there (b := u.ee.buffers.get l) lines own line]
      · obtain ⟨p, h⟩ := Option.isSome_iff_exists.1 some
        rw [prints l p h, LineBuffer.feed_missing (b := u.ee.buffers.get l) missing]

end Sys2Proof.Machine
end

section
/-! CLAIMS. The values of a drive line, and the clip counts of a PRINT row (R46 to R55, R69, R70). -/

namespace Sys2Proof.Machine

/-! ## Places of a line -/

/-- The place of a channel and element in a line (R46). -/
theorem channelLines_get (f : Chan → Nat → Nat) (k : Chan) {e : Nat} (h : e < 3664) :
    (allChans.flatMap fun k => (List.range Config.headElements).map (f k))[3664 * k.index + e]? = some (f k e) := by
  have long (k : Chan) : ((List.range Config.headElements).map (f k)).length = 3664 := by
    rw [List.length_map, List.length_range]
  have at_ : ((List.range Config.headElements).map (f k))[e]? = some (f k e) := by
    rw [List.getElem?_map, List.getElem?_range h]
    rfl
  simp only [allChans, List.flatMap_cons, List.flatMap_nil, List.append_nil]
  cases k with
  | red => rw [List.getElem?_append_left (by rw [long]; simpa [Chan.index] using h)]; simpa [Chan.index] using at_
  | green =>
    rw [List.getElem?_append_right (by rw [long]; simp [Chan.index]), long,
      List.getElem?_append_left (by rw [long]; simp [Chan.index]; omega)]
    simpa [Chan.index] using at_
  | blue =>
    rw [List.getElem?_append_right (by rw [long]; simp [Chan.index]; omega), long,
      List.getElem?_append_right (by rw [long]; simp [Chan.index]; omega), long]
    rw [show 3664 * Chan.blue.index + e - 3664 - 3664 = e by simp [Chan.index]; omega]
    exact at_

theorem driveLine_get (c : Conf) (marked : Bool) (im : LineImage) (k : Chan) {e : Nat} (h : e < 3664) :
    (driveLine c marked im)[3664 * k.index + e]? = some (lineValue c marked im k e) :=
  channelLines_get (fun k e => lineValue c marked im k e) k h

theorem leadInLine_get (c : Conf) (k : Chan) {e : Nat} (h : e < 3664) :
    (leadInLine c)[3664 * k.index + e]? = some (if underMark c e then markValue c k e else 0) :=
  channelLines_get (fun k e => if underMark c e then markValue c k e else 0) k h

theorem codeValue_eq (px : List Byte) (k : Chan) (p : Nat) :
    codeValue px k p = (px[3 * p + k.index]?).elim 0 (·.toNat) := by
  rw [codeValue, List.getD_eq_getElem?_getD]
  cases px[3 * p + k.index]? <;> rfl

/-! ## Ranges (R50 to R53) -/

theorem scale_le {x f a b : Nat} (hx : x ≤ a) (hf : f ≤ b) : scale x f ≤ (a * b + 2048) / 4096 :=
  Nat.div_le_div_right (Nat.add_le_add_right (Nat.mul_le_mul hx hf) _)

/-! ## What a line shows -/

section
variable {c : Conf} {marked : Bool} {im : LineImage} {k : Chan} {e : Nat}

theorem underMark_iff : underMark c e = true ↔
    (3664 - c.paperWidth * 12 / 10) / 2 ≤ e ∧ e < (3664 - c.paperWidth * 12 / 10) / 2 + 12 := by
  rw [underMark, Bool.and_eq_true, decide_eq_true_eq, decide_eq_true_eq]
  rfl

theorem lineValue_mark (m : marked = true) (h : underMark c e = true) : lineValue c marked im k e = markValue c k e := by
  rw [lineValue, m, h]
  rfl

theorem lineValue_beneath (h : ¬(marked = true ∧ underMark c e = true)) :
    lineValue c marked im k e = rowValue c im k e :=
  if_neg (by rwa [Bool.and_eq_true])

/-- A print lies over an element (R47). -/
def covers (p : PrintSpec) (e : Nat) : Prop := p.first ≤ e ∧ e < p.first + p.width

theorem laneValue_covered {ctx : RowContext} {p : PrintSpec} {px : List Byte} (h : covers p e) :
    laneValue c ctx (some (p, px)) k e = some (driveValue c ctx k e (codeValue px k (e - p.first))) := by
  have under : underPrint p e = true := by
    simpa [underPrint, covers] using h
  simp only [laneValue, Option.bind_some, under, if_true]

theorem laneValue_bare {ctx : RowContext} {l : Option (PrintSpec × List Byte)}
    (h : ∀ p px, l = some (p, px) → ¬covers p e) : laneValue c ctx l k e = none := by
  cases l with
  | none => rfl
  | some l =>
    obtain ⟨p, px⟩ := l
    have under : ¬underPrint p e = true := by
      simpa [underPrint, covers] using h p px rfl
    simp only [laneValue, Option.bind_some, if_neg under]

end

/-! ## The clip count of a line (R55) -/

theorem clamped_eq (c : Conf) (ctx : RowContext) (k : Chan) (e v : Nat) :
    clamped c ctx k e v = (decide (gainOf c k e ≠ 0) && decide (4095 < ticksOf c ctx k e v)) := by
  rw [clamped, decide_not]

theorem clipsOfLine_eq (c : Conf) (ctx : RowContext) (p : PrintSpec) (px : List Byte) :
    clipsOfLine c ctx p px = ([Chan.red, .green, .blue].flatMap fun ch => (List.range p.width).filter fun i =>
      decide (gainOf c ch (p.first + i) ≠ 0) &&
        decide (4095 < ticksOf c ctx ch (p.first + i) ((px[3 * i + ch.index]?).elim 0 (·.toNat)))).length := by
  rw [List.length_flatMap, clipsOfLine]
  simp only [clamped_eq, codeValue_eq]
  rfl

/-- Settles O31: the stages, the line element by element, and the PRINT row's line and clips. -/
theorem valuesOfALine : Obligations.ValuesOfALine := by
  refine ⟨fun c ctx b k e v bal => ?_, fun c marked im k e inside => ?_, fun s r runs head kind inside => ?_⟩
  · intro gain x g h d
    have stages : ticksOf c ctx k e v = (d + 8) / 16 := by
      rw [ticksOf, bal]
      rfl
    refine ⟨rfl, stages, fun table gainLe phiLe balLe => ?_, fun coef theta ref => ?_⟩
    · have xLe : x ≤ 65535 := interpolate_le (c.table.get k) _ (by decide) table
      have gLe : g ≤ 98287 := scale_le xLe gainLe
      have hLe : h ≤ 122859 := scale_le gLe phiLe
      have dLe : d ≤ 184259 := scale_le hLe balLe
      exact ⟨gLe, hLe, dLe, by rw [stages]; omega⟩
    · rw [tempFactor]
      omega
  · intro first mark under value inMark at?
    have place : at? (driveLine c marked im) = some (lineValue c marked im k e) := driveLine_get c marked im k inside
    have lead : at? (leadInLine c) = some (if underMark c e then markValue c k e else 0) := leadInLine_get c k inside
    have marks : underMark c e = true ↔ inMark := underMark_iff
    have drawn (p : PrintSpec) (px : List Byte) : driveValue c im.ctx k e (codeValue px k (e - p.first)) = value p px := by
      rw [codeValue_eq]
    refine ⟨fun m h => ?_, fun h => ?_, fun h => ?_, fun h => ?_⟩
    · rw [place, lineValue_mark m (marks.2 h)]
      rfl
    · rw [place, lineValue_beneath (by rwa [marks])]
      have hit {l : Lane} {p : PrintSpec} {px : List Byte} (u : under l p px) :
          laneValue c im.ctx (im.lanes.get l) k e = some (value p px) := by
        obtain ⟨lane, cover⟩ := u
        rw [lane, laneValue_covered cover, drawn]
      have miss {l : Lane} (bare : ∀ p px, ¬under l p px) : laneValue c im.ctx (im.lanes.get l) k e = none :=
        laneValue_bare fun p px lane cover => bare p px ⟨lane, cover⟩
      refine ⟨fun blank => ?_, fun calib => ?_, fun print => ⟨fun p px a => ?_, fun p px b bare => ?_, fun bare => ?_⟩⟩
      · simp only [rowValue, blank]
      · simp only [rowValue, calib]
        rfl
      · have shown : laneValue c im.ctx im.lanes.a k e = some (value p px) := hit a
        simp only [rowValue, print, shown]
      · have none : laneValue c im.ctx im.lanes.a k e = none := miss bare
        have shown : laneValue c im.ctx im.lanes.b k e = some (value p px) := hit b
        simp only [rowValue, print, none, shown]
      · have noneA : laneValue c im.ctx im.lanes.a k e = none := miss (bare .a)
        have noneB : laneValue c im.ctx im.lanes.b k e = none := miss (bare .b)
        simp only [rowValue, print, noneA, noneB]
    · rw [lead, if_pos (marks.2 h)]
      rfl
    · rw [lead, if_neg (mt marks.1 h)]
  · intro k
    let u : State := { s with work := {} }
    let v := exposeLine r k u
    have idle : v.work = {} := by simp [v, u]
    have run : exec .exposureFeedStep s = .next (settle v) := by
      rw [settle_idle v idle]
      exact exec_feedStep_row runs head inside
    have held (l : Lane) : ((settle v).ee.buffers.get l).held = (laneFed r k u l).1.held := by
      rw [(settle_buffers v l).1, exposeLine_buffers]
    refine ⟨settle v, rowFed r k u, run, by simp only [settle_frame, v, exposeLine_ee]; rfl, ?_⟩
    intro sent
    have sends (l : Lane) : sent l = (laneFed r k u l).2.2 := by
      simp only [sent, held]
      cases h : r.prints.get l with
      | none => rw [laneFed_none h]; rfl
      | some p => rw [laneFed_some h]; rfl
    refine ⟨?_, fun l p h => ?_⟩
    · have marks : markLine r.length k = decide (k < 4 ∨ r.length ≤ k + 4) := by
        rw [markLine, Bool.decide_or]
      rw [sends .a, sends .b, ← marks, ← kind]
      simp only [settle_frame, v, exposeLine_ee, lineSent]
      exact congrArg (fun b : Conf => driveLine b _ _) rfl
    · have fed := laneFed_some (k := k) (s := u) h
      rw [sends, rowFed_prints, fed]
      refine ⟨_, rfl, rfl, fun none => ?_, fun px some => ?_⟩
      · have bare : ((u.ee.buffers.get l).feed k).1.held = Option.none := Option.map_eq_none_iff.1 none
        simp only [bare]
        rfl
      · obtain ⟨qx, here, same⟩ := Option.map_eq_some_iff.1 some
        obtain rfl : qx = px := congrArg Prod.snd same
        simp only [here]
        rw [← clipsOfLine_eq]
        rfl

end Sys2Proof.Machine
end

section
/-! CLAIMS. The end of a row (R73, R74, R101). -/

namespace Sys2Proof.Machine

/-! ## The entry a key names, after each part of a row's end -/

theorem findEntry_map {s t : State} {g : Entry → Entry} (track : t.wt.track = s.wt.track.map g)
    (keys : ∀ e, (g e).key = e.key) (k : EntryKey) : findEntry t k = (findEntry s k).map g := by
  rw [findEntry, track, List.find?_map, findEntry]
  congr 2
  funext e
  rw [Function.comp_apply, keys]

theorem Appended.found {s t : State} (h : Appended s t) {k : EntryKey} {e : Entry} (g : findEntry s k = some e) :
    findEntry t k = some e := by
  obtain ⟨l, track, -⟩ := h
  rw [findEntry, track, List.find?_append, show s.wt.track.find? _ = some e from g]
  rfl

theorem key_of_findEntry {s : State} {k : EntryKey} {e : Entry} (h : findEntry s k = some e) : e.key = k :=
  of_decide_eq_true (List.find?_some h :)

theorem findEntry_updateEntry_same {s : State} {k : EntryKey} {e : Entry} {f : Entry → Entry} (keys : ∀ e, (f e).key = e.key)
    (h : findEntry s k = some e) : findEntry (updateEntry k f s) k = some (f e) := by
  rw [findEntry_map (s := s) (g := fun e => if e.key = k then f e else e) rfl, h, Option.map_some, if_pos (key_of_findEntry h)]
  intro e
  split
  · exact keys e
  · rfl

theorem findEntry_updateEntry_other {s : State} {j k : EntryKey} {f : Entry → Entry} (keys : ∀ e, (f e).key = e.key)
    (h : k ≠ j) : findEntry (updateEntry j f s) k = findEntry s k := by
  rw [findEntry_map (s := s) (g := fun e => if e.key = j then f e else e) rfl]
  · cases found : findEntry s k with
    | none => rfl
    | some e => rw [Option.map_some, if_neg (by rw [key_of_findEntry found]; exact h)]
  · intro e
    split
    · exact keys e
    · rfl

section
variable {s : State} {x0 : Word} {l : Lane} {k : EntryKey} {e : Entry}

theorem judgeClip_found {p : Option PrintRun} (h : findEntry s (printKey x0 l) = some e) :
    findEntry (judgeClip x0 l p s) (printKey x0 l) = some { e with flags := { e.flags with
      clipped := e.flags.clipped || p.any fun q => decide (s.cfg.clipLimit < q.clip) } } := by
  unfold judgeClip
  split
  next high =>
    rw [findEntry_updateEntry_same (by exact fun _ => rfl) h, high, Bool.or_true]
  next low =>
    rw [Bool.not_eq_true] at low
    rw [h, low, Bool.or_false]

theorem judgeClip_other (p : Option PrintRun) (h : k ≠ printKey x0 l) :
    findEntry (judgeClip x0 l p s) k = findEntry s k := by
  unfold judgeClip
  split
  · exact findEntry_updateEntry_other (by exact fun _ => rfl) h
  · rfl

/-- The report of an underrun leaves the Web Transport as it was (R42). -/
theorem judgeUnderrun_wt (h : findEntry s (printKey x0 l) = some e) : (judgeUnderrun x0 l s).wt =
    (if e.flags.underrun && !e.flags.withdrawn then
      updateEntry (printKey x0 l) (fun e => { e with flags := { e.flags with reject := true } }) s else s).wt := by
  simp only [judgeUnderrun, h, key_of_findEntry h]
  split
  · cases e.ref with
    | none => rfl
    | some r => simp only [Option.elim_some, rejectReport_frame]
  · rfl

theorem judgeUnderrun_found (h : findEntry s (printKey x0 l) = some e) :
    findEntry (judgeUnderrun x0 l s) (printKey x0 l) = some { e with flags := { e.flags with
      reject := e.flags.reject || (e.flags.underrun && !e.flags.withdrawn) } } := by
  rw [findEntry, judgeUnderrun_wt h, ← findEntry]
  split
  next late => rw [findEntry_updateEntry_same (by exact fun _ => rfl) h, late, Bool.or_true]
  next inTime =>
    rw [Bool.not_eq_true] at inTime
    rw [h, inTime, Bool.or_false]

theorem judgeUnderrun_other (h : k ≠ printKey x0 l) : findEntry (judgeUnderrun x0 l s) k = findEntry s k := by
  cases found : findEntry s (printKey x0 l) with
  | none => simp only [judgeUnderrun, found]
  | some e =>
    rw [findEntry, judgeUnderrun_wt found, ← findEntry]
    split
    · exact findEntry_updateEntry_other (by exact fun _ => rfl) h
    · rfl

theorem judgeUnderrun_kept : (judgeUnderrun x0 l s).ct = s.ct ∧ (judgeUnderrun x0 l s).su.conveyor = s.su.conveyor := by
  unfold judgeUnderrun
  split
  · exact ⟨rfl, rfl⟩
  next e _ =>
    split
    · cases e.ref <;> simp
    · exact ⟨rfl, rfl⟩

end

section
variable {s : State} {r : ExposingRow}

theorem judgePrints_kept (r : ExposingRow) (s : State) :
    (judgePrints r s).ct = s.ct ∧ (judgePrints r s).su.conveyor = s.su.conveyor := by
  simp only [judgePrints, judgeUnderrun_kept, judgeClip_frame, and_self]

theorem printKey_ne {x0 : Word} {l m : Lane} (h : l ≠ m) : printKey x0 l ≠ printKey x0 m :=
  fun same => h (congrArg EntryKey.lane same)

/-- The judgements of a row's end on one of its prints (R73). -/
theorem judgePrints_found {l : Lane} {e : Entry} (h : findEntry s (printKey r.x0 l) = some e) :
    findEntry (judgePrints r s) (printKey r.x0 l) = some { e with flags := { e.flags with
      clipped := e.flags.clipped || (r.prints.get l).any fun p => decide (s.cfg.clipLimit < p.clip)
      reject := e.flags.reject || (e.flags.underrun && !e.flags.withdrawn) } } := by
  unfold judgePrints
  cases l with
  | a =>
    have other := printKey_ne (x0 := r.x0) (l := .a) (m := .b) nofun
    have clip := judgeClip_found (p := r.prints.a) h
    rw [← judgeClip_other r.prints.b other] at clip
    rw [judgeUnderrun_other other]
    exact judgeUnderrun_found clip
  | b =>
    have other := printKey_ne (x0 := r.x0) (l := .b) (m := .a) nofun
    rw [← judgeClip_other r.prints.a other] at h
    have clip := judgeClip_found (p := r.prints.b) h
    rw [← judgeUnderrun_other other] at clip
    have conf : (judgeClip r.x0 .a r.prints.a s).cfg = s.cfg := by simp only [State.cfg, judgeClip_frame]
    rw [conf] at clip
    exact judgeUnderrun_found clip

theorem judgePrints_other {k : EntryKey} (h : k.kind ≠ .print) : findEntry (judgePrints r s) k = findEntry s k := by
  have other (l : Lane) : k ≠ printKey r.x0 l := fun same => h (congrArg EntryKey.kind same)
  unfold judgePrints
  rw [judgeUnderrun_other (other _), judgeUnderrun_other (other _), judgeClip_other _ (other _), judgeClip_other _ (other _)]

end

/-- The stage an entry of a row that ends moves to (R101). -/
def stageBehind (x0 : Word) (y : Word) (st : Stage) : Stage :=
  if st = .exposing then (if reached y x0 then .processing else .inLoop) else st

theorem endEntries_eq (x0 : Word) (s : State) : endEntries x0 s = { s with wt := { s.wt with
    track := s.wt.track.map fun e => if e.x0 = some x0 then { e with stage := stageBehind x0 s.wt.y e.stage } else e } } := by
  have each (e : Entry) : (if e.x0 = some x0 ∧ e.stage = .exposing then e.leaveHead s.wt.y else e) =
      if e.x0 = some x0 then { e with stage := stageBehind x0 s.wt.y e.stage } else e := by
    by_cases own : e.x0 = some x0
    · by_cases head : e.stage = .exposing
      · rw [if_pos ⟨own, head⟩, if_pos own, stageBehind, if_pos head, Entry.leaveHead, own]
        rfl
      · rw [if_neg fun h => head h.2, if_pos own, stageBehind, if_neg head]
    · rw [if_neg fun h => own h.1, if_neg own]
  rw [endEntries, List.map_congr_left fun e _ => each e]

theorem endEntries_found {x0 : Word} {s : State} {k : EntryKey} {e : Entry} (own : k.x0 = some x0)
    (h : findEntry s k = some e) :
    findEntry (endEntries x0 s) k = some { e with stage := stageBehind x0 s.wt.y e.stage } := by
  rw [endEntries_eq, findEntry_map (s := s)
    (g := fun e => if e.x0 = some x0 then { e with stage := stageBehind x0 s.wt.y e.stage } else e) rfl, h, Option.map_some,
    if_pos (show e.x0 = some x0 from (congrArg EntryKey.x0 (key_of_findEntry h)).trans own)]
  intro e
  split <;> rfl

/-! ## The event -/

/-- The row's end up to the judgement of the paper-out request: the prints of a PRINT row judged, its entries out of
EXPOSING, and the head standing (R73, R74, R101). -/
def rowHandedOn (r : ExposingRow) (s : State) : State :=
  endRow (endEntries r.x0 (if r.kind = .print then judgePrints r s else s))

theorem exec_rowEnds {s : State} {r : ExposingRow} (head : s.ee.expo = some (.row r))
    (past : r.length ≤ (s.wt.x - r.x0).toNat) : exec (if r.kind = .print then .rowEnd else .calibOrBlankRowEnd) s =
      .next (settle (keepLoop (judgePaperRequest (rowHandedOn r { s with work := {} })))) := by
  have ended := (endedRow_iff s r).2 ⟨head, past⟩
  unfold rowHandedOn
  by_cases kind : r.kind = .print
  · rw [if_pos kind, if_pos kind]
    show execRowEnd s = _
    simp only [execRowEnd, ended]
    rw [if_pos kind]
    rfl
  · rw [if_neg kind, if_neg kind]
    show execCalibOrBlankRowEnd s = _
    simp only [execCalibOrBlankRowEnd, ended]
    rw [if_neg kind]
    rfl

section
variable (r : ExposingRow) (s : State)

theorem rowHandedOn_other (h : r.kind ≠ .print) : rowHandedOn r s = endRow (endEntries r.x0 s) := by
  rw [rowHandedOn, if_neg h]

theorem rowHandedOn_fixed : Fixed s (rowHandedOn r s) := by
  unfold rowHandedOn
  split
  · constructor <;> simp [endRow]
  · constructor <;> simp [endRow]

theorem rowHandedOn_kept : (rowHandedOn r s).mc = s.mc ∧ (rowHandedOn r s).ca = s.ca ∧ (rowHandedOn r s).ct = s.ct ∧
    (rowHandedOn r s).su.conveyor = s.su.conveyor ∧ (rowHandedOn r s).ee = (endRow s).ee ∧
    (rowHandedOn r s).rc.slot = s.rc.slot ∧ (rowHandedOn r s).wt.paperEnd = s.wt.paperEnd ∧
    (rowHandedOn r s).work.status = s.work.status := by
  unfold rowHandedOn
  split <;> simp [endRow, judgePrints_kept]

theorem rowHandedOn_found {k : EntryKey} {e : Entry} (own : k.x0 = some r.x0) (h : findEntry s k = some e) :
    ∃ e', findEntry (rowHandedOn r s) k = some e' ∧ e'.stage = stageBehind r.x0 s.wt.y e.stage ∧ e'.ref = e.ref ∧
      e'.length = e.length ∧ (r.kind ≠ .print ∨ k.kind ≠ .print → e'.flags = e.flags) ∧
      (r.kind = .print → k.kind = .print → e'.flags = { e.flags with
        clipped := e.flags.clipped || (r.prints.get k.lane).any fun p => decide (s.cfg.clipLimit < p.clip)
        reject := e.flags.reject || (e.flags.underrun && !e.flags.withdrawn) }) := by
  unfold rowHandedOn
  by_cases row : r.kind = .print
  · rw [if_pos row]
    have y : (judgePrints r s).wt.y = s.wt.y := by simp
    by_cases kind : k.kind = .print
    · have named : k = printKey r.x0 k.lane := by rw [printKey, ← own, ← kind]
      have judged := judgePrints_found (r := r) (l := k.lane) (by rw [← named]; exact h)
      rw [← named] at judged
      exact ⟨_, endEntries_found own judged, by rw [y], rfl, rfl, fun other => absurd other (by simp [row, kind]),
        fun _ _ => rfl⟩
    · have same := (judgePrints_other (r := r) (s := s) kind).trans h
      exact ⟨_, endEntries_found own same, by rw [y], rfl, rfl, fun _ => rfl, fun _ print => absurd print kind⟩
  · rw [if_neg row]
    exact ⟨_, endEntries_found own h, rfl, rfl, rfl, fun _ => rfl, fun print => absurd print row⟩

end

theorem blankDue_away {s : State} (h : s.wt.x ≠ s.wt.y) : blankDue s = false := by
  rw [← Bool.not_eq_true, blankDue_iff]
  rintro ⟨-, -, empty, -⟩
  exact h empty

/-- Settles O36: the row handed on, what becomes of its entries, and the judgements on the prints. -/
theorem rowEnds : Obligations.RowEnds := by
  intro s r head past away noRequest
  intro i next
  have run := exec_rowEnds head past
  let u : State := { s with work := {} }
  obtain ⟨mc, ca, ct, conveyor, ee, slot, paperEnd, status⟩ := rowHandedOn_kept r u
  have fixed := rowHandedOn_fixed r u
  rw [judgePaperRequest_none (by rw [mc]; exact noRequest),
    keepLoop_kept (blankDue_away (by rw [fixed.x, fixed.y]; exact away))] at run
  refine ⟨settle (rowHandedOn r u), run, ?_, ?_, ?_, ?_, ?_, ?_, ?_, ?_, fun l => ?_, fun k e own found => ?_, fun other => ?_, fun print => ?_⟩
  · simp [ee, endRow]
  · simp [ee, endRow]
  · simp [ee, endRow]
  · simp [mc, u]
  · exact (Fixed.trans (s := s) (by constructor <;> rfl) (fixed.trans (settle_fixed _))).lineKept
  · simp [ca, u]
  · simp [ct, u]
  · simp [conveyor, u]
  · obtain ⟨held, left⟩ := settle_buffers (rowHandedOn r u) l
    rw [held, left, ee]
    cases l <;> exact ⟨rfl, rfl⟩
  · obtain ⟨e', there, kept⟩ := rowHandedOn_found r u (e := e) own found
    exact ⟨e', (settle_appended _).found there, kept⟩
  · rw [rowHandedOn_other r u other]
    have idle : (endRow (endEntries r.x0 u)).work = {} := by simp [u]
    rw [settle_idle _ idle]
    simp [u]
  · intro key flag clips report ended handOn
    rw [if_pos print] at run
    have clip (l : Lane) (v : State) (conf : v.cfg = s.cfg) : clips l v = judgeClip r.x0 l (r.prints.get l) v := by
      simp only [clips, judgeClip, conf]
      rfl
    have underrun (l : Lane) (v : State) : report l v = judgeUnderrun r.x0 l v := by
      simp only [report, judgeUnderrun]
      cases found : findEntry v (printKey r.x0 l) with
      | none => rw [show findEntry v (key l) = none from found]
      | some e =>
        rw [show findEntry v (key l) = some e from found]
        dsimp only
        rw [key_of_findEntry found]
        cases e.ref <;> rfl
    have pass (v : State) (y : v.wt.y = s.wt.y) : handOn v = endRow (endEntries r.x0 v) := by
      rw [endEntries_eq, y]
      rfl
    have judged : rowHandedOn r u = handOn (report .b (report .a (clips .b (clips .a u)))) := by
      rw [rowHandedOn, if_pos print, clip .a u rfl, clip .b _ (by simp only [State.cfg, judgeClip_frame, u]), underrun, underrun,
        pass _ (by simp [u])]
      rfl
    rw [run, judged]

end Sys2Proof.Machine
end

section
/-! SUPPORT. Room in a full cut queue, and the row before a boundary (R113 to R115). -/

namespace Sys2Proof.Machine

/-! ## A row lost from the track leaves the cut queue (R114) -/

/-- A boundary once the row at `x` is gone, and none when it names no row any more (R114). -/
def Boundary.pruned (x : Word) (b : Boundary) : Option Boundary :=
  if b.rowAfter = some x ∨ b.rowBefore = some x then (if (b.forget x).kept then some (b.forget x) else none) else some b

/-- The cut queue once the row at `x` is gone. -/
def CtState.pruned (x : Word) (c : CtState) : CtState := { c with queue := c.queue.filterMap (·.pruned x) }

theorem ite_none_ne {x : Word} (o : Option Word) : (if o = some x then none else o) ≠ some x := by
  split
  · nofun
  next other => exact other

theorem Boundary.pruned_unnamed {x : Word} {b p : Boundary} (h : b.pruned x = some p) :
    p.rowBefore ≠ some x ∧ p.rowAfter ≠ some x := by
  unfold Boundary.pruned at h
  split at h
  next named =>
    obtain ⟨-, same⟩ := Option.ite_none_right_eq_some.1 h
    rw [← Option.some.inj same]
    exact ⟨ite_none_ne _, ite_none_ne _⟩
  next unnamed =>
    rw [← Option.some.inj h]
    exact ⟨fun g => unnamed (.inr g), fun g => unnamed (.inl g)⟩

/-- A boundary with no row after goes with its row before. -/
theorem Boundary.pruned_gone {x : Word} {b : Boundary} (after : b.rowAfter = none) (before : b.rowBefore = some x) :
    b.pruned x = none := by
  simp [Boundary.pruned, Boundary.forget, Boundary.kept, after, before]

theorem reportLoss_ct (cause : RejectCause) (e : Entry) (s : State) : (reportLoss cause e s).ct = s.ct := by
  unfold reportLoss
  split
  · split <;> simp only [rejectReport_frame]
  · simp only [patchLost_frame]
  · rfl

theorem removeEntry_ct {k : EntryKey} {s : State} {e : Entry} (found : findEntry s k = some e) :
    (removeEntry k s).ct = (entryTaken k s).ct := by
  rw [removeEntry_eq found]
  cases e.ref with
  | none => rfl
  | some r => simp only [Option.elim_some, judgeClose_frame]

section
variable {cause : RejectCause} {k : EntryKey} {s : State} {x : Word}

/-- An entry flagged LOST is still the one its key names, and the row starts of the others stand. -/
theorem flagLost_found {e : Entry} (found : findEntry s k = some e) :
    ∃ f, findEntry (reportLoss cause e (flagLost k s)) k = some f := by
  rw [findEntry, reportLoss_wt, ← findEntry]
  exact ⟨_, findEntry_updateEntry_same (by exact fun _ => rfl) found⟩

theorem flagLost_rows (e : Entry) : (∃ f ∈ (reportLoss cause e (flagLost k s)).wt.track, f.key ≠ k ∧ f.x0 = some x) ↔
    ∃ f ∈ s.wt.track, f.key ≠ k ∧ f.x0 = some x := by
  rw [reportLoss_wt]
  simp only [flagLost, updateEntry, List.mem_map]
  constructor
  · rintro ⟨-, ⟨g, mem, rfl⟩, other, row⟩
    by_cases mine : g.key = k
    · rw [if_pos mine] at other
      exact absurd mine other
    · rw [if_neg mine] at row
      exact ⟨g, mem, mine, row⟩
  · rintro ⟨g, mem, other, row⟩
    exact ⟨g, ⟨g, mem, if_neg other⟩, other, row⟩

/-- The cut queue follows the loss of an entry: the row's last one has it forget the row (R114). -/
theorem loseEntry_ct {e : Entry} (found : findEntry s k = some e) (own : k.x0 = some x) :
    ((∃ f ∈ s.wt.track, f.key ≠ k ∧ f.x0 = some x) → (loseEntry cause s k).ct = s.ct) ∧
      ((∀ f ∈ s.wt.track, f.key ≠ k → f.x0 ≠ some x) → (loseEntry cause s k).ct = s.ct.pruned x) := by
  obtain ⟨f, still⟩ := flagLost_found (cause := cause) found
  have rows := flagLost_rows (cause := cause) (k := k) (s := s) (x := x) e
  have ct : (reportLoss cause e (flagLost k s)).ct = s.ct := reportLoss_ct _ _ _
  rw [loseEntry_eq found, removeEntry_ct still]
  refine ⟨fun more => ?_, fun last => ?_⟩
  · rw [entryTaken_ct_row own (rows.2 more), ct]
  · have none' : ∀ f ∈ (reportLoss cause e (flagLost k s)).wt.track, f.key ≠ k → f.x0 ≠ some x := fun f mem other row => by
      obtain ⟨g, mem, other, row⟩ := rows.1 ⟨f, mem, other, row⟩
      exact last g mem other row
    rw [entryTaken_ct_last own none', ct]
    simp only [← prunedBoundary_eq]
    rfl

theorem loseEntries_gone {ks : List EntryKey} (h : ∀ k ∈ ks, findEntry s k = none) : ks.foldl (loseEntry cause) s = s := by
  induction ks with
  | nil => rfl
  | cons k ks ih =>
    rw [List.foldl_cons, loseEntry_none (h k List.mem_cons_self), ih fun j mem => h j (List.mem_cons_of_mem _ mem)]

/-- Once every entry of the row at `x` is lost, the cut queue has forgotten the row (R114). -/
theorem loseEntries_ct {ks : List EntryKey} (own : ∀ k ∈ ks, k.x0 = some x)
    (all : ∀ e ∈ s.wt.track, e.x0 = some x → e.key ∈ ks) (some' : ∃ e ∈ s.wt.track, e.x0 = some x) :
    (ks.foldl (loseEntry cause) s).ct = s.ct.pruned x := by
  induction ks generalizing s with
  | nil =>
    obtain ⟨e, mem, row⟩ := some'
    exact absurd (all e mem row) List.not_mem_nil
  | cons k ks ih =>
    have own' : ∀ j ∈ ks, j.x0 = some x := fun j mem => own j (List.mem_cons_of_mem _ mem)
    rw [List.foldl_cons]
    have left {f : Entry} (mem : f ∈ (loseEntry cause s k).wt.track) : f ∈ s.wt.track ∧ f.key ≠ k := by
      rw [loseEntry_track, List.mem_filter] at mem
      exact ⟨mem.1, by simpa using mem.2⟩
    have all' : ∀ e ∈ (loseEntry cause s k).wt.track, e.x0 = some x → e.key ∈ ks := fun f mem row =>
      (List.mem_cons.1 (all f (left mem).1 row)).resolve_left (left mem).2
    cases found : findEntry s k with
    | none =>
      rw [loseEntry_none found] at all' ⊢
      exact ih own' all' some'
    | some e =>
      obtain ⟨kept, pruned⟩ := loseEntry_ct (cause := cause) found (own k List.mem_cons_self)
      by_cases more : ∃ f ∈ s.wt.track, f.key ≠ k ∧ f.x0 = some x
      · rw [← kept more]
        refine ih own' all' ?_
        obtain ⟨f, mem, other, row⟩ := more
        refine ⟨f, ?_, row⟩
        rw [loseEntry_track]
        exact List.mem_filter.2 ⟨mem, by simpa using other⟩
      · have last : ∀ f ∈ s.wt.track, f.key ≠ k → f.x0 ≠ some x := fun f mem other row => more ⟨f, mem, other, row⟩
        rw [loseEntries_gone, pruned last]
        intro j mem
        rw [findEntry_eq_none]
        rintro f there rfl
        exact last f (left there).1 (left there).2 (own' _ mem)

theorem loseRow_ct (some' : ∃ e ∈ s.wt.track, e.x0 = some x) :
    (loseWhere cause (fun e => decide (e.x0 = some x)) s).ct = s.ct.pruned x := by
  refine loseEntries_ct (fun k mem => ?_) (fun e mem row => ?_) some'
  · obtain ⟨e, lost, rfl⟩ := List.mem_map.1 mem
    exact of_decide_eq_true (List.mem_filter.1 lost).2
  · exact List.mem_map_of_mem (List.mem_filter.2 ⟨mem, decide_eq_true row⟩)

end

/-- A full cut queue makes room by losing the row before of its oldest boundary with no row after (R115). -/
theorem addBoundary_full {b : Word} {s : State} {q : Boundary} {x : Word} (full : s.ct.queue.length = 65)
    (oldest : s.ct.queue.find? (fun q => decide (q.rowAfter = none)) = some q) (before : q.rowBefore = some x)
    (row : ∃ e ∈ s.wt.track, e.x0 = some x) :
    (loseWhere .lost (fun e => decide (e.x0 = some x)) s).ct.queue.length < 65 ∧
      addBoundary b s = boundaryAdded b (loseWhere .lost (fun e => decide (e.x0 = some x)) s) := by
  have after : q.rowAfter = none := of_decide_eq_true (List.find?_some oldest :)
  have room : makeCutRoom s = loseWhere .lost (fun e => decide (e.x0 = some x)) s := by
    have same : (fun b : Boundary => b.rowAfter.isNone) = fun b => decide (b.rowAfter = none) := by
      funext b
      cases b.rowAfter <;> rfl
    rw [makeCutRoom, if_neg (by rw [full]; decide), same, oldest, Option.bind_some, before]
  have fewer : (loseWhere .lost (fun e => decide (e.x0 = some x)) s).ct.queue.length < 65 := by
    rw [loseRow_ct row, ← full]
    exact List.length_filterMap_lt_length_iff_exists.2
      ⟨q, List.mem_of_find?_eq_some oldest, Boundary.pruned_gone after before⟩
  refine ⟨fewer, ?_⟩
  simp only [addBoundary, room]
  exact if_pos fewer

/-! ## The row before (R113) -/

/-- A started row before `b`: its row start and its end. -/
def endsBefore (b : Word) (e : Entry) (x r : Word) : Prop := e.x0 = some x ∧ r = x + lines e.length ∧ reached b r = true

theorem nearerRow_ends {b : Word} {e : Entry} {x r : Word} (h : endsBefore b e x r) (best : Option (Word × Word)) :
    nearerRow b best e = best.elim (some (x, r)) fun p => if (b - r).toNat < (b - p.2).toNat then some (x, r) else some p := by
  obtain ⟨row, rfl, before⟩ := h
  simp only [nearerRow, Entry.endPos, row, Option.map_some]
  rw [if_pos before]
  cases best <;> rfl

theorem nearerRow_other {b : Word} {e : Entry} (h : ∀ x r, ¬endsBefore b e x r) (best : Option (Word × Word)) :
    nearerRow b best e = best := by
  unfold nearerRow Entry.endPos
  cases row : e.x0 with
  | none => rfl
  | some x => exact if_neg fun before => h x _ ⟨row, rfl, before⟩

theorem endsBefore_unique {b : Word} {e : Entry} {x r y t : Word} (h : endsBefore b e x r) (g : endsBefore b e y t) :
    y = x ∧ t = r := by
  obtain ⟨row, rfl, -⟩ := h
  obtain ⟨row', rfl, -⟩ := g
  obtain rfl := Option.some.inj (row'.symm.trans row)
  exact ⟨rfl, rfl⟩

/-- What the search for the nearest row before `b` has found in a list of entries, `best` being found ahead of it. -/
structure Nearest (b : Word) (best : Option (Word × Word)) (l : List Entry) (found : Option (Word × Word)) : Prop where
  origin : ∀ x r, found = some (x, r) → best = some (x, r) ∨ ∃ e ∈ l, endsBefore b e x r
  least_best : ∀ y t, best = some (y, t) → ∃ x r, found = some (x, r) ∧ (b - r).toNat ≤ (b - t).toNat
  least : ∀ e ∈ l, ∀ y t, endsBefore b e y t → ∃ x r, found = some (x, r) ∧ (b - r).toNat ≤ (b - t).toNat

theorem nearerRow_nearest (b : Word) (best : Option (Word × Word)) (e : Entry) :
    Nearest b best [e] (nearerRow b best e) := by
  by_cases ends : ∃ x r, endsBefore b e x r
  · obtain ⟨x, r, ends⟩ := ends
    have only {f : Entry} {y t : Word} (mem : f ∈ [e]) (g : endsBefore b f y t) : y = x ∧ t = r := by
      obtain rfl := List.mem_singleton.1 mem
      exact endsBefore_unique ends g
    have here : ∃ f ∈ [e], endsBefore b f x r := ⟨e, List.mem_cons_self, ends⟩
    rw [nearerRow_ends ends]
    obtain _ | ⟨y, t⟩ := best
    · refine ⟨fun x' r' h => .inr ?_, nofun, fun f mem y t g => ⟨x, r, rfl, by rw [(only mem g).2]⟩⟩
      obtain ⟨rfl, rfl⟩ := Prod.mk.inj (Option.some.inj h)
      exact here
    · rw [Option.elim_some]
      split
      next nearer =>
        refine ⟨fun x' r' h => .inr ?_, fun y' t' h => ?_, fun f mem y t g => ⟨x, r, rfl, by rw [(only mem g).2]⟩⟩
        · obtain ⟨rfl, rfl⟩ := Prod.mk.inj (Option.some.inj h)
          exact here
        · obtain ⟨rfl, rfl⟩ := Prod.mk.inj (Option.some.inj h)
          exact ⟨x, r, rfl, nearer.le⟩
      next further =>
        exact ⟨fun _ _ => .inl, fun y' t' h => ⟨y', t', h, le_rfl⟩,
          fun f mem _ _ g => ⟨y, t, rfl, by rw [(only mem g).2]; exact Nat.le_of_not_lt further⟩⟩
  · rw [nearerRow_other fun x r h => ends ⟨x, r, h⟩]
    refine ⟨fun _ _ => .inl, fun y t h => ⟨y, t, h, le_rfl⟩, fun f mem y t g => ?_⟩
    obtain rfl := List.mem_singleton.1 mem
    exact absurd ⟨y, t, g⟩ ends

theorem foldl_nearest (b : Word) (l : List Entry) (best : Option (Word × Word)) :
    Nearest b best l (l.foldl (nearerRow b) best) := by
  induction l generalizing best with
  | nil => exact ⟨fun x r h => .inl h, fun y t h => ⟨y, t, h, le_rfl⟩, fun e mem => absurd mem List.not_mem_nil⟩
  | cons e l ih =>
    have first := nearerRow_nearest b best e
    have rest := ih (nearerRow b best e)
    have passed {t : Word} (h : ∃ x r, nearerRow b best e = some (x, r) ∧ (b - r).toNat ≤ (b - t).toNat) :
        ∃ x r, l.foldl (nearerRow b) (nearerRow b best e) = some (x, r) ∧ (b - r).toNat ≤ (b - t).toNat := by
      obtain ⟨x, r, found, near⟩ := h
      obtain ⟨x', r', found', near'⟩ := rest.least_best x r found
      exact ⟨x', r', found', near'.trans near⟩
    rw [List.foldl_cons]
    refine ⟨fun x r found => ?_, fun y t h => passed (first.least_best y t h), fun f mem y t g => ?_⟩
    · obtain h | ⟨f, mem, ends⟩ := rest.origin x r found
      · obtain h | ⟨f, mem, ends⟩ := first.origin x r h
        · exact .inl h
        · exact .inr ⟨f, List.mem_cons.2 (.inl (List.mem_singleton.1 mem)), ends⟩
      · exact .inr ⟨f, List.mem_cons_of_mem _ mem, ends⟩
    · obtain rfl | mem := List.mem_cons.1 mem
      · exact passed (first.least f List.mem_cons_self y t g)
      · exact rest.least f mem y t g

section
variable {track : List Entry} {held : List Boundary} {b x : Word}

theorem rowBefore_eq_some : rowBefore track held b = some x ↔
    ∃ r, track.foldl (nearerRow b) none = some (x, r) ∧ ∀ h ∈ held, reached h.pos r = false := by
  unfold rowBefore
  split
  next x' r found =>
    rw [found]
    by_cases blocked : held.any (fun h => reached h.pos r) = true
    · rw [if_pos blocked]
      simp only [reduceCtorEq, Option.some.injEq, Prod.mk.injEq, false_iff]
      rintro ⟨r, ⟨-, rfl⟩, free⟩
      obtain ⟨h, mem, at_⟩ := List.any_eq_true.1 blocked
      rw [free h mem] at at_
      cases at_
    · rw [if_neg blocked]
      simp only [Option.some.injEq, Prod.mk.injEq]
      constructor
      · rintro rfl
        exact ⟨r, ⟨rfl, rfl⟩, by simpa using blocked⟩
      · rintro ⟨-, ⟨rfl, -⟩, -⟩
        rfl
  next missing => simp [missing]

theorem rowBefore_eq_none : rowBefore track held b = none ↔
    ∀ x r, track.foldl (nearerRow b) none = some (x, r) → ∃ h ∈ held, reached h.pos r = true := by
  rw [Option.eq_none_iff_forall_ne_some]
  simp only [ne_eq, rowBefore_eq_some, not_exists, not_and, not_forall, Bool.not_eq_false, exists_prop]

end

/-- The row before is the started row whose end is the greatest not beyond the boundary (R113). -/
theorem rowBefore_spec (track : List Entry) (held : List Boundary) (b x : Word) :
    let ends (e : Entry) (y : Word) : Prop := e.x0 = some y ∧ reached b (y + lines e.length) = true
    (rowBefore track held b = some x → ∃ e ∈ track, ends e x ∧
      (∀ f ∈ track, ∀ y, ends f y → (b - (x + lines e.length)).toNat ≤ (b - (y + lines f.length)).toNat) ∧
      ∀ h ∈ held, reached h.pos (x + lines e.length) = false) ∧
    ((∀ f ∈ track, ∀ y, ¬ends f y) → rowBefore track held b = none) ∧
    ∀ e ∈ track, ∀ y, ends e y →
      (∀ f ∈ track, ∀ z, ends f z → (b - (y + lines e.length)).toNat ≤ (b - (z + lines f.length)).toNat) →
      ((∃ h ∈ held, reached h.pos (y + lines e.length) = true) → rowBefore track held b = none) ∧
        ((∀ h ∈ held, reached h.pos (y + lines e.length) = false) →
          ∃ f ∈ track, ∃ z, ends f z ∧ z + lines f.length = y + lines e.length ∧ rowBefore track held b = some z) := by
  intro ends
  have search := foldl_nearest b track none
  have comes {x r : Word} (found : track.foldl (nearerRow b) none = some (x, r)) :
      ∃ e ∈ track, ends e x ∧ x + lines e.length = r := by
    obtain h | ⟨e, mem, row, rfl, before⟩ := search.origin x r found
    · cases h
    · exact ⟨e, mem, ⟨row, before⟩, rfl⟩
  have near {f : Entry} {y : Word} (mem : f ∈ track) (h : ends f y) := search.least f mem y _ ⟨h.1, rfl, h.2⟩
  refine ⟨fun named => ?_, fun no => ?_, fun e mem y at_ closest => ?_⟩
  · obtain ⟨r, found, free⟩ := rowBefore_eq_some.1 named
    obtain ⟨e, mem, at_, rfl⟩ := comes found
    refine ⟨e, mem, at_, fun f mem' y h => ?_, free⟩
    obtain ⟨x', r', found', le⟩ := near mem' h
    obtain ⟨rfl, rfl⟩ := Prod.mk.inj (Option.some.inj (found'.symm.trans found))
    exact le
  · refine rowBefore_eq_none.2 fun x r found => ?_
    obtain ⟨e, mem, at_, -⟩ := comes found
    exact absurd at_ (no e mem x)
  · obtain ⟨z, r, found, le⟩ := near mem at_
    obtain ⟨f, mem', at_', rfl⟩ := comes found
    have same : z + lines f.length = y + lines e.length :=
      (BitVec.sub_right_inj b).1 (BitVec.eq_of_toNat_eq (le_antisymm le (closest f mem' z at_')))
    refine ⟨fun ⟨h, held', blocks⟩ => rowBefore_eq_none.2 fun x r found' => ?_, fun free => ⟨f, mem', z, at_', same, ?_⟩⟩
    · obtain ⟨rfl, rfl⟩ := Prod.mk.inj (Option.some.inj (found.symm.trans found'))
      exact ⟨h, held', by rw [same]; exact blocks⟩
    · exact rowBefore_eq_some.2 ⟨_, found, by rw [same]; exact free⟩

end Sys2Proof.Machine
end

section
/-! CLAIMS. Row ends at a paper-out request, at an empty loop and at a full cut queue (R66, R67, R70, R74, R113, R115,
R166). -/

namespace Sys2Proof.Machine

/-! ## A standing head through the pause -/

/-- The head stands: nothing exposes and nothing is sent to it. -/
def HeadStands (s : State) : Prop := s.ee.expo = none ∧ s.ee.drive = []

section
variable {s : State}

theorem furtherFault_stands {c : FaultCause} (h : HeadStands s) : HeadStands (furtherFault c s) := by
  have stop : HeadStands (if s.mc.convStop then s else stopConveyor s) := by
    split
    · exact h
    · unfold HeadStands
      rw [show (stopConveyor s).ee = s.ee by simp]
      exact h
  cases c with
  | coverOpen =>
    rw [furtherFault_cover, HeadStands, show ∀ t, (post .fault 1 t).ee = t.ee by simp]
    exact stop
  | jamConveyor => exact stop
  | jamWeb => exact h
  | marksLost => exact h
  | noFault => exact h

theorem takeCondition_stands {c : FaultCause} (h : HeadStands s) : HeadStands (takeCondition c s) := by
  have faulted : HeadStands (enterFault c s) := by
    rw [HeadStands, enterFault_ee]
    exact ⟨rfl, rfl⟩
  cases state : s.mc.state with
  | running => rwa [takeCondition_live (.inl state)]
  | pausing => rwa [takeCondition_live (.inr (.inl state))]
  | paused => rwa [takeCondition_live (.inr (.inr state))]
  | faulted => rw [takeCondition_faulted state]; exact furtherFault_stands h
  | cleared => rwa [takeCondition_idle (.inl state)]
  | ready => rwa [takeCondition_idle (.inr state)]

theorem judgeConditions_stands (h : HeadStands s) : HeadStands (judgeConditions s) := by
  unfold judgeConditions
  induction faultCauses generalizing s with
  | nil => exact h
  | cons c l ih =>
    rw [List.foldl_cons]
    split
    · exact ih (takeCondition_stands h)
    · exact ih h

theorem enterPausing_stands {c : PauseCause} (h : HeadStands s) : HeadStands (enterPausing c s) := by
  cases d : drained s with
  | false => rw [enterPausing_undrained d]; exact h
  | true =>
    rw [enterPausing_drained d, enterPaused_judged]
    refine judgeConditions_stands ?_
    simp [HeadStands, pausedEntered, askStatus, continuityFor, blanksRemoved_frame, pausedFor, pausingFor, h.1]

theorem judgePaperRequest_ended (asked : s.mc.paperOutReq = true) (ended : s.wt.paperEnd = true) :
    judgePaperRequest s = enterPausing .paperOut s := by
  simp only [judgePaperRequest, asked, ended, Bool.not_true, Bool.false_eq_true, if_false, if_true]

theorem judgePaperRequest_back (asked : s.mc.paperOutReq = true) (back : s.wt.paperEnd = false) :
    judgePaperRequest s = { s with mc := { s.mc with paperOutReq := false } } := by
  simp only [judgePaperRequest, asked, back, Bool.not_true, Bool.false_eq_true, if_false]

theorem judgePaperRequest_stands (h : HeadStands s) : HeadStands (judgePaperRequest s) := by
  unfold judgePaperRequest
  split
  · exact h
  · split
    · exact enterPausing_stands h
    · exact h

end

/-! ## The track through the judgements of a row's end -/

/-- Every entry of the track is where it was, under its key and with its length. -/
def Relabelled (s t : State) : Prop :=
  ∃ g : Entry → Entry, t.wt.track = s.wt.track.map g ∧ ∀ e, (g e).key = e.key ∧ (g e).length = e.length

section
variable {s t u : State}

theorem Relabelled.of_wt (h : t.wt = s.wt) : Relabelled s t := ⟨id, by rw [h, List.map_id], fun _ => ⟨rfl, rfl⟩⟩

theorem Relabelled.trans (h : Relabelled s t) (g : Relabelled t u) : Relabelled s u := by
  obtain ⟨f, track, keeps⟩ := h
  obtain ⟨g, track', keeps'⟩ := g
  exact ⟨g ∘ f, by rw [track', track, List.map_map],
    fun e => ⟨(keeps' _).1.trans (keeps e).1, (keeps' _).2.trans (keeps e).2⟩⟩

theorem updateEntry_relabelled {k : EntryKey} {f : Entry → Entry} (keeps : ∀ e, (f e).key = e.key ∧ (f e).length = e.length) :
    Relabelled s (updateEntry k f s) := by
  refine ⟨_, rfl, fun e => ?_⟩
  split
  · exact keeps e
  · exact ⟨rfl, rfl⟩

theorem judgeClip_relabelled (x0 : Word) (l : Lane) (p : Option PrintRun) : Relabelled s (judgeClip x0 l p s) := by
  unfold judgeClip
  split
  · exact updateEntry_relabelled fun _ => ⟨rfl, rfl⟩
  · exact .of_wt rfl

theorem judgeUnderrun_relabelled (x0 : Word) (l : Lane) : Relabelled s (judgeUnderrun x0 l s) := by
  cases found : findEntry s (printKey x0 l) with
  | none =>
    refine .of_wt ?_
    simp only [judgeUnderrun, found]
  | some e =>
    refine Relabelled.trans (t := if e.flags.underrun && !e.flags.withdrawn then
      updateEntry (printKey x0 l) (fun e => { e with flags := { e.flags with reject := true } }) s else s) ?_
        (.of_wt (judgeUnderrun_wt found))
    split
    · exact updateEntry_relabelled fun _ => ⟨rfl, rfl⟩
    · exact .of_wt rfl

theorem judgePrints_relabelled (r : ExposingRow) : Relabelled s (judgePrints r s) :=
  ((judgeClip_relabelled _ _ _).trans (judgeClip_relabelled _ _ _)).trans
    ((judgeUnderrun_relabelled _ _).trans (judgeUnderrun_relabelled _ _))

theorem endEntries_relabelled (x0 : Word) : Relabelled s (endEntries x0 s) := by
  rw [endEntries_eq]
  refine ⟨_, rfl, fun e => ?_⟩
  split <;> exact ⟨rfl, rfl⟩

theorem rowHandedOn_relabelled (r : ExposingRow) : Relabelled s (rowHandedOn r s) := by
  unfold rowHandedOn
  refine Relabelled.trans ?_ ((endEntries_relabelled _).trans (.of_wt rfl))
  split
  · exact judgePrints_relabelled r
  · exact .of_wt rfl

theorem Relabelled.length (h : Relabelled s t) : t.wt.track.length = s.wt.track.length := by
  obtain ⟨g, track, -⟩ := h
  rw [track, List.length_map]

theorem Relabelled.kinds (h : Relabelled s t) (k : RowKind) :
    (∀ e ∈ t.wt.track, e.kind = k) ↔ ∀ e ∈ s.wt.track, e.kind = k := by
  obtain ⟨g, track, keeps⟩ := h
  rw [track, List.forall_mem_map]
  exact forall₂_congr fun e _ => by rw [show (g e).kind = e.kind from congrArg EntryKey.kind (keeps e).1]

theorem Relabelled.lastStarted {e : Entry} (h : Relabelled s t) (last : lastStarted s = some e) :
    ∃ f, Machine.lastStarted t = some f ∧ f.key = e.key ∧ f.length = e.length := by
  obtain ⟨g, track, keeps⟩ := h
  have started : (fun f : Entry => f.x0.isSome) ∘ g = fun f => f.x0.isSome :=
    funext fun f => congrArg (fun k => Option.isSome (EntryKey.x0 k)) (keeps f).1
  refine ⟨g e, ?_, keeps e⟩
  rw [Machine.lastStarted] at last ⊢
  rw [track, List.filter_map, started, List.getLast?_map, last]
  rfl

end

theorem rowHandedOn_sound (r : ExposingRow) (s : State) : Sound s (rowHandedOn r s) := by
  unfold rowHandedOn
  refine Sound.trans ?_ ((endEntries_sound _ _).trans (endRow_sound _))
  split
  · exact judgePrints_sound r s
  · exact .refl s

/-! ## The paper-out request (R166) -/

theorem judgePaperRequest_fixed (s : State) : Fixed s (judgePaperRequest s) := {}

theorem keepLoop_fixed (s : State) : Fixed s (keepLoop s) := {}

/-- The paper-out request taken where the drain is not complete (R166). -/
theorem judgePaperRequest_pausing {s : State} (asked : s.mc.paperOutReq = true) (ended : s.wt.paperEnd = true)
    (busy : (∃ e ∈ s.wt.track, e.kind ≠ .blank) ∨ s.su.conveyor ≠ []) :
    judgePaperRequest s = pausingFor .paperOut s := by
  rw [judgePaperRequest_ended asked ended, enterPausing_undrained]
  refine Bool.eq_false_iff.2 fun d => ?_
  obtain ⟨-, blank, empty⟩ := (drained_iff s).1 d
  obtain ⟨e, mem, other⟩ | carries := busy
  · exact other (blank e mem)
  · exact carries empty

/-- The paper-out request that completes the drain at once (R166, R167). -/
theorem judgePaperRequest_paused {s : State} (asked : s.mc.paperOutReq = true) (ended : s.wt.paperEnd = true)
    (d : drained s = true) (clear : noCondition s) :
    judgePaperRequest s = pausedEntered (pausingFor .paperOut s) := by
  rw [judgePaperRequest_ended asked ended, enterPausing_drained d]
  exact enterPaused_clear (s := pausingFor .paperOut s) d (noCondition_congr rfl rfl clear)

/-- A row's end with a paper-out request pending: the first part of O37. -/
theorem rowEnd_asked {s : State} {r : ExposingRow} (head : s.ee.expo = some (.row r))
    (past : r.length ≤ (s.wt.x - r.x0).toNat) (away : s.wt.x ≠ s.wt.y) (asked : s.mc.paperOutReq = true)
    (canonical : StoreCanonical s) :
    ∃ t, exec (if r.kind = .print then .rowEnd else .calibOrBlankRowEnd) s = .next t ∧ t.ee.expo = none ∧ t.ee.drive = [] ∧
      lineKept s t ∧
      (s.wt.paperEnd = false →
        t.mc = { s.mc with paperOutReq := false } ∧ t.ee.continuity = true) ∧
      (s.wt.paperEnd = true → ((∃ e ∈ s.wt.track, e.kind ≠ .blank) ∨ s.su.conveyor ≠ []) →
        t.mc = { s.mc with state := .pausing, pauseCause := .paperOut, paperOutReq := false } ∧
          t.ee.continuity = true ∧ Memory.read8 t.store 0x200 = 3 ∧ Memory.read8 t.store 0x202 = 2) ∧
      (s.wt.paperEnd = true → (∀ e ∈ s.wt.track, e.kind = .blank) → s.su.conveyor = [] → noCondition s →
        t.mc = { s.mc with state := .paused, pauseCause := .paperOut, paperOutReq := false } ∧
          t.ee.continuity = false ∧ t.wt.track = [] ∧ told .paused 2 t ∧ Memory.read8 t.store 0x200 = 4) := by
  have run := exec_rowEnds head past
  let u : State := { s with work := {} }
  let v := rowHandedOn r u
  obtain ⟨mc, -, ct, conveyor, ee, -, paperEnd, -⟩ := rowHandedOn_kept r u
  have fixed := rowHandedOn_fixed r u
  have begun : Fixed s u := by constructor <;> rfl
  have judged := judgePaperRequest_fixed v
  rw [keepLoop_kept (blankDue_away (by rw [judged.x, judged.y, fixed.x, fixed.y]; exact away))] at run
  have mc : v.mc = s.mc := mc
  have asked : v.mc.paperOutReq = true := by rw [mc]; exact asked
  have stands : HeadStands v := by rw [HeadStands, ee]; exact ⟨rfl, rfl⟩
  have mark : v.ee.continuity = true := by rw [ee]; rfl
  have wf : StoreCanonical v := (rowHandedOn_sound r u).store canonical
  have kinds : (∀ e ∈ v.wt.track, e.kind = .blank) ↔ ∀ e ∈ s.wt.track, e.kind = .blank :=
    (rowHandedOn_relabelled (s := u) r).kinds .blank
  obtain ⟨expo, drive⟩ := judgePaperRequest_stands stands
  refine ⟨settle (judgePaperRequest v), run, ?_, ?_, (begun.trans (fixed.trans (judged.trans (settle_fixed _)))).lineKept,
    fun back => ?_, fun ended busy => ?_, fun ended blank empty clear => ?_⟩
  · simp only [settle_frame, expo]
  · simp only [settle_frame, drive]
  · rw [judgePaperRequest_back asked (paperEnd.trans back)]
    simp only [settle_frame]
    exact ⟨by rw [mc], mark⟩
  · have busy : (∃ e ∈ v.wt.track, e.kind ≠ .blank) ∨ v.su.conveyor ≠ [] := by
      rw [conveyor]
      refine busy.imp (fun h => ?_) id
      by_contra none
      push Not at none
      obtain ⟨e, mem, other⟩ := h
      exact other (kinds.1 none e mem)
    rw [judgePaperRequest_pausing asked (paperEnd.trans ended) busy]
    obtain ⟨state, -, cause⟩ := settle_status (s := pausingFor .paperOut v) wf rfl
    simp only [settle_frame]
    exact ⟨by simp [pausingFor, mc], mark, state, cause⟩
  · have d : drained v = true := (drained_iff v).2 ⟨stands.1, kinds.2 blank, by rw [conveyor]; exact empty⟩
    have clear : noCondition v := noCondition_congr fixed.pins (congrArg CtState.misses ct) clear
    rw [judgePaperRequest_paused asked (paperEnd.trans ended) d clear]
    let w := pausedEntered (pausingFor .paperOut v)
    have cause : drainCause (pausingFor .paperOut v) = .paperOut := if_pos (paperEnd.trans ended)
    have mcw : w.mc = { s.mc with state := .paused, pauseCause := .paperOut, paperOutReq := false } := by
      simp only [w, pausedEntered_mc, cause]
      simp [pausingFor, mc]
    obtain ⟨track, continuity, -, -, -, status, -⟩ := pausedEntered_fields (s := pausingFor .paperOut v) d
    have still : w.mc.state ≠ .running ∨ w.work.attempt = false := .inl (by simp [mcw])
    have wfw : StoreCanonical w := ((pausingFor_sound .paperOut v).trans (pausedEntered_sound _)).store wf
    refine ⟨by simp only [settle_frame]; exact mcw, ?_, ?_, ?_, ?_⟩
    · simp only [settle_frame, continuity, cause]
      simp
    · rw [(settle_still_frame still).2.2.2.1]
      exact track
    · have posted : told .paused (BitVec.ofNat 32 (drainCause (pausingFor .paperOut v)).code) w := post_told .paused _ _
      rw [cause] at posted
      exact (settle_sound w).told _ _ posted
    · obtain ⟨state, -⟩ := settle_status (s := w) wfw status
      rw [state, mcw]
      rfl

/-- The end of a slot row's lead-in with a paper-out request pending (R70, R166). -/
theorem leadInEnd_asked {s : State} {n : Nat} (four : 4 ≤ n) (head : s.ee.expo = some (.leadIn n false))
    (away : s.wt.x ≠ s.wt.y) (asked : s.mc.paperOutReq = true) :
    let ended : EeState := { s.ee with expo := none, continuity := true, drive := [] }
    (s.wt.paperEnd = false → exec .leadInEnd s = .next (settle { s with
      ee := ended, mc := { s.mc with paperOutReq := false }, work := {} })) ∧
    (s.wt.paperEnd = true → ((∃ e ∈ s.wt.track, e.kind ≠ .blank) ∨ s.su.conveyor ≠ []) →
      exec .leadInEnd s = .next (settle { s with
        ee := ended, work := { status := true }
        mc := { s.mc with state := .pausing, pauseCause := .paperOut, paperOutReq := false } })) := by
  intro ended
  let u : State := { s with work := {} }
  have run : exec .leadInEnd s = .next (settle (keepLoop (judgePaperRequest (leadInPassed u)))) := by
    have whole : exec .leadInEnd s = .next (settle (endLeadIn u)) :=
      congrArg Host.Outcome.next (eventWhen_due (leadInEnded_of head four))
    rw [whole, endLeadIn_eq, leadInForBlank_eq (s := u) head, if_neg Bool.false_ne_true]
  have judged := judgePaperRequest_fixed (leadInPassed u)
  rw [keepLoop_kept (blankDue_away (by rw [judged.x, judged.y]; exact away))] at run
  refine ⟨fun back => ?_, fun ended busy => ?_⟩
  · rw [run, judgePaperRequest_back (s := leadInPassed u) asked back]
    rfl
  · rw [run, judgePaperRequest_pausing (s := leadInPassed u) asked ended busy]
    rfl

/-- The end of a row with the loop empty: the slot row's turn, a BLANK row, or the extension of the one before (R66, R67,
R74). -/
theorem rowEnd_empty {s : State} {r : ExposingRow} (head : s.ee.expo = some (.row r))
    (past : r.length ≤ (s.wt.x - r.x0).toNat) (empty : s.wt.x = s.wt.y)
    (runs : s.mc.state = .running ∨ s.mc.state = .pausing) (quiet : s.mc.paperOutReq = false) :
    let slotGoes : Prop := ∃ p, s.rc.slot = some p ∧ s.ee.hot = false ∧ p.length ≤ s.cfg.loopMax ∧ s.wt.track.length < 64
    ∃ t, exec (if r.kind = .print then .rowEnd else .calibOrBlankRowEnd) s = .next t ∧ t.mc = s.mc ∧ lineKept s t ∧
      t.ee.continuity = true ∧
      (slotGoes → t.ee.expo = none) ∧
      (¬slotGoes → s.wt.track.length < 64 → s.ct.queue.length < 65 →
        ∃ q, t.ee.expo = some (.row q) ∧ q.kind = .blank ∧ q.x0 = s.wt.x ∧ q.length = s.cfg.minPiece ∧
          t.ct.queue.length = s.ct.queue.length + 1 ∧ blankRowStarted s t ∧
          ∃ e ∈ t.wt.track, e.kind = .blank ∧ e.x0 = some s.wt.x ∧ e.stage = .exposing ∧ e.length = s.cfg.minPiece) ∧
      (∀ e x, 64 ≤ s.wt.track.length → (s.wt.track.filter (·.x0.isSome)).getLast? = some e → e.kind = .blank →
        e.x0 = some x →
        t.ee.expo = some (.row { kind := .blank, x0 := x, length := e.length + s.cfg.minPiece, ctx := none }) ∧
          t.ct = s.ct ∧
          ∀ f ∈ t.wt.track, f.key = e.key → f.length = e.length + s.cfg.minPiece ∧ f.stage = .exposing) := by
  intro slotGoes
  have run := exec_rowEnds head past
  let u : State := { s with work := {} }
  let v := rowHandedOn r u
  obtain ⟨mc, ca, ct, -, ee, slot, -, -⟩ := rowHandedOn_kept r u
  have fixed : Fixed s v := Fixed.trans (t := u) (by constructor <;> rfl) (rowHandedOn_fixed r u)
  have labels : Relabelled s v := rowHandedOn_relabelled (s := u) r
  have cfg : v.cfg = s.cfg := by rw [State.cfg, fixed.conf, State.cfg]
  have mc : v.mc = s.mc := mc
  have ct : v.ct = s.ct := ct
  have count := labels.length
  have standing : v.ee.expo = none := by rw [ee]; rfl
  have mark : v.ee.continuity = true := by rw [ee]; rfl
  have here : v.wt.x = v.wt.y := by rw [fixed.x, fixed.y, empty]
  have goes : slotCanGo v = true ↔ slotGoes := by
    have none' : (v.wt.x - v.wt.y).toNat = 0 := (loopFill_eq_zero v).2 here
    rw [slotCanGo, mark, if_pos rfl, slotCredit_iff, none', count, cfg, mc, show v.rc.slot = s.rc.slot from slot,
      show v.ee.hot = s.ee.hot by rw [ee]; rfl]
    constructor
    · rintro ⟨-, -, cool, room, p, there, fits⟩
      exact ⟨p, there, cool, by omega, room⟩
    · rintro ⟨p, there, cool, fits, room⟩
      exact ⟨runs, standing, cool, room, p, there, by omega⟩
  have due (h : ¬slotGoes) : blankDue v = true :=
    (blankDue_iff v).2 ⟨standing, by rw [mc]; exact runs, here, Bool.eq_false_iff.2 (mt goes.1 h)⟩
  rw [judgePaperRequest_none (show v.mc.paperOutReq = false by rw [mc]; exact quiet)] at run
  refine ⟨settle (keepLoop v), run, ?_, (fixed.trans ((keepLoop_fixed v).trans (settle_fixed _))).lineKept, ?_,
    fun turn => ?_, fun turn room few => ?_, fun e x full last kind at_ => ?_⟩
  · simp only [settle_frame, keepLoop_frame, mc]
  · simp only [settle_frame, keepLoop_frame, mark]
  · rw [keepLoop_kept (Bool.eq_false_iff.2 fun d => ?_)]
    · simp only [settle_frame, standing]
    · obtain ⟨-, -, -, stays⟩ := (blankDue_iff v).1 d
      rw [goes.2 turn] at stays
      cases stays
  · rw [keepLoop_started (due turn) (by rwa [count]) mark]
    have few : (blankAdded v).ct.queue.length < 65 := by
      change v.ct.queue.length < 65
      rwa [ct]
    have same : SameHead s (blankAdded v) :=
      ⟨fixed.x, by rw [show (blankAdded v).ee = v.ee from rfl, ee]; rfl, by rw [show (blankAdded v).ee = v.ee from rfl, ee]; rfl,
        ca, fixed.conf, fixed.lineClock, (rowHandedOn_sound r u).store⟩
    obtain ⟨q, queue, -⟩ := startBlankRow_queue few
    refine ⟨blankRun (blankAdded v), by simp only [settle_frame, startBlankRow_expo], rfl, fixed.x,
      congrArg Conf.minPiece cfg, ?_, blankRow_started same few, blankEntry v,
      (settle_appended _).mem (startBlankRow_entry few), rfl, congrArg some fixed.x, rfl, congrArg Conf.minPiece cfg⟩
    rw [show (settle (startBlankRow (blankAdded v))).ct = (startBlankRow (blankAdded v)).ct by simp, queue,
      List.length_append]
    exact congrArg (fun c => c.queue.length + 1) ct
  · have turn : ¬slotGoes := fun ⟨_, _, _, _, room⟩ => by omega
    obtain ⟨f, last', key, length⟩ := labels.lastStarted last
    have kind' : f.kind = .blank := (congrArg EntryKey.kind key).trans kind
    have at' : f.x0 = some x := (congrArg EntryKey.x0 key).trans at_
    rw [keepLoop_extended (due turn) (by rwa [count]) last' kind' at']
    refine ⟨?_, ?_, fun g mem same => ?_⟩
    · simp only [settle_frame, blankExtended, setExpo, length, cfg]
    · simp only [settle_frame]
      exact ct
    · have started : g.x0.isSome := by
        rw [show g.x0 = some x from (congrArg EntryKey.x0 same).trans at_]
        rfl
      have ends := blankExtended_entries ((settle_appended _).started mem started) (same.trans key.symm)
      rwa [length, cfg] at ends

/-- Settles O37. -/
theorem rowEndsAtRequestsAndEmptyLoop : Obligations.RowEndsAtRequestsAndEmptyLoop := by
  refine ⟨fun s r head past away _ asked canonical => rowEnd_asked head past away asked canonical,
    fun s n four head away _ asked => leadInEnd_asked four head away asked,
    fun s r head past empty runs quiet => rowEnd_empty head past empty runs quiet, fun b s => ?_, fun track held b x => ?_⟩
  · intro added
    refine ⟨fun room => addBoundary_room room b, fun q x full oldest before row => ?_⟩
    obtain ⟨fewer, whole⟩ := addBoundary_full (b := b) full oldest before row
    rw [whole]
    refine ⟨rfl, fun e mem => ?_, ?_, fun p mem => ?_⟩
    · obtain ⟨there, other⟩ := mem_loseWhere_kept mem
      exact ⟨there, of_decide_eq_false other⟩
    · rw [boundaryAdded, List.length_append]
      exact fewer
    · obtain old | new := List.mem_append.1 mem
      · rw [loseRow_ct row] at old
        obtain ⟨h, -, kept⟩ := List.mem_filterMap.1 old
        exact .inr (Boundary.pruned_unnamed kept)
      · rw [List.mem_singleton.1 new]
        exact .inl rfl
  · exact rowBefore_spec track held b x

end Sys2Proof.Machine
end

section
/-! CLAIMS. The section resets (R78, R124, R143, R172). -/

namespace Sys2Proof.Machine

theorem takeSectionReset_illegal {w : Word} {s : State}
    (h : s.mc.state = .cleared ∨ s.mc.state = .running ∨ s.mc.state = .pausing) :
    takeSectionReset w s = refuse .illegalState s := by
  obtain h | h | h := h <;> rw [takeSectionReset, h]

/-- What a SECTION_RESET makes of the part, by its section (R78, R124, R143). -/
def Section.reset : Section → State → State
  | .exposure => resetExposure
  | .cutter => resetCutter
  | .sorter => resetSorter

theorem takeSectionReset_section {w : Word} {s : State} {x : Section}
    (h : s.mc.state = .ready ∨ s.mc.state = .paused ∨ s.mc.state = .faulted) (named : sectionOf w = some x) :
    takeSectionReset w s = done (x.reset s) := by
  cases x <;> obtain h | h | h := h <;> simp only [takeSectionReset, h, named, Section.reset]

/-- The event of a SECTION_RESET, by what its taking answers. -/
theorem exec_sectionReset {i : Instr} {w : Word} {s v : State} {rc : ReplyCode} (h : StoreCanonical s) (idle : s.cu.job = none)
    (e : exec i s = .next (event (posted1 .sectionReset w) s))
    (taken : takeSectionReset w (offered1 .sectionReset w s) = .reply rc 0 v) :
    exec i s = .next (replied .sectionReset rc 0 v) := by
  have owner (v : Word) (u : State) : runCommand .sectionReset w v u = takeSectionReset w u := rfl
  rw [e, event_posted1 .sectionReset w h idle, owner, taken]
  rfl

/-! ## CUTTER (R124) -/

/-- A boundary found afresh, every entry of the queue ahead of it judged (R124). -/
def freshBoundary (s : State) (kept : List Boundary) (b : Boundary) : Boundary :=
  { pos := b.pos, rowAfter := if rowInTable s b.pos then some b.pos else none, rowBefore := rowBefore s.wt.track kept b.pos }

theorem rebuildBoundary_eq (s : State) (kept : List Boundary) (b : Boundary) : rebuildBoundary s kept b =
    if (freshBoundary s kept b).kept then kept ++ [freshBoundary s kept b] else kept := rfl

/-- A boundary of a queue set up afresh (R124). -/
def Boundary.Fresh (b : Boundary) : Prop :=
  b.mark = .pending ∧ b.delta = 0 ∧ b.window = .ahead ∧ b.kept = true ∧ (b.rowAfter = some b.pos ∨ b.rowAfter = none)

theorem rebuilt_fresh (s : State) (l kept : List Boundary) (h : ∀ b ∈ kept, b.Fresh) :
    ∀ b ∈ l.foldl (rebuildBoundary s) kept, b.Fresh := by
  induction l generalizing kept with
  | nil => exact h
  | cons b l ih =>
    rw [List.foldl_cons]
    refine ih _ fun q mem => ?_
    rw [rebuildBoundary_eq] at mem
    split at mem
    next keep =>
      obtain old | new := List.mem_append.1 mem
      · exact h q old
      · rw [List.mem_singleton.1 new]
        refine ⟨rfl, rfl, rfl, keep, ?_⟩
        by_cases row : rowInTable s b.pos = true
        · exact .inl (if_pos row)
        · exact .inr (if_neg row)
    · exact h q mem

theorem rebuilt_sublist (s : State) (l kept : List Boundary) :
    ((l.foldl (rebuildBoundary s) kept).map (·.pos)).Sublist ((kept ++ l).map (·.pos)) := by
  induction l generalizing kept with
  | nil => rw [List.append_nil]; exact .refl _
  | cons b l ih =>
    rw [List.foldl_cons]
    refine (ih _).trans ?_
    rw [rebuildBoundary_eq]
    split
    · simp only [List.map_append, List.append_assoc, List.map_cons, List.map_nil]
      exact .refl _
    · simp only [List.map_append, List.map_cons]
      exact (List.sublist_cons_self _ _).append_left _

theorem rowInTable_iff (s : State) (x : Word) : rowInTable s x = true ↔ ∃ e ∈ s.wt.track, e.x0 = some x := by
  simp [rowInTable]

/-! ## SORTER (R143) -/

theorem sorterCleared_bin (s : State) (i : Fin 32) : (sorterCleared s).su.bins[i] = resetBin s i s.su.bins[i] := by
  simp only [sorterCleared, Fin.getElem_fin, Vector.getElem_ofFn]

/-- The part with its late counts raised and its cut pieces lost, as a SORTER section reset leaves it (R143). -/
def sorterLosses (s : State) : State := loseWhere .lost (·.cutFree) (withLate (Vector.ofFn (lateRaised s)) s)

theorem resetSorter_losses (s : State) : resetSorter s = sorterCleared (sorterLosses s) := by
  rw [resetSorter_eq, raiseLateForConveyor_eq, sorterLosses]

theorem sorterLosses_late (s : State) (d : Fin 34) : (sorterLosses s).su.late[d] = lateRaised s d := by
  simp only [sorterLosses, loseWhere_frame]
  exact Vector.getElem_ofFn _


theorem sorterCleared_mc (s : State) : (sorterCleared s).mc = s.mc := by
  unfold sorterCleared
  rfl

theorem sorterCleared_shape (s : State) : sorterCleared s =
    { s with su := { s.su with bins := (sorterCleared s).su.bins, awaiting := [], conveyor := [] } } := by
  unfold sorterCleared
  rfl

theorem sorterLosses_frame (s : State) : (sorterLosses s).mc = s.mc ∧ (sorterLosses s).ee = s.ee ∧
    (sorterLosses s).om.queues = s.om.queues ∧ (sorterLosses s).pins = s.pins ∧ (sorterLosses s).conf = s.conf ∧
    (sorterLosses s).cu.lineClock = s.cu.lineClock ∧ (sorterLosses s).cu.attnPending = s.cu.attnPending := by
  unfold sorterLosses
  simp [withLate]

/-- What the end of the event keeps of a SECTION_RESET's effect while nothing is composed. -/
theorem sectionReset_answered {v : State} (h : v.mc.state ≠ .running) :
    (replied .sectionReset .done 0 v).su = v.su ∧ (replied .sectionReset .done 0 v).wt = v.wt ∧
      (replied .sectionReset .done 0 v).om = v.om ∧ (replied .sectionReset .done 0 v).mc = v.mc ∧
      (replied .sectionReset .done 0 v).ee.expo = v.ee.expo := by
  obtain ⟨-, om, -, wt, su, -⟩ := settle_still_frame (s := complete 13 .done 0 v) (.inl h)
  exact ⟨su, wt, om, by simp [replied, complete], by simp [replied, complete]⟩

/-- Settles O53. -/
theorem sectionsReset : Obligations.SectionsReset := by
  intro s canonical idle u
  have mc (n : Word) : (u n).mc = s.mc := by simp [u]
  refine ⟨fun shut => ?_, fun served => ?_⟩
  · have refused (n : Word) : takeSectionReset n (u n) = refuse .illegalState (u n) :=
      takeSectionReset_illegal (by rw [mc]; exact shut)
    exact ⟨exec_sectionReset canonical idle rfl (refused 1), exec_sectionReset canonical idle rfl (refused 2),
      exec_sectionReset canonical idle rfl (refused 3)⟩
  · have halted : s.mc.state ≠ .running := by
      obtain h | h | h := served <;> rw [h] <;> decide
    have taken {n : Word} {x : Section} (named : sectionOf n = some x) :=
      takeSectionReset_section (s := u n) (by rw [mc]; exact served) named
    have fixed {i : Instr} {n : Word} {t : State} (e : exec i s = .next (event (posted1 .sectionReset n) s))
        (run : exec i s = .next t) : Fixed s t := by
      rw [← Host.Outcome.next.inj (e.symm.trans run)]
      exact event_fixed (posted1_fixed _ _ _)
    have exposure : exec .sectionResetExposure s = .next (replied .sectionReset .done 0 (resetExposure (u 1))) :=
      exec_sectionReset canonical idle rfl (taken (x := .exposure) rfl)
    have cutter : exec .sectionResetCutter s = .next (replied .sectionReset .done 0 (resetCutter (u 2))) :=
      exec_sectionReset canonical idle rfl (taken (x := .cutter) rfl)
    have sorter : exec .sectionResetSorter s = .next (replied .sectionReset .done 0 (resetSorter (u 3))) :=
      exec_sectionReset canonical idle rfl (taken (x := .sorter) rfl)
    have still (v : State) (same : v.mc = s.mc) : (complete 13 .done 0 v).mc.state ≠ .running ∨
        (complete 13 .done 0 v).work.attempt = false := .inl (by rw [show (complete 13 .done 0 v).mc = v.mc from rfl, same]; exact halted)
    refine ⟨?_, ⟨_, cutter, ?_⟩, ?_, ⟨_, sorter, ?_⟩⟩
    · have rc : (u 1).rc = s.rc := offered1_rc _ _ _
      have ee : (u 1).ee = s.ee := by simp [u]
      have cfg : (u 1).cfg = s.cfg := offered_cfg1 _ _ _
      rw [exposure, ← rc, ← ee, ← cfg]
      rfl
    · generalize hv : resetCutter (u 2) = v at cutter
      have mcv : v.mc = s.mc := by rw [← hv]; simp [u]
      have ct : v.ct = { queue := s.ct.queue.foldl (rebuildBoundary (u 2)) [], misses := 0 } := by
        rw [← hv, show s.ct = (u 2).ct by simp [u]]
        rfl
      have store : v.store = (u 2).store := by rw [← hv]; simp
      have wf : Memory.wf v.store := by rw [store]; exact offered1_wf _ _ canonical
      obtain ⟨-, om, rc, wt, su, -⟩ := settle_still_frame (still v mcv)
      have queue : (replied .sectionReset .done 0 v).ct = v.ct := by simp [replied, complete]
      rw [queue, ct]
      refine ⟨answered_settle wf (by decide) (by rw [← hv]; simp [u]) (still v mcv), rfl, rebuilt_fresh _ _ _ (by simp),
        rebuilt_sublist (u 2) s.ct.queue [], wt.trans ?_, su.trans ?_, ?_, om.trans ?_, rc.trans ?_,
        (fixed rfl cutter).lineKept⟩
      · show v.wt = s.wt
        rw [← hv]
        simp [u]
      · show v.su = s.su
        rw [← hv]
        simp [u]
      · simp [replied, complete, mcv]
      · show v.om = s.om
        rw [← hv]
        simp [u]
      · show v.rc = s.rc
        rw [← hv]
        simp [u]
    · intro fresh
      have each (kept : List Boundary) (b : Boundary) : rebuildBoundary (u 2) kept b =
          if (fresh kept b).rowAfter = none ∧ (fresh kept b).rowBefore = none then kept else kept ++ [fresh kept b] := by
        have wt : (u 2).wt = s.wt := by simp [u]
        have same : freshBoundary (u 2) kept b = fresh kept b := by
          simp only [freshBoundary, fresh, rowInTable_iff, wt]
        rw [rebuildBoundary_eq, same]
        generalize fresh kept b = n
        cases after : n.rowAfter <;> cases before : n.rowBefore <;> simp [Boundary.kept, after, before]
      have queue : s.ct.queue.foldl (rebuildBoundary (u 2)) [] = s.ct.queue.foldl (fun kept b =>
          if (fresh kept b).rowAfter = none ∧ (fresh kept b).rowBefore = none then kept else kept ++ [fresh kept b]) [] := by
        rw [show rebuildBoundary (u 2) = _ from funext₂ each]
      rw [cutter, ← queue, show s.ct = (u 2).ct by simp [u]]
      rfl
    · generalize hw : u 3 = w at sorter
      have wsu : w.su = s.su := by rw [← hw]; simp [u]
      have wwt : w.wt = s.wt := by rw [← hw]; simp [u]
      have wpins : w.pins = s.pins := by rw [← hw]; simp [u]
      have wcfg : w.cfg = s.cfg := by rw [← hw]; exact offered_cfg1 _ _ _
      have wclock : w.cu.lineClock = s.cu.lineClock := by rw [← hw]; simp [u]
      have wmc : w.mc = s.mc := by rw [← hw]; exact mc 3
      have wattn : w.cu.attnPending = false := by rw [← hw]; simp [u]
      have wee : w.ee = s.ee := by rw [← hw]; simp [u]
      have wom : w.om = s.om := by rw [← hw]; exact offered1_om _ _ _
      have wf : Memory.wf w.store := by rw [← hw]; exact offered1_wf _ _ canonical
      have lineKept' := (fixed rfl sorter).lineKept
      have sound : Sound w (sorterLosses w) := by
        rw [sorterLosses, ← raiseLateForConveyor_eq]
        exact (raiseLateForConveyor_sound w).trans (loseWhere_sound _ _ _)
      have late (d : Fin 34) := sorterLosses_late w d
      have whole : sorterLosses w = loseWhere .lost (·.cutFree)
          { w with su := { s.su with late := Vector.ofFn (lateRaised w) } } := by
        rw [← wsu]
        rfl
      have lates : (sorterLosses w).su.late = Vector.ofFn (lateRaised w) := by
        simp only [sorterLosses, loseWhere_frame]
        rfl
      obtain ⟨vmc, vee, vqueues, vpins, vconf, vclock, vattn⟩ := sorterLosses_frame w
      rw [resetSorter_losses] at lineKept' ⊢
      generalize sorterLosses w = v at *
      have vcfg : v.cfg = s.cfg := by rw [State.cfg, vconf, ← State.cfg, wcfg]
      have bin (i : Fin 32) := sorterCleared_bin v i
      have xmc : (sorterCleared v).mc = s.mc := by rw [sorterCleared_mc, vmc, wmc]
      have shape := sorterCleared_shape v
      have xframe := sorterCleared_frame v
      generalize sorterCleared v = x at *
      obtain ⟨xcu, xom, -, xee, -, xwt, -, -, xstore, xlate, conveyor⟩ := xframe
      obtain ⟨su, wt, om, mc', expo⟩ := sectionReset_answered (v := x) (by rw [xmc]; exact halted)
      rw [su, wt, om, mc', expo]
      refine ⟨answered_settle (by rw [xstore]; exact sound.store wf) (by decide) (by rw [xcu, vattn, wattn])
        (.inl (by rw [xmc]; exact halted)), conveyor, ?_, ?_, ?_, xmc, lineKept', by rw [xee, vee, wee], by rw [xom, vqueues, wom], fun i => ?_⟩
      · rw [shape]
      · intro lost
        have cut (e : Entry) : e.cutFree = true ↔ lost e := by simp [Entry.cutFree, lost]
        rw [xwt, whole]
        refine ⟨fun e mem => ?_, fun e mem stays others => ?_⟩
        · obtain ⟨there, kept⟩ := mem_loseWhere_kept mem
          exact ⟨wwt ▸ there, fun h => Bool.false_ne_true (kept.symm.trans ((cut e).2 h))⟩
        · exact mem_loseWhere.2 ⟨wwt ▸ mem, fun f there gone => others f (wwt ▸ there) ((cut f).1 gone)⟩
      · intro n
        have carried (d : Fin 34) : conveyedTo w d = n d := by
          rw [conveyedTo, wsu]
        have raised (d : Fin 34) : x.su.late[d] = lateRaised w d := by rw [xlate, late]
        have expiry : lateExpiryNow w = s.cu.lineClock + lines s.cfg.confirmLimit := by
          rw [lateExpiryNow, wclock, wcfg]
        refine ⟨fun d none => ?_, fun d some => ?_, v, ?_, ?_, fun i => ⟨?_, fun stands => ?_⟩⟩
        · rw [raised, lateRaised, carried, if_pos none, wsu]
        · rw [raised, lateRaised, carried, if_neg some, wsu, expiry]
        · rw [whole, xlate, lates]
          rfl
        · exact congrArg (replied .sectionReset .done 0) shape
        · rw [bin, resetBin, vpins, wpins]
        · rw [bin, resetBin, vpins, wpins, vcfg]
          obtain other | ⟨shut, unlimited⟩ := stands
          · exact if_pos other
          · simp only [shut, unlimited, Bool.false_eq_true, if_false, if_true, ite_self]
      · rw [bin, resetBin, vpins, wpins, countdownExpiry, vcfg, vclock, wclock]
        refine ⟨rfl, rfl, fun complete opened => ?_, fun complete shut limit => ?_⟩
        · exact (if_neg (not_not.2 complete)).trans (if_pos opened)
        · exact (if_neg (not_not.2 complete)).trans ((if_neg (by rw [shut]; decide)).trans (if_neg limit))

end Sys2Proof.Machine
end

section
/-! CLAIMS. CONFIGURE, at its taking and at the end of its reading (R3, R142, R163, R179, R180). -/

namespace Sys2Proof.Machine

/-! ## The three control blocks (R3) -/

/-- A queue's control block carries a context's five fields (R3). -/
def showsQueue (m : Memory) (q : QueueId) (c : QueueCtx) : Prop :=
  Memory.read8 m q.blockAddr = c.state.code ∧ Memory.read8 m (q.blockAddr + 1) = c.halt.code ∧
    Memory.readWord m (q.blockAddr + 4) = c.next ∧ Memory.readWord m (q.blockAddr + 8) = c.tail ∧
    Memory.readWord m (q.blockAddr + 12) = c.taken

theorem showsQueue_congr {m n : Memory} {q : QueueId} {c : QueueCtx} (h : showsQueue m q c)
    (kept : ∀ a, inControlBlock q a → Memory.read n a = Memory.read m a) : showsQueue n q c := by
  obtain ⟨state, halt, next, tail, taken⟩ := h
  have same (o k : Nat) (ok : o + k ≤ 16) : Memory.readNat n (q.blockAddr + o) k = Memory.readNat m (q.blockAddr + o) k :=
    Memory.readNat_congr k fun b h1 h2 => kept b ⟨by omega, by omega⟩
  exact ⟨(same 0 1 (by omega)).trans state, (same 1 1 (by omega)).trans halt,
    (congrArg (BitVec.ofNat 32) (same 4 4 (by omega))).trans next,
    (congrArg (BitVec.ofNat 32) (same 8 4 (by omega))).trans tail,
    (congrArg (BitVec.ofNat 32) (same 12 4 (by omega))).trans taken⟩

theorem writeControlBlock_shows (q : QueueId) {s : State} (h : StoreCanonical s) :
    storeKept (inControlBlock q) s (writeControlBlock q s) ∧
      showsQueue (writeControlBlock q s).store q (s.om.queues.get q) := by
  have same : s.om.queues.set q (s.om.queues.get q) = s.om.queues := by cases q <;> rfl
  have whole : setQueue q (s.om.queues.get q) s = writeControlBlock q s := by rw [setQueue, same]
  obtain ⟨-, kept, shows⟩ := setQueue_words q (s.om.queues.get q) h
  rw [whole] at kept shows
  exact ⟨kept, shows⟩

theorem writeControlBlock_shape (q : QueueId) (s : State) :
    writeControlBlock q s = { s with store := (writeControlBlock q s).store } := rfl

theorem writeControlBlocks_shows (l : List QueueId) {s : State} (h : StoreCanonical s) :
    let t := l.foldl (fun t q => writeControlBlock q t) s
    storeKept (fun a => ∃ q ∈ l, inControlBlock q a) s t ∧ ∀ q ∈ l, showsQueue t.store q (s.om.queues.get q) := by
  induction l generalizing s with
  | nil => exact ⟨fun _ _ => rfl, fun q mem => absurd mem List.not_mem_nil⟩
  | cons p l ih =>
    obtain ⟨keptP, showsP⟩ := writeControlBlock_shows p h
    have rest := ih ((writeControlBlock_sound p s).store h)
    have queues : (writeControlBlock p s).om.queues = s.om.queues := by rw [writeControlBlock_shape]
    rw [queues] at rest
    rw [List.foldl_cons]
    generalize writeControlBlock p s = u at rest keptP showsP ⊢
    generalize l.foldl (fun t q => writeControlBlock q t) u = t at rest ⊢
    obtain ⟨kept, shows⟩ := rest
    refine ⟨fun a out => ?_, fun q mem => ?_⟩
    · exact (kept a fun ⟨q, mem, at_⟩ => out ⟨q, List.mem_cons_of_mem _ mem, at_⟩).trans
        (keptP a fun at_ => out ⟨p, List.mem_cons_self, at_⟩)
    · by_cases later : q ∈ l
      · exact shows q later
      · obtain rfl := (List.mem_cons.1 mem).resolve_right later
        refine showsQueue_congr showsP fun a at_ => kept a ?_
        rintro ⟨r, mem, also⟩
        rw [← inControlBlock_unique at_ also] at mem
        exact later mem

theorem foldl_writeControlBlock_shape (l : List QueueId) (s : State) :
    l.foldl (fun t q => writeControlBlock q t) s =
      { s with store := (l.foldl (fun t q => writeControlBlock q t) s).store } := by
  induction l generalizing s with
  | nil => rfl
  | cons q l ih =>
    rw [List.foldl_cons, ih, writeControlBlock_shape]

/-! ## The installation -/

section
variable (a : Word) (s : State)

/-- The part before the orders are re-examined: the record's values in force, the conveyor started, the control blocks
written (R163, R142, R3). -/
def recordInForce : State :=
  blocksWritten s.conf.isNone (conveyorStarted (decide (s.mc.state = .cleared)) (configured a s))

theorem installConfigure_inForce : installConfigure a s = askStatus (reexamineAll (recordInForce a s)) := rfl

theorem conveyorStarted_shape (left : Bool) (u : State) : conveyorStarted left u =
    withLate (Vector.ofFn fun d => if left then lateRestarted u d else u.su.late[d]) u := by
  cases left with
  | false => exact (withLate_all u).symm
  | true => exact restartLate_eq u

theorem blocksWritten_shape (first : Bool) (u : State) :
    blocksWritten first u = { u with store := (blocksWritten first u).store } := by
  cases first with
  | false => rfl
  | true => exact foldl_writeControlBlock_shape allQueues u

theorem recordInForce_shape : recordInForce a s = { s with
    conf := some (parseConf s.store a.toNat)
    mc := { s.mc with state := .ready, pauseCause := .noPause }
    ca := installCal (parseConf s.store a.toNat)
    rc := { s.rc with mask := (parseConf s.store a.toNat).initMask, firstCal := false }
    cu := { s.cu with
      enables := parseEnables s.store a.toNat
      irq := CuState.lineLevel { s.cu with enables := parseEnables s.store a.toNat } }
    su := { s.su with late := (recordInForce a s).su.late }
    store := (recordInForce a s).store } := by
  rw [recordInForce, blocksWritten_shape, conveyorStarted_shape]
  rfl

theorem recordInForce_frame :
    (recordInForce a s).mc = { s.mc with state := .ready, pauseCause := .noPause } ∧
      (recordInForce a s).conf = some (parseConf s.store a.toNat) ∧
      (recordInForce a s).ca = installCal (parseConf s.store a.toNat) ∧
      (recordInForce a s).rc = { s.rc with mask := (parseConf s.store a.toNat).initMask, firstCal := false } ∧
      (recordInForce a s).cu.enables = parseEnables s.store a.toNat ∧ (recordInForce a s).wt = s.wt ∧
      (recordInForce a s).ct = s.ct ∧ (recordInForce a s).pins = s.pins ∧
      (recordInForce a s).cu.lineClock = s.cu.lineClock ∧ (recordInForce a s).pu = s.pu ∧ (recordInForce a s).ee = s.ee := by
  rw [recordInForce_shape]
  exact ⟨rfl, rfl, rfl, rfl, rfl, rfl, rfl, rfl, rfl, rfl, rfl⟩

theorem recordInForce_whole : recordInForce a s = { s with
    conf := (recordInForce a s).conf, mc := (recordInForce a s).mc, ca := (recordInForce a s).ca
    rc := { s.rc with mask := (parseConf s.store a.toNat).initMask, firstCal := false }
    cu := { s.cu with enables := (recordInForce a s).cu.enables, irq := (recordInForce a s).cu.lineLevel }
    su := { s.su with late := (recordInForce a s).su.late }
    store := (recordInForce a s).store } := by
  rw [recordInForce_shape]
  rfl

theorem recordInForce_late (d : Fin 34) : (recordInForce a s).su.late[d] =
    if s.mc.state = .cleared ∧ s.su.late[d].count ≠ 0 then
      { count := min 8 s.su.late[d].count, expiry := s.cu.lineClock + lines (parseConf s.store a.toNat).confirmLimit }
    else s.su.late[d] := by
  have each : (recordInForce a s).su.late[d] =
      if decide (s.mc.state = .cleared) then lateRestarted (configured a s) d else s.su.late[d] := by
    rw [recordInForce, blocksWritten_shape, conveyorStarted_shape]
    exact Vector.getElem_ofFn _
  rw [each]
  by_cases left : s.mc.state = .cleared
  · by_cases none : s.su.late[d].count = 0
    · rw [if_pos (decide_eq_true left), if_neg fun h => h.2 none]
      exact if_pos none
    · rw [if_pos (decide_eq_true left), if_pos ⟨left, none⟩]
      exact if_neg none
  · rw [if_neg (by simpa using left), if_neg fun h => left h.1]

theorem recordInForce_store :
    (s.conf.isSome → (recordInForce a s).store = s.store) ∧
    (s.conf = none → StoreCanonical s → storeKept inControlBlocks s (recordInForce a s) ∧
      ∀ q : QueueId, showsQueue (recordInForce a s).store q (s.om.queues.get q)) := by
  have started : (conveyorStarted (decide (s.mc.state = .cleared)) (configured a s)).store = s.store := by
    rw [conveyorStarted_shape]
    rfl
  have queues : (conveyorStarted (decide (s.mc.state = .cleared)) (configured a s)).om = s.om := by
    rw [conveyorStarted_shape]
    rfl
  unfold recordInForce
  generalize conveyorStarted (decide (s.mc.state = .cleared)) (configured a s) = u at *
  refine ⟨fun there => ?_, fun fresh canonical => ?_⟩
  · rw [show s.conf.isNone = false by simpa [Option.isSome_iff_ne_none] using there, ← started]
    rfl
  · rw [fresh, show blocksWritten (none : Option Conf).isNone u = writeControlBlocks u from rfl]
    have shown := writeControlBlocks_shows allQueues (s := u) (by rw [StoreCanonical, started]; exact canonical)
    rw [queues] at shown
    obtain ⟨kept, shows⟩ := shown
    refine ⟨fun b out => ?_, fun q => shows q (mem_allQueues q)⟩
    rw [← started]
    refine kept b fun ⟨q, _, low, high⟩ => out ?_
    cases q <;> simp only [QueueId.blockAddr, QueueId.index] at low high <;> exact ⟨by omega, by omega⟩

theorem recordInForce_sound : Sound (configured a s) (recordInForce a s) :=
  (conveyorStarted_sound _ _).trans (blocksWritten_sound _ _)

end

/-! ## CONFIGURE at its taking (R163) -/

theorem configureAdmitted_iff (s : State) : configureAdmitted s = true ↔
    s.mc.state = .cleared ∨ s.mc.state = .ready ∨ s.mc.state = .paused ∧ s.wt.track = [] := by
  unfold configureAdmitted
  cases s.mc.state <;> simp

/-- The reading of a configuration record ends in its answer. -/
theorem exec_configureComplete {a : Word} {s : State} (h : s.cu.job = some (.configure a)) :
    exec .configureComplete s = .next (settle (completeReading .configure (endConfigure a { s with work := {} }))) := by
  change execConfigureComplete s = _
  simp only [execConfigureComplete, h, event]

theorem exec_configureComplete_installed {a : Word} {s : State} (job : s.cu.job = some (.configure a))
    (good : lowestFailing (confChecks s.store a.toNat s.cfg.binCap s.su.bins) = none) (h : configureAdmitted s = true) :
    exec .configureComplete s =
      .next (ended .configure .done 0 (askStatus (reexamineAll (recordInForce a { s with work := {} })))) := by
  have admitted : configureAdmitted { s with work := {} } = true := h
  rw [exec_configureComplete job]
  simp only [endConfigure, State.cfg] at good ⊢
  simp only [good, if_pos admitted, settle_completeReading, installConfigure_inForce]

/-- The end of CONFIGURE's reading: the reply and the status block, nothing being composed in READY (R185). -/
theorem ended_installed {y : State} (ready : y.mc.state = .ready) (wf : StoreCanonical y) :
    let t := ended .configure .done 0 (askStatus y)
    answeredWith 1 .done 0 t ∧ t.mc = y.mc ∧ t.conf = y.conf ∧ t.ca = y.ca ∧ t.rc = y.rc ∧ t.cu.enables = y.cu.enables ∧
      t.wt = y.wt ∧ t.ct = y.ct ∧ t.pins = y.pins ∧ t.cu.lineClock = y.cu.lineClock ∧ t.pu.counter = y.pu.counter ∧
      t.ee.hot = y.ee.hot ∧ t.ee.continuity = y.ee.continuity ∧ Memory.read8 t.store 0x200 = 1 := by
  intro t
  have halted : y.mc.state ≠ .running := by rw [ready]; decide
  have same : t = settle (complete 1 .done 0 (setAttn false (askStatus y))) := rfl
  obtain ⟨-, -, rc, wt, -, -⟩ := settle_still_frame (s := complete 1 .done 0 (setAttn false (askStatus y))) (.inl halted)
  obtain ⟨state, -⟩ := settle_status (s := complete 1 .done 0 (setAttn false (askStatus y))) (complete_wf 1 .done 0 wf) rfl
  have answer : answeredWith 1 .done 0 t :=
    answered_settle (c := .configure) (u := setAttn false (askStatus y)) wf (by decide) rfl (.inl halted)
  rw [← same] at rc wt state
  rw [show (complete 1 .done 0 (setAttn false (askStatus y))).mc = y.mc from rfl, ready] at state
  refine ⟨answer, ?_, ?_, ?_, rc, ?_, wt, ?_, ?_, ?_, ?_, ?_, ?_, state⟩ <;> rw [same] <;>
    simp [complete, setAttn, askStatus]

/-- Settles O52. -/
theorem configureInstalls : Obligations.ConfigureInstalls := by
  intro a s admitted failing
  have admits (u : State) (mc : u.mc = s.mc) (wt : u.wt = s.wt) : configureAdmitted u = true ↔ admitted := by
    rw [configureAdmitted_iff, mc, wt]
  refine ⟨fun canonical idle => ?_, fun job => ⟨fun o bad => ?_, fun good shut => ?_, fun good served canonical => ?_⟩, fun none => ?_⟩
  · intro u
    have here := admits u (by simp [u]) (by simp [u])
    have address : recordAddressOk a.toNat Config.configBytes = true ↔
        a.toNat % 64 = 0 ∧ 4096 ≤ a.toNat ∧ a.toNat + 512 ≤ 268435456 := by
      simp only [recordAddressOk, Config.anchorBytes, Config.storeBytes, Config.configBytes, Bool.and_eq_true,
        decide_eq_true_eq, and_assoc]
    have run : exec (.configure a) s = .next (settle (answered .configure (takeConfigure a u))) :=
      congrArg Host.Outcome.next (event_posted1 .configure a canonical idle)
    rw [run]
    refine ⟨fun shut => ?_, fun served bad => ?_, fun served aligned low high => ?_⟩
    · rw [takeConfigure, if_pos (by simpa using mt here.1 shut)]
      rfl
    · rw [takeConfigure, if_neg (by simpa using here.2 served), if_pos (by simpa using mt address.1 bad)]
      rfl
    · rw [takeConfigure, if_neg (by simpa using here.2 served), if_neg (by simpa using address.2 ⟨aligned, low, high⟩)]
      rfl
  · have bad : lowestFailing (confChecks s.store a.toNat s.cfg.binCap s.su.bins) = some o := bad
    rw [exec_configureComplete job]
    simp only [endConfigure, State.cfg] at bad ⊢
    simp only [bad, settle_completeReading]
  · have good : lowestFailing (confChecks s.store a.toNat s.cfg.binCap s.su.bins) = none := good
    rw [exec_configureComplete job]
    simp only [endConfigure, State.cfg] at good ⊢
    simp only [good, if_neg (mt (admits { s with work := {} } rfl rfl).1 shut), settle_completeReading]
  · intro c
    have good : lowestFailing (confChecks s.store a.toNat s.cfg.binCap s.su.bins) = none := good
    have run := exec_configureComplete_installed job good ((admits s rfl rfl).2 served)
    obtain ⟨vmc, vconf, vca, vrc, venables, vwt, vct, vpins, vclock, vpu, vee⟩ := recordInForce_frame a { s with work := {} }
    have whole := recordInForce_whole a { s with work := {} }
    have late := recordInForce_late a { s with work := {} }
    obtain ⟨again, fresh⟩ := recordInForce_store a { s with work := {} }
    have sound := recordInForce_sound a { s with work := {} }
    have canonical' : StoreCanonical (configured a { s with work := {} }) := canonical
    have canonical' : StoreCanonical (configured a { s with work := {} }) := canonical
    have vwf := sound.store canonical'
    generalize recordInForce a { s with work := {} } = v at *
    obtain ⟨yclock, yenables, -, -, -, yslot, ymask, yhot, yfirst, -, yee, yca, ywt, yct, -, -, -, ycounter, ymc, yconf, ypins,
      -, -⟩ := reexamineAll_frame v
    have ywf : StoreCanonical (reexamineAll v) := (reexamineAll_sound v).store vwf
    obtain ⟨answer, tmc, tconf, tca, trc, tenables, twt, tct, tpins, tclock, tcounter, thot, tcontinuity, shown⟩ :=
      ended_installed (by rw [ymc, vmc]) ywf
    have tmc := tmc.trans ymc
    have tconf := tconf.trans yconf
    have tca := tca.trans yca
    have tenables := tenables.trans yenables
    refine ⟨_, run, answer, tmc.trans vmc, tconf.trans vconf, tca.trans vca, ?_, ?_, ?_, ?_, tenables.trans venables,
      twt.trans (ywt.trans vwt), tct.trans (yct.trans vct), tpins.trans (ypins.trans vpins), tclock.trans (yclock.trans vclock),
      tcounter.trans (ycounter.trans (congrArg PuState.counter vpu)), thot.trans (congrArg EeState.hot (yee.trans vee)),
      tcontinuity.trans (congrArg EeState.continuity (yee.trans vee)), shown, v, rfl, ?_, late, again, fun none => ?_⟩
    · rw [trc, ymask, vrc]
    · rw [trc, yfirst, vrc]
    · rw [trc, yhot, vrc]
    · rw [trc, yslot, vrc]
    · rw [tmc, tconf, tca, tenables]
      exact whole
    · obtain ⟨kept, shows⟩ := fresh none canonical
      exact ⟨kept, shows⟩
  · change execConfigureComplete s = _
    unfold execConfigureComplete
    split
    next b job => exact absurd job (none b)
    next => rfl

end Sys2Proof.Machine
end

section
/-! CLAIMS. The checks of a configuration record and of a price table (R60, R61, R79, R81, R97, R127, R148, R179, R180,
R189). -/

namespace Sys2Proof.Machine

/-! ## Failing checks -/

theorem lowestFailing_eq_some (cs : List FieldCheck) (o : Nat) :
    lowestFailing cs = some o ↔ (o, false) ∈ cs ∧ ∀ x ∈ cs, x.2 = false → o ≤ x.1 := by
  rw [lowestFailing, List.min?_eq_some_iff]
  simp only [List.mem_map, List.mem_filter, Bool.not_eq_true', forall_exists_index, and_imp]
  constructor
  · rintro ⟨⟨⟨n, b⟩, ⟨mem, bad⟩, rfl⟩, least⟩
    obtain rfl : b = false := bad
    exact ⟨mem, fun x there bad => least x.1 x there bad rfl⟩
  · rintro ⟨mem, least⟩
    refine ⟨⟨(o, false), ⟨mem, rfl⟩, rfl⟩, ?_⟩
    rintro - x there bad rfl
    exact least x there bad

/-- A check fails at an offset when it names it and does not pass. -/
theorem failing_iff {o n : Nat} {b : Bool} {P : Prop} (passes : b = true ↔ P) : (o, false) = (n, b) ↔ o = n ∧ ¬P := by
  rw [Prod.mk.injEq, ← passes, Bool.not_eq_true, eq_comm (a := false)]

theorem within_iff (lo n hi : Nat) : within lo n hi = true ↔ lo ≤ n ∧ n ≤ hi := by
  simp only [within, Bool.and_eq_true, decide_eq_true_eq]

/-! ## The configuration record -/

section
variable (m : Memory) (a cap : Nat) (bins : Vector Bin 32) (c : Conf) (o : Nat)

/-- The fields of the record's head outside the bin table's comparisons, each with the range whose failure its offset names
(R60, R61, R79, R180). -/
def fixedFails : Prop :=
  let mode := Memory.read8 m (a + 3)
  let mask := Memory.read8 m (a + 4)
  let table := Memory.read32 m (a + 8)
  o = 0x00 ∧ ¬(890 ≤ c.paperWidth ∧ c.paperWidth ≤ 3050 ∧ c.paperWidth % 5 = 0) ∨
  o = 0x02 ∧ ¬c.surface ≤ 7 ∨
  o = 0x03 ∧ ¬(mode = 1 ∨ mode = 2 ∧ 1020 ≤ c.paperWidth) ∨
  o = 0x04 ∧ ¬(mask = 1 ∨ mask = 3 ∨ mask = 2 ∧ mode ≠ 1) ∨
  o = 0x05 ∧ ¬Memory.read8 m (a + 5) ≤ 7 ∨
  o = 0x06 ∧ ¬c.markWin ≤ 120 ∨
  o = 0x08 ∧ ¬(table % 64 = 0 ∧ 4096 ≤ table ∧ table + 21984 ≤ 268435456 ∧
    ∀ i < 10992, let g := Memory.read16 m (table + 2 * i); g = 0 ∨ 2048 ≤ g ∧ g ≤ 6143) ∨
  o = 0x10 ∧ ¬(c.loopMax ≤ 30000 ∧ 2 * 240 ≤ c.loopMax ∧ 2 * c.minPiece ≤ c.loopMax ∧
    ∀ i z, sizeOf c i = some z → 2 * (z.length * 12 / 10) ≤ c.loopMax) ∨
  o = 0x12 ∧ ¬(600 ≤ c.minPiece ∧ c.minPiece ≤ 2400) ∨
  o = 0x14 ∧ ¬(240 ≤ c.lDens ∧ c.lDens ≤ 24000) ∨
  o = 0x16 ∧ ¬(c.lDens < c.lMk ∧ c.lMk ≤ 24000) ∨
  o = 0x18 ∧ ¬(c.lMk + 2 * c.markWin + 1 < c.lCut ∧ c.lCut ≤ 24000) ∨
  o = 0x1A ∧ ¬c.thetaRef ≤ 400 ∨
  o = 0x1C ∧ ¬c.thetaMax ≤ 400 ∨
  o = 0x1E ∧ ¬(4 ≤ c.calDrift ∧ c.calDrift ≤ 80) ∨
  o = 0x24 ∧ ¬(100 ≤ c.confirmLimit ∧ c.confirmLimit ≤ 5000) ∨
  o = 0x26 ∧ ¬c.unloadLimit ≤ 3600

/-- The comparisons with the bin table (R127). -/
def binFails : Prop :=
  o = 0x20 ∧ ¬(4 ≤ c.binCount ∧ c.binCount ≤ 32 ∧ ∀ i : Fin 32, bins[i].state ≠ .free → i.1 < c.binCount) ∨
  o = 0x22 ∧ ¬(10 ≤ c.binCap ∧ c.binCap ≤ 250 ∧
    ((∃ i : Fin 32, bins[i].state = .reserved ∨ bins[i].state = .filling ∨ bins[i].state = .full) → c.binCap = cap))

/-- A channel's fields (R60, R81). -/
def chanFails (k : Chan) : Prop :=
  o = 0x28 + 2 * k.index ∧ ¬(-64 ≤ c.tempCoef.get k ∧ c.tempCoef.get k ≤ 64) ∨
  o = 0x30 + 2 * k.index ∧ ¬(50 ≤ c.target.get k ∧ c.target.get k ≤ 3999) ∨
  o = 0x38 + 2 * k.index ∧ ¬(2048 ≤ c.initBal.get k ∧ c.initBal.get k ≤ 6143) ∨
  ∃ i, ∃ v, (c.curve.get k)[i]? = some v ∧ o = 0xC8 + 34 * k.index + 2 * i ∧ ¬v ≤ 4095

/-- A defined size's fields (R97). -/
def sizeFails (i : Nat) : Prop :=
  ∃ z, sizeOf c i = some z ∧
    (o = 0x48 + 8 * i ∧ ¬(500 ≤ z.width ∧ z.width ≤ 3050 ∧ z.width % 5 = 0) ∨
     o = 0x48 + 8 * i + 2 ∧ ¬(500 ≤ z.length ∧ z.length ≤ 4570 ∧ z.length % 5 = 0) ∨
     o = 0x48 + 8 * i + 4 ∧ ¬z.group ≤ 15)

theorem foldl_max_le (l : List Nat) (b n : Nat) : l.foldl max b ≤ n ↔ b ≤ n ∧ ∀ x ∈ l, x ≤ n := by
  induction l generalizing b with
  | nil => simp
  | cons x l ih =>
    rw [List.foldl_cons, ih, Nat.max_le, List.forall_mem_cons, and_assoc]

/-- Twice the longest row fits within a bound when each of the rows does (R79). -/
theorem longestRow_le (n : Nat) : 2 * longestRow c ≤ n ↔
    2 * 240 ≤ n ∧ 2 * c.minPiece ≤ n ∧ ∀ i z, sizeOf c i = some z → 2 * (z.length * 12 / 10) ≤ n := by
  have each : (∀ x ∈ c.sizes.filterMap fun d => d.map fun d => tenthsToLines d.length, x ≤ n / 2) ↔
      ∀ i z, sizeOf c i = some z → 2 * (z.length * 12 / 10) ≤ n := by
    have half (x : Nat) : x ≤ n / 2 ↔ 2 * x ≤ n := by omega
    simp only [List.mem_filterMap, Option.map_eq_some_iff, half, tenthsToLines]
    constructor
    · intro h i z there
      exact h _ ⟨some z, List.mem_of_getElem? (Option.join_eq_some_iff.1 there), z, rfl, rfl⟩
    · rintro h - ⟨d, mem, z, rfl, rfl⟩
      obtain ⟨i, there⟩ := List.getElem?_of_mem mem
      exact h i z (Option.join_eq_some_iff.2 there)
  have half : 2 * longestRow c ≤ n ↔ longestRow c ≤ n / 2 := by omega
  rw [← each, half, longestRow, foldl_max_le, Nat.max_le, and_assoc]
  exact and_congr (by unfold Config.calLen; omega) (and_congr_left fun _ => by omega)

theorem gainTableOk_iff (g : Nat) : gainTableOk m g = true ↔
    g % 64 = 0 ∧ 4096 ≤ g ∧ g + 21984 ≤ 268435456 ∧
      ∀ i < 10992, let x := Memory.read16 m (g + 2 * i); x = 0 ∨ 2048 ≤ x ∧ x ≤ 6143 := by
  simp only [gainTableOk, recordAddressOk, Config.anchorBytes, Config.storeBytes, Config.gainBytes, Config.headElements,
    Bool.and_eq_true, decide_eq_true_eq, List.all_eq_true, List.mem_range, gainOk, Bool.or_eq_true, within_iff, and_assoc]

theorem binsWithin_iff : ((bins.toList.mapIdx fun i b => decide (b.state = .free) || decide (i < c.binCount)).all id) = true ↔
    ∀ i : Fin 32, bins[i].state ≠ .free → i.1 < c.binCount := by
  simp only [List.all_eq_true, List.mem_mapIdx, forall_exists_index, id]
  constructor
  · intro h i used
    have judged := h _ i.1 (by simp) rfl
    simp only [Vector.getElem_toList, Bool.or_eq_true, decide_eq_true_eq] at judged
    exact judged.resolve_left used
  · rintro h - i less rfl
    have less : i < 32 := by simpa using less
    simp only [Vector.getElem_toList, Bool.or_eq_true, decide_eq_true_eq]
    exact or_iff_not_imp_left.2 (h ⟨i, less⟩)

theorem binsHeld_iff : (bins.toList.any fun b => decide (b.state = .reserved) || decide (b.state = .filling) ||
      decide (b.state = .full)) = true ↔
    ∃ i : Fin 32, bins[i].state = .reserved ∨ bins[i].state = .filling ∨ bins[i].state = .full := by
  simp only [List.any_eq_true, Bool.or_eq_true, decide_eq_true_eq, or_assoc]
  constructor
  · rintro ⟨b, mem, held⟩
    obtain ⟨i, less, rfl⟩ := List.getElem_of_mem mem
    exact ⟨⟨i, by simpa using less⟩, held⟩
  · rintro ⟨i, held⟩
    exact ⟨bins[i], by simp, held⟩

theorem mem_binChecks : (o, false) ∈ binChecks c cap bins ↔ binFails cap bins c o := by
  simp only [binChecks, binFails, List.mem_cons, List.not_mem_nil, or_false]
  refine or_congr (failing_iff ?_) (failing_iff ?_)
  · rw [Bool.and_eq_true, within_iff, binsWithin_iff, and_assoc]
  · rw [Bool.and_eq_true, within_iff, Bool.or_eq_true, Bool.not_eq_true', ← Bool.not_eq_true, binsHeld_iff, decide_eq_true_eq,
      and_assoc, imp_iff_not_or]

theorem mem_chanChecks (k : Chan) : (o, false) ∈ chanChecks c k ↔ chanFails c o k := by
  simp only [chanChecks, chanFails, List.mem_append, List.mem_cons, List.not_mem_nil, or_false, or_assoc]
  refine or_congr (failing_iff ?_) (or_congr (failing_iff (within_iff _ _ _)) (or_congr (failing_iff (within_iff _ _ _)) ?_))
  · rw [Bool.and_eq_true, decide_eq_true_eq, decide_eq_true_eq]
  · simp only [List.mem_iff_getElem?, List.getElem?_mapIdx, Option.map_eq_some_iff]
    refine exists_congr fun i => exists_congr fun v => and_congr_right fun _ => ?_
    rw [eq_comm]
    exact failing_iff (by rw [within_iff]; simp)

theorem mem_sizeChecks (i : Nat) : (o, false) ∈ sizeChecks c i ↔ sizeFails c o i := by
  unfold sizeChecks sizeFails
  cases sizeOf c i with
  | none => simp
  | some z =>
    simp only [List.mem_cons, List.not_mem_nil, or_false, Option.some.injEq, exists_eq_left']
    refine or_congr (failing_iff ?_) (or_congr (failing_iff ?_) (failing_iff ?_)) <;>
      simp only [Bool.and_eq_true, within_iff, decide_eq_true_eq, and_assoc, Nat.zero_le, true_and]

end

/-- The checks of CONFIGURE, taken apart by the kind of field (R179). -/
theorem mem_confChecks (m : Memory) (a cap : Nat) (bins : Vector Bin 32) (o : Nat) :
    (o, false) ∈ confChecks m a cap bins ↔ fixedFails m a (parseConf m a) o ∨ binFails cap bins (parseConf m a) o ∨
      (∃ k, chanFails (parseConf m a) o k) ∨ ∃ i < 16, sizeFails (parseConf m a) o i := by
  have chans (k : Chan) : k ∈ allChans := by cases k <;> decide
  simp only [confChecks, List.mem_append, List.mem_flatMap, mem_binChecks, mem_chanChecks, mem_sizeChecks, List.mem_range, chans,
    true_and, or_assoc]
  refine or_congr_left ?_
  simp only [fixedFails, List.mem_cons, List.not_mem_nil, or_false]
  have mask (mode mask : Nat) : (within 1 mask 3 && (!decide (mode = 1) || !decide (mask = 2))) = true ↔
      mask = 1 ∨ mask = 3 ∨ mask = 2 ∧ mode ≠ 1 := by
    simp only [Bool.and_eq_true, within_iff, Bool.or_eq_true, Bool.not_eq_true', decide_eq_false_iff_not]
    omega
  repeat' refine or_congr (failing_iff ?_) ?_
  on_goal 17 => refine failing_iff ?_
  all_goals
    simp only [Bool.and_eq_true, Bool.or_eq_true, decide_eq_true_eq, within_iff, and_assoc, Nat.zero_le, true_and, mask,
      gainTableOk_iff, longestRow_le, Nat.lt_succ_iff]
  rfl

section
variable {m : Memory} {a cap : Nat} {bins : Vector Bin 32} {c : Conf} {o : Nat}

/-! ### Where the fields lie -/

theorem Chan.index_le (k : Chan) : k.index ≤ 2 := by cases k <;> decide

theorem Chan.index_inj {j k : Chan} (h : j.index = k.index) : j = k := by
  cases j <;> cases k <;> first | rfl | exact absurd h (by decide)

theorem parseConf_curve (k : Chan) (i v : Nat) : ((parseConf m a).curve.get k)[i]? = some v ↔
    i < 17 ∧ Memory.read16 m (a + 0xC8 + 34 * k.index + 2 * i) = v := by
  have curve : (parseConf m a).curve.get k = readList16 m (a + 0xC8 + 34 * k.index) 17 := by cases k <;> rfl
  rw [curve, readList16, List.getElem?_map, Option.map_eq_some_iff]
  constructor
  · rintro ⟨j, at_, rfl⟩
    obtain ⟨less, rfl⟩ := List.getElem?_eq_some_iff.1 at_
    simp only [List.length_range] at less
    exact ⟨less, by rw [List.getElem_range]⟩
  · rintro ⟨less, rfl⟩
    exact ⟨i, List.getElem?_range less, rfl⟩

theorem chanFails_iff (k : Chan) : chanFails (parseConf m a) o k ↔
    o = 0x28 + 2 * k.index ∧ ¬(-64 ≤ (parseConf m a).tempCoef.get k ∧ (parseConf m a).tempCoef.get k ≤ 64) ∨
    o = 0x30 + 2 * k.index ∧ ¬(50 ≤ (parseConf m a).target.get k ∧ (parseConf m a).target.get k ≤ 3999) ∨
    o = 0x38 + 2 * k.index ∧ ¬(2048 ≤ (parseConf m a).initBal.get k ∧ (parseConf m a).initBal.get k ≤ 6143) ∨
    ∃ i < 17, o = 0xC8 + 34 * k.index + 2 * i ∧ 4095 < Memory.read16 m (a + 0xC8 + 34 * k.index + 2 * i) := by
  unfold chanFails
  refine or_congr_right (or_congr_right (or_congr_right (exists_congr fun i => ?_)))
  constructor
  · rintro ⟨v, there, at_, high⟩
    obtain ⟨less, rfl⟩ := (parseConf_curve k i v).1 there
    exact ⟨less, at_, Nat.lt_of_not_le high⟩
  · rintro ⟨less, at_, high⟩
    exact ⟨_, (parseConf_curve k i _).2 ⟨less, rfl⟩, at_, Nat.not_le_of_lt high⟩

theorem chanFails_offset {k : Chan} (h : chanFails (parseConf m a) o k) :
    o = 0x28 + 2 * k.index ∨ o = 0x30 + 2 * k.index ∨ o = 0x38 + 2 * k.index ∨
      ∃ i < 17, o = 0xC8 + 34 * k.index + 2 * i :=
  ((chanFails_iff k).1 h).imp And.left (Or.imp And.left (Or.imp And.left fun ⟨i, less, at_, _⟩ => ⟨i, less, at_⟩))

theorem sizeFails_offset {i : Nat} (h : sizeFails c o i) :
    o = 0x48 + 8 * i ∨ o = 0x48 + 8 * i + 2 ∨ o = 0x48 + 8 * i + 4 := by
  obtain ⟨_, _, named⟩ := h
  exact named.imp And.left (Or.imp And.left And.left)

theorem headFails_offset (h : fixedFails m a c o ∨ binFails cap bins c o) :
    o ∈ [0x00, 0x02, 0x03, 0x04, 0x05, 0x06, 0x08, 0x10, 0x12, 0x14, 0x16, 0x18, 0x1A, 0x1C, 0x1E, 0x20, 0x22, 0x24, 0x26] := by
  simp only [fixedFails, binFails] at h
  simp only [List.mem_cons, List.not_mem_nil, or_false]
  omega

/-- Below 0x28 lie the fixed fields and the bin table's alone. -/
theorem mem_confChecks_head (h : o < 0x28) : (o, false) ∈ confChecks m a cap bins ↔
    fixedFails m a (parseConf m a) o ∨ binFails cap bins (parseConf m a) o := by
  rw [mem_confChecks, ← or_assoc, or_iff_left]
  rintro (⟨k, named⟩ | ⟨i, -, named⟩)
  · have := chanFails_offset named
    omega
  · have := sizeFails_offset named
    omega

/-- From 0x28 to 0x48, and from 0xC8 on, lie the channels' fields alone. -/
theorem mem_confChecks_chan (h : 0x28 ≤ o) (h' : o < 0x48 ∨ 0xC8 ≤ o) : (o, false) ∈ confChecks m a cap bins ↔
    ∃ k, chanFails (parseConf m a) o k := by
  have noHead : ¬(fixedFails m a (parseConf m a) o ∨ binFails cap bins (parseConf m a) o) := fun named => by
    have := headFails_offset named
    simp only [List.mem_cons, List.not_mem_nil, or_false] at this
    omega
  rw [mem_confChecks, ← or_assoc, or_iff_right noHead, or_iff_left]
  rintro ⟨i, less, named⟩
  have := sizeFails_offset named
  omega

/-- From 0x48 to 0xC8 lie the sizes alone. -/
theorem mem_confChecks_size (h : 0x48 ≤ o) (h' : o < 0xC8) : (o, false) ∈ confChecks m a cap bins ↔
    ∃ i < 16, sizeFails (parseConf m a) o i := by
  have noHead : ¬(fixedFails m a (parseConf m a) o ∨ binFails cap bins (parseConf m a) o) := fun named => by
    have := headFails_offset named
    simp only [List.mem_cons, List.not_mem_nil, or_false] at this
    omega
  rw [mem_confChecks, ← or_assoc, or_iff_right noHead, or_iff_right]
  rintro ⟨k, named⟩
  have := k.index_le
  have := chanFails_offset named
  omega

/-- A channel's offset names no other channel's field. -/
theorem chanFails_own {k : Chan} (h : o = 0x28 + 2 * k.index ∨ o = 0x30 + 2 * k.index ∨ o = 0x38 + 2 * k.index ∨
      ∃ i < 17, o = 0xC8 + 34 * k.index + 2 * i) :
    (o, false) ∈ confChecks m a cap bins ↔ chanFails (parseConf m a) o k := by
  have small := k.index_le
  rw [mem_confChecks_chan (by obtain h | h | h | ⟨i, -, h⟩ := h <;> omega) (by obtain h | h | h | ⟨i, -, h⟩ := h <;> omega)]
  refine ⟨fun ⟨j, named⟩ => ?_, fun named => ⟨k, named⟩⟩
  have small' := j.index_le
  have same : j.index = k.index := by
    obtain h | h | h | ⟨i, _, h⟩ := h <;> obtain g | g | g | ⟨_, _, g⟩ := chanFails_offset named <;> omega
  rwa [← Chan.index_inj same]

/-- A size's offset names no other size's field. -/
theorem sizeFails_own {i : Nat} (less : i < 16) (h : o = 0x48 + 8 * i ∨ o = 0x48 + 8 * i + 2 ∨ o = 0x48 + 8 * i + 4) :
    (o, false) ∈ confChecks m a cap bins ↔ sizeFails (parseConf m a) o i := by
  rw [mem_confChecks_size (by omega) (by omega)]
  refine ⟨fun ⟨j, _, named⟩ => ?_, fun named => ⟨i, less, named⟩⟩
  have at_ := sizeFails_offset named
  obtain rfl : j = i := by omega
  exact named

theorem confChecks_tempCoef (k : Chan) : (0x28 + 2 * k.index, false) ∈ confChecks m a cap bins ↔
    ¬(-64 ≤ (parseConf m a).tempCoef.get k ∧ (parseConf m a).tempCoef.get k ≤ 64) := by
  have small := k.index_le
  rw [chanFails_own (.inl rfl), chanFails_iff]
  constructor
  · rintro (⟨_, bad⟩ | ⟨at_, _⟩ | ⟨at_, _⟩ | ⟨i, _, at_, _⟩) <;> omega
  · exact fun bad => .inl ⟨rfl, bad⟩

theorem confChecks_target (k : Chan) : (0x30 + 2 * k.index, false) ∈ confChecks m a cap bins ↔
    ¬(50 ≤ (parseConf m a).target.get k ∧ (parseConf m a).target.get k ≤ 3999) := by
  have small := k.index_le
  rw [chanFails_own (.inr (.inl rfl)), chanFails_iff]
  constructor
  · rintro (⟨at_, _⟩ | ⟨_, bad⟩ | ⟨at_, _⟩ | ⟨i, _, at_, _⟩) <;> omega
  · exact fun bad => .inr (.inl ⟨rfl, bad⟩)

theorem confChecks_initBal (k : Chan) : (0x38 + 2 * k.index, false) ∈ confChecks m a cap bins ↔
    ¬(2048 ≤ (parseConf m a).initBal.get k ∧ (parseConf m a).initBal.get k ≤ 6143) := by
  have small := k.index_le
  rw [chanFails_own (.inr (.inr (.inl rfl))), chanFails_iff]
  constructor
  · rintro (⟨at_, _⟩ | ⟨at_, _⟩ | ⟨_, bad⟩ | ⟨i, _, at_, _⟩) <;> omega
  · exact fun bad => .inr (.inr (.inl ⟨rfl, bad⟩))

theorem confChecks_curve (k : Chan) {i : Nat} (less : i < 17) :
    (0xC8 + 34 * k.index + 2 * i, false) ∈ confChecks m a cap bins ↔
      4095 < Memory.read16 m (a + 0xC8 + 34 * k.index + 2 * i) := by
  have small := k.index_le
  rw [chanFails_own (.inr (.inr (.inr ⟨i, less, rfl⟩))), chanFails_iff]
  constructor
  · rintro (⟨at_, _⟩ | ⟨at_, _⟩ | ⟨at_, _⟩ | ⟨j, _, at_, bad⟩)
    · omega
    · omega
    · omega
    · obtain rfl : i = j := by omega
      exact bad
  · exact fun bad => .inr (.inr (.inr ⟨i, less, rfl, bad⟩))

theorem confChecks_size {i : Nat} (less : i < 16) :
    ((0x48 + 8 * i, false) ∈ confChecks m a cap bins ↔
      ∃ z, sizeOf (parseConf m a) i = some z ∧ ¬(500 ≤ z.width ∧ z.width ≤ 3050 ∧ z.width % 5 = 0)) ∧
    ((0x48 + 8 * i + 2, false) ∈ confChecks m a cap bins ↔
      ∃ z, sizeOf (parseConf m a) i = some z ∧ ¬(500 ≤ z.length ∧ z.length ≤ 4570 ∧ z.length % 5 = 0)) ∧
    ((0x48 + 8 * i + 4, false) ∈ confChecks m a cap bins ↔ ∃ z, sizeOf (parseConf m a) i = some z ∧ 15 < z.group) := by
  rw [sizeFails_own less (.inl rfl), sizeFails_own less (.inr (.inl rfl)), sizeFails_own less (.inr (.inr rfl))]
  refine ⟨exists_congr fun z => and_congr_right fun _ => ?_, exists_congr fun z => and_congr_right fun _ => ?_,
    exists_congr fun z => and_congr_right fun _ => ?_⟩ <;> omega

end

/-! ## The price table (R148, R189) -/

section
variable (m : Memory) (a : Nat)

/-- The failing checks of a price line. -/
def lineFails (n o : Nat) : Prop :=
  let b (o : Nat) : Nat := Memory.read8 m (a + o)
  let h (o : Nat) : Nat := Memory.read16 m (a + o)
  let l := 0x10 + 20 * n
  o = l ∧ 15 < b l ∨ o = l + 1 ∧ 7 < b (l + 1) ∧ b (l + 1) ≠ 255 ∨ o = l + 2 ∧ 3 < b (l + 2) ∧ b (l + 2) ≠ 255 ∨
    o = l + 3 ∧ 3 < b (l + 3) ∨
    b (l + 3) ≤ 3 ∧ ∃ j < b (l + 3), o = l + 8 + 4 * j ∧
      ¬(2 ≤ h (l + 8 + 4 * j) ∧ h (l + 8 + 4 * j) ≤ 9999 ∧ (j ≠ 0 → h (l + 4 + 4 * j) < h (l + 8 + 4 * j)))

/-- The failing checks of a promotion. -/
def promoFails (nLines n o : Nat) : Prop :=
  let b (o : Nat) : Nat := Memory.read8 m (a + o)
  let h (o : Nat) : Nat := Memory.read16 m (a + o)
  let p := 0x10 + 20 * nLines + 12 * n
  o = p ∧ (h p = 0 ∨ ∃ j < n, h (0x10 + 20 * nLines + 12 * j) = h p) ∨ o = p + 2 ∧ ¬(1 ≤ b (p + 2) ∧ b (p + 2) ≤ 3) ∨
    o = p + 4 ∧ (b (p + 2) = 1 ∧ ¬(1 ≤ h (p + 4) ∧ h (p + 4) ≤ 100) ∨
      b (p + 2) = 2 ∧ ¬(2 ≤ h (p + 4) ∧ h (p + 4) ≤ 100))

theorem breakOk_iff (l j : Nat) : (within 2 (readBreak m (a + l) j).minimum 9999 &&
      (decide (j = 0) || decide ((readBreak m (a + l) (j - 1)).minimum < (readBreak m (a + l) j).minimum))) = true ↔
    2 ≤ Memory.read16 m (a + (l + 8 + 4 * j)) ∧ Memory.read16 m (a + (l + 8 + 4 * j)) ≤ 9999 ∧
      (j ≠ 0 → Memory.read16 m (a + (l + 4 + 4 * j)) < Memory.read16 m (a + (l + 8 + 4 * j))) := by
  have here : (readBreak m (a + l) j).minimum = Memory.read16 m (a + (l + 8 + 4 * j)) :=
    congrArg (Memory.read16 m) (by omega)
  have before (h : j ≠ 0) : (readBreak m (a + l) (j - 1)).minimum = Memory.read16 m (a + (l + 4 + 4 * j)) :=
    congrArg (Memory.read16 m) (by omega)
  rw [here, Bool.and_eq_true, within_iff, Bool.or_eq_true, decide_eq_true_eq, decide_eq_true_eq, and_assoc]
  refine and_congr_right fun _ => and_congr_right fun _ => ?_
  by_cases first : j = 0
  · simp [first]
  · simp [first, before first]

theorem mem_lineChecks (n o : Nat) : (o, false) ∈ lineChecks m a n ↔ lineFails m a n o := by
  have place : lineAddr a n = a + (0x10 + 20 * n) := Nat.add_assoc _ _ _
  have any (x hi : Nat) : ¬(x ≤ hi ∨ x = 255) ↔ hi < x ∧ x ≠ 255 := by omega
  have code (x hi : Nat) : (within 0 x hi || decide (x = 255)) = true ↔ x ≤ hi ∨ x = 255 := by
    rw [Bool.or_eq_true, within_iff, decide_eq_true_eq, and_iff_right (Nat.zero_le x)]
  have upTo (x hi : Nat) : within 0 x hi = true ↔ x ≤ hi := by rw [within_iff, and_iff_right (Nat.zero_le x)]
  simp only [lineChecks, lineFails, List.mem_append, List.mem_cons, List.not_mem_nil, or_false, or_assoc, place]
  generalize 0x10 + 20 * n = l
  refine or_congr ((failing_iff (upTo _ _)).trans (by rw [Nat.not_le])) (or_congr ((failing_iff (code _ _)).trans ?_)
    (or_congr ((failing_iff (code _ _)).trans ?_) (or_congr ((failing_iff (upTo _ _)).trans (by rw [Nat.not_le]; rfl)) ?_)))
  · rw [any]
    rfl
  · rw [any]
    rfl
  · by_cases few : Memory.read8 m (a + (l + 3)) ≤ 3
    · rw [if_pos (show Memory.read8 m (a + l + 3) ≤ 3 from few), and_iff_right few]
      simp only [List.mem_map, List.mem_range]
      refine exists_congr fun j => and_congr_right fun _ => ?_
      rw [eq_comm]
      exact failing_iff (breakOk_iff m a l j)
    · rw [if_neg (show ¬Memory.read8 m (a + l + 3) ≤ 3 from few)]
      simp only [List.not_mem_nil, few, false_and]

theorem promoKindOf_cases (b : Nat) : (b = 1 ∧ promoKindOf b = some .percent) ∨ (b = 2 ∧ promoKindOf b = some .freeNth) ∨
    (b = 3 ∧ promoKindOf b = some .fixedOff) ∨ ¬(1 ≤ b ∧ b ≤ 3) ∧ promoKindOf b = none := by
  unfold promoKindOf
  by_cases h1 : b = 1
  · simp [h1]
  · by_cases h2 : b = 2
    · simp [h2]
    · by_cases h3 : b = 3
      · simp [h3]
      · have outside : ¬(1 ≤ b ∧ b ≤ 3) := by omega
        simp [h1, h2, h3, outside]

theorem read16_le (x : Nat) : Memory.read16 m x ≤ 65535 := Nat.le_of_lt_succ (Memory.readNat_lt m x 2)

theorem mem_promoChecks (nLines n o : Nat) : (o, false) ∈ promoChecks m a nLines n ↔ promoFails m a nLines n o := by
  have place (j : Nat) : promoAddr a nLines j = a + (0x10 + 20 * nLines + 12 * j) := by unfold promoAddr; omega
  have code (x : Nat) : (within 1 (Memory.read16 m x) 65535 &&
      (List.range n).all fun j => !decide (Memory.read16 m (promoAddr a nLines j) = Memory.read16 m x)) = true ↔
      ¬(Memory.read16 m x = 0 ∨ ∃ j < n, Memory.read16 m (a + (0x10 + 20 * nLines + 12 * j)) = Memory.read16 m x) := by
    have small := read16_le m x
    simp only [Bool.and_eq_true, within_iff, small, and_true, List.all_eq_true, List.mem_range, Bool.not_eq_true',
      decide_eq_false_iff_not, place, not_or, not_exists, not_and, Nat.one_le_iff_ne_zero]
  simp only [promoChecks, promoFails, List.mem_append, List.mem_singleton]
  refine or_congr ((failing_iff (code _)).trans ?_) ?_
  · rw [not_not, place]
  · rw [place]
    generalize 0x10 + 20 * nLines + 12 * n = p
    simp only [Nat.add_assoc a p]
    obtain ⟨named, kind⟩ | ⟨named, kind⟩ | ⟨named, kind⟩ | ⟨outside, kind⟩ := promoKindOf_cases (Memory.read8 m (a + (p + 2)))
    · rw [kind, List.mem_singleton, failing_iff (show promoValueOk .percent _ = true ↔ _ from within_iff 1 _ 100), named]
      simp
    · rw [kind, List.mem_singleton, failing_iff (show promoValueOk .freeNth _ = true ↔ _ from within_iff 2 _ 100), named]
      simp
    · rw [kind, List.mem_singleton, failing_iff (show promoValueOk .fixedOff _ = true ↔ _ from within_iff 0 _ 65535), named]
      simp [read16_le]
    · have first : Memory.read8 m (a + (p + 2)) ≠ 1 := by omega
      have second : Memory.read8 m (a + (p + 2)) ≠ 2 := by omega
      rw [kind, List.mem_singleton, Prod.mk.injEq]
      simp only [outside, first, second, not_false_eq_true, and_true, false_and, or_self, and_false, or_false]

/-- The checks of LOAD_PRICES, taken apart (R148). -/
theorem mem_priceChecks (o : Nat) :
    let ls := Memory.read16 m a
    let ps := Memory.read16 m (a + 2)
    let countsOk : Prop := 1 ≤ ls ∧ ls ≤ 64 ∧ ps ≤ 8
    let inside : Prop := a + 16 + 20 * ls + 12 * ps ≤ 268435456
    (o, false) ∈ priceChecks m a ↔
      ¬countsOk ∧ (o = 0 ∧ ¬(1 ≤ ls ∧ ls ≤ 64) ∨ o = 2 ∧ 8 < ps) ∨ countsOk ∧ ¬inside ∧ o = 0 ∨
        countsOk ∧ inside ∧ ((∃ n < ls, lineFails m a n o) ∨ ∃ n < ps, promoFails m a ls n o) := by
  intro ls ps countsOk inside
  have counts : [((0 : Nat), within 1 ls 64), (2, within 0 ps 8)].all (·.2) = true ↔ countsOk := by
    simp [within, countsOk, and_assoc]
  unfold priceChecks
  by_cases ok : countsOk
  · rw [if_pos (counts.2 ok)]
    by_cases room : inside
    · rw [if_pos room]
      simp only [List.mem_append, List.mem_flatMap, List.mem_range, mem_lineChecks, mem_promoChecks, ok, room, not_true_eq_false,
        false_and, true_and, false_or]
      rfl
    · rw [if_neg room]
      simp only [List.mem_singleton, Prod.mk.injEq, and_true, ok, room, not_true_eq_false, not_false_eq_true, false_and, true_and,
        false_or, or_false]
  · rw [if_neg (mt counts.1 ok)]
    simp only [ok, not_false_eq_true, true_and, false_and, or_false, List.mem_cons, List.not_mem_nil]
    exact or_congr (failing_iff (within_iff _ _ _)) ((failing_iff (within_iff _ _ _)).trans (by simp [ps]))

end

/-- Settles O51. -/
theorem fieldsChecked : Obligations.FieldsChecked := by
  refine ⟨fun cs => ⟨lowestFailing_none_iff cs, fun o => lowestFailing_eq_some cs o⟩, fun m a cap bins => ?_,
    fun m a => mem_priceChecks m a⟩
  intro c fails mode mask table size
  have head {o : Nat} (h : o < 0x28) : fails o ↔ fixedFails m a c o ∨ binFails cap bins c o := mem_confChecks_head h
  refine ⟨?_, ?_, ?_, ?_, ?_, ?_, ?_, ?_, ?_, ?_, ?_, ?_, ?_, ?_, ?_, ?_, ?_, ?_, ?_,
    fun k => ⟨confChecks_tempCoef k, confChecks_target k, confChecks_initBal k, fun i less => confChecks_curve k less⟩,
    fun i less => confChecks_size less, fun o bad => ?_⟩
  iterate 19 · rw [head (by decide)]; simp [fixedFails, binFails, sizeOf, size, mode, mask, table]
  rw [show fails o ↔ _ from mem_confChecks m a cap bins o, ← or_assoc] at bad
  obtain head | ⟨k, named⟩ | ⟨i, less, named⟩ := bad
  · exact .inl (headFails_offset head)
  · exact .inr (.inl ⟨k, chanFails_offset named⟩)
  · exact .inr (.inr ⟨i, less, sizeFails_offset named⟩)

end Sys2Proof.Machine
end

section
/-! SUPPORT. The walk of the Row Composer: remakes, open orders by age, and the walk's steps (R15, R17, R32, R35). -/

namespace Sys2Proof.Machine

theorem lengthOk_need (need : Option Nat) (n : Nat) : lengthOk need n = true ↔ need = none ∨ need = some n := by
  cases need with
  | none => simp [lengthOk]
  | some k => simp [lengthOk, eq_comm]

/-! ## The walk's course (R32) -/

theorem walk_found {need : Option Nat} {w : WalkStep} {ws : List WalkStep} {s t : State} {r : CopyRef}
    (h : walkStep need w s = .found r t) : walk need (w :: ws) s = .found r t := by simp only [walk, h]

theorem walk_nothing {need : Option Nat} {w : WalkStep} {ws : List WalkStep} {s t : State}
    (h : walkStep need w s = .nothing t) : walk need (w :: ws) s = walk need ws t := by simp only [walk, h]

theorem walk_endless {need : Option Nat} {w : WalkStep} {ws : List WalkStep} {s t : State}
    (h : walkStep need w s = .endless t) : walk need (w :: ws) s = .endless t := by simp only [walk, h]

/-! ## The remake list -/

section
variable {need : Option Nat} {s : State}

theorem walkStep_remake {i : Nat} {x : CopyRef} (there : s.rc.remakes[i]? = some x)
    (fits : lengthOk need (remakeLines s x) = true)
    (first : ∀ j < i, ∀ y, s.rc.remakes[j]? = some y → ¬lengthOk need (remakeLines s y) = true) :
    walkStep need .remake s = .found x { s with rc := { s.rc with remakes := s.rc.remakes.eraseIdx i } } := by
  obtain ⟨less, rfl⟩ := List.getElem?_eq_some_iff.1 there
  have found : s.rc.remakes.findIdx? (fun r => lengthOk need (remakeLines s r)) = some i :=
    List.findIdx?_eq_some_iff_getElem.2
      ⟨less, fits, fun j before => first j before _ (List.getElem?_eq_getElem (before.trans less))⟩
  simp only [walkStep, takeRemake, found, there]

theorem walkStep_noRemake (h : ∀ y ∈ s.rc.remakes, ¬lengthOk need (remakeLines s y) = true) :
    walkStep need .remake s = .nothing s := by
  have missing : s.rc.remakes.findIdx? (fun r => lengthOk need (remakeLines s r)) = none :=
    List.findIdx?_eq_none_iff.2 fun y mem => by simpa using h y mem
  simp only [walkStep, takeRemake, missing]

end

/-! ## Open orders by age (R15) -/

/-- The age of a slot's order in openings, 0 for a free slot. -/
def ageOf (s : State) (i : Fin 8) : Nat := (s.om.table[i]).elim 0 fun o => (s.om.seq - o.seq).toNat

theorem older_iff {seq : Word} {o p : OpenOrder} (ho : (seq - o.seq).toNat < 2147483648)
    (hp : (seq - p.seq).toNat < 2147483648) : o.older p = true ↔ (seq - p.seq).toNat < (seq - o.seq).toNat := by
  have gap : (p.seq - o.seq).toNat = ((seq - o.seq).toNat + 4294967296 - (seq - p.seq).toNat) % 4294967296 := by
    bv_omega
  have same : o.seq = p.seq ↔ (seq - o.seq).toNat = (seq - p.seq).toNat := by
    constructor
    · intro h
      rw [h]
    · intro h
      bv_omega
  simp only [OpenOrder.older, reached, Bool.and_eq_true, decide_eq_true_eq, ne_eq, same]
  omega

section
variable {s : State}

/-- Every order of the table is younger than 2^31 openings (R15). -/
def AgesTold (s : State) : Prop := ∀ (j : Fin 8) (p : OpenOrder), s.om.table[j] = some p → (s.om.seq - p.seq).toNat < 2147483648

/-- A list of occupied slots, oldest order first. -/
def ByAge (s : State) (l : List (Fin 8)) : Prop :=
  (∀ i ∈ l, (s.om.table[i]).isSome) ∧ l.Pairwise fun i j => ageOf s j ≤ ageOf s i

theorem mem_insertByAge (i j : Fin 8) (l : List (Fin 8)) : j ∈ insertByAge s i l ↔ j = i ∨ j ∈ l := by
  induction l with
  | nil => simp [insertByAge]
  | cons k l ih =>
    unfold insertByAge
    split
    · split
      · simp
      · simp only [List.mem_cons, ih]
        tauto
    · simp only [List.mem_cons, ih]
      tauto

theorem insertByAge_byAge (told : AgesTold s) {i : Fin 8} (taken : (s.om.table[i]).isSome) {l : List (Fin 8)}
    (h : ByAge s l) : ByAge s (insertByAge s i l) := by
  obtain ⟨o, hi⟩ := Option.isSome_iff_exists.1 taken
  refine ⟨fun j mem => ?_, ?_⟩
  · obtain rfl | mem := (mem_insertByAge i j l).1 mem
    · exact taken
    · exact h.1 j mem
  · induction l with
    | nil => simp [insertByAge]
    | cons k l ih =>
      obtain ⟨all, sorted⟩ := h
      obtain ⟨first, rest⟩ := List.pairwise_cons.1 sorted
      obtain ⟨p, hk⟩ := Option.isSome_iff_exists.1 (all k List.mem_cons_self)
      have judged := older_iff (told i o hi) (told k p hk)
      have ageI : ageOf s i = (s.om.seq - o.seq).toNat := by rw [ageOf, hi]; rfl
      have ageK : ageOf s k = (s.om.seq - p.seq).toNat := by rw [ageOf, hk]; rfl
      simp only [insertByAge, hi, hk]
      by_cases older : o.older p = true
      · rw [if_pos older]
        have elder := judged.1 older
        refine List.pairwise_cons.2 ⟨fun j mem => ?_, sorted⟩
        obtain rfl | mem := List.mem_cons.1 mem
        · omega
        · have := first j mem
          omega
      · rw [if_neg older]
        have younger := mt judged.2 older
        refine List.pairwise_cons.2 ⟨fun j mem => ?_, ih ⟨fun j mem => all j (List.mem_cons_of_mem _ mem), rest⟩⟩
        obtain rfl | mem := (mem_insertByAge i j l).1 mem
        · omega
        · exact first j mem

theorem mem_ordersOf (q : QueueId) (i : Fin 8) : i ∈ ordersOf s q ↔ ∃ o, s.om.table[i] = some o ∧ o.queue = q := by
  have folded (l acc : List (Fin 8)) : i ∈ l.foldl (fun l i => insertByAge s i l) acc ↔ i ∈ l ∨ i ∈ acc := by
    induction l generalizing acc with
    | nil => simp
    | cons k l ih =>
      rw [List.foldl_cons, ih, mem_insertByAge, List.mem_cons]
      tauto
  rw [ordersOf, folded]
  simp [Option.any_eq_true]

theorem ordersOf_byAge (told : AgesTold s) (q : QueueId) : ByAge s (ordersOf s q) := by
  have folded (l acc : List (Fin 8)) (all : ∀ i ∈ l, (s.om.table[i]).isSome) (h : ByAge s acc) :
      ByAge s (l.foldl (fun l i => insertByAge s i l) acc) := by
    induction l generalizing acc with
    | nil => exact h
    | cons k l ih =>
      exact ih _ (fun i mem => all i (List.mem_cons_of_mem _ mem)) (insertByAge_byAge told (all k List.mem_cons_self) h)
  refine folded _ [] (fun i mem => ?_) ⟨by simp, .nil⟩
  obtain ⟨o, there, -⟩ := (Option.any_eq_true _ _).1 (List.mem_filter.1 mem).2
  rw [there]
  rfl

/-! ## The copy a level's open orders offer (R17, R32) -/

/-- An open order of a level that offers a copy of the length required. -/
def Offers (need : Option Nat) (q : QueueId) (s : State) (i : Fin 8) (o : OpenOrder) (c : Cursor) : Prop :=
  s.om.table[i] = some o ∧ o.queue = q ∧ o.cursor = some c ∧ lengthOk need (itemLines s o.addr c.item) = true

theorem cursorCopy_eq_some {need : Option Nat} {i : Fin 8} {o : OpenOrder} {c : Cursor} :
    cursorCopy s need i = some (o, c) ↔
      s.om.table[i] = some o ∧ o.cursor = some c ∧ lengthOk need (itemLines s o.addr c.item) = true := by
  simp only [cursorCopy, Option.bind_eq_some_iff, Option.ite_none_right_eq_some, Option.some.injEq, Prod.mk.injEq]
  constructor
  · rintro ⟨o', there, c', cursor, fits, rfl, rfl⟩
    exact ⟨there, cursor, fits⟩
  · rintro ⟨there, cursor, fits⟩
    exact ⟨o, there, c, cursor, fits, rfl, rfl⟩

theorem cursorCopy_offers {need : Option Nat} {q : QueueId} {i : Fin 8} (mem : i ∈ ordersOf s q)
    {o : OpenOrder} {c : Cursor} (h : cursorCopy s need i = some (o, c)) : Offers need q s i o c := by
  obtain ⟨there, cursor, fits⟩ := cursorCopy_eq_some.1 h
  obtain ⟨o', there', queue⟩ := (mem_ordersOf q i).1 mem
  obtain rfl := Option.some.inj (there.symm.trans there')
  exact ⟨there, queue, cursor, fits⟩

theorem takeOpen_none {need : Option Nat} {q : QueueId} (h : ∀ i o c, ¬Offers need q s i o c) : takeOpen q need s = none := by
  refine List.findSome?_eq_none_iff.2 fun i mem => ?_
  cases offered : cursorCopy s need i with
  | none => rfl
  | some p => exact absurd (cursorCopy_offers mem offered) (h i p.1 p.2)

/-- In a list sorted by age the oldest slot that answers is found first. -/
theorem findSome_oldest {α : Type} {f : Fin 8 → Option α} {l : List (Fin 8)} {i : Fin 8} {v : α}
    (sorted : l.Pairwise fun i j => ageOf s j ≤ ageOf s i) (mem : i ∈ l) (answers : f i = some v)
    (oldest : ∀ j ∈ l, j ≠ i → (f j).isSome → ageOf s j < ageOf s i) : l.findSome? f = some v := by
  induction l with
  | nil => exact absurd mem List.not_mem_nil
  | cons k l ih =>
    obtain ⟨first, rest⟩ := List.pairwise_cons.1 sorted
    by_cases here : k = i
    · rw [here, List.findSome?_cons, answers]
    · have later : i ∈ l := (List.mem_cons.1 mem).resolve_left fun e => here e.symm
      have silent : f k = none := by
        by_contra speaks
        have younger := oldest k List.mem_cons_self here (Option.isSome_iff_ne_none.2 speaks)
        have older := first i later
        omega
      rw [List.findSome?_cons, silent]
      exact ih rest later fun j mem => oldest j (List.mem_cons_of_mem _ mem)

theorem takeOpen_oldest (told : AgesTold s) {need : Option Nat} {q : QueueId} {i : Fin 8} {o : OpenOrder} {c : Cursor}
    (offers : Offers need q s i o c)
    (oldest : ∀ j p d, Offers need q s j p d → j ≠ i → (s.om.seq - p.seq).toNat < (s.om.seq - o.seq).toNat) :
    takeOpen q need s = some (takeCopy i o c s) := by
  obtain ⟨there, queue, cursor, fits⟩ := offers
  refine findSome_oldest (ordersOf_byAge told q).2 ((mem_ordersOf q i).2 ⟨o, there, queue⟩) ?_ fun j mem other speaks => ?_
  · rw [cursorCopy_eq_some.2 ⟨there, cursor, fits⟩]
    rfl
  · rw [Option.isSome_map] at speaks
    obtain ⟨⟨p, d⟩, offered⟩ := Option.isSome_iff_exists.1 speaks
    obtain ⟨there', queue', cursor', fits'⟩ := cursorCopy_offers mem offered
    have younger := oldest j p d ⟨there', queue', cursor', fits'⟩ other
    rw [ageOf, ageOf, there, there']
    exact younger

theorem walkStep_openOrders {need : Option Nat} {q : QueueId} : walkStep need (.openOrders q) s =
    (takeOpen q need s).elim (.nothing s) fun x => .found x.1 x.2 := by
  simp only [walkStep]
  cases takeOpen q need s <;> rfl

/-- The order a copy is taken of: its cursor moves past the copy (R17). -/
theorem commitCopy_eq (i : Fin 8) (o : OpenOrder) (c : Cursor) : commitCopy i o c s = putOrder i
    { o with
      composed := o.composed + 1, cursor := cursorPast s.store o c
      phase := if cursorPast s.store o c = none ∧ o.phase = .opened then .composed else o.phase } s := by
  rw [commitCopy, OpenOrder.settlePhase]
  by_cases ends : cursorPast s.store o c = none
  · by_cases opened : o.phase = .opened
    · rw [if_pos ⟨by simp [ends], opened⟩, if_pos ⟨ends, opened⟩]
    · rw [if_neg fun h => opened h.2, if_neg fun h => opened h.2]
  · rw [if_neg fun h => ends (Option.isNone_iff_eq_none.1 h.1), if_neg fun h => ends h.1]

theorem cursorPast_within {m : Memory} {o : OpenOrder} {c : Cursor} (h : c.copy < (readItem m o.addr.toNat c.item).qty) :
    cursorPast m o c = some { item := c.item, copy := c.copy + 1 } := if_pos h

theorem cursorPast_beyond {m : Memory} {o : OpenOrder} {c : Cursor} (h : (readItem m o.addr.toNat c.item).qty ≤ c.copy) :
    (∀ j x, c.item < j → o.items[j]? = some x → x.passed = false →
      (∀ k, c.item < k → k < j → (o.items[k]?).any (·.passed) = true) →
      cursorPast m o c = some { item := j, copy := 1 }) ∧
    ((∀ j x, c.item < j → o.items[j]? = some x → x.passed = true) → cursorPast m o c = none) := by
  rw [show cursorPast m o c = cursorFrom o.items (c.item + 1) from if_neg (Nat.not_lt.2 h)]
  refine ⟨fun j x after there open_ before => ?_, fun all => ?_⟩
  · obtain ⟨less, -⟩ := List.getElem?_eq_some_iff.1 there
    rw [cursorFrom, itemFrom_eq_some.2 ⟨after, less, by rw [there]; exact open_, fun k hk => before k hk⟩]
    rfl
  · rw [cursorFrom, itemFrom_eq_none fun j after less => ?_]
    · rfl
    · rw [List.getElem?_eq_getElem less]
      exact all j _ after (List.getElem?_eq_getElem less)

end

end Sys2Proof.Machine
end

section
/-! CLAIMS. The composition attempt (R26, R28 to R40). -/

namespace Sys2Proof.Machine

section
variable {s : State}

/-! ## The attempt's cases (R30, R31, R37, R40) -/

theorem compose_barred (h : s.rc.slot.isSome ∨ s.mc.state ≠ .running ∨ s.rc.hot = true) : compose s = s := if_pos h

section
variable (free : s.rc.slot = none) (runs : s.mc.state = .running) (cool : s.rc.hot = false)
include free runs cool

theorem compose_open : compose s =
    if s.ca.state = .due then (if roomFor s 1 then commitCalib s else s)
    else if s.rc.firstCal then s
    else if roomFor s (if twoLanes s then 2 else 1) then composePrint s
    else s := by
  refine if_neg ?_
  rw [free, cool]
  simp [runs]

theorem compose_due (due : s.ca.state = .due) : compose s = if roomFor s 1 then commitCalib s else s := by
  rw [compose_open free runs cool, if_pos due]

theorem compose_held (due : s.ca.state ≠ .due) (held : s.rc.firstCal = true) : compose s = s := by
  rw [compose_open free runs cool, if_neg due, if_pos held]

theorem compose_full (due : s.ca.state ≠ .due) (full : roomFor s (if twoLanes s then 2 else 1) = false) : compose s = s := by
  rw [compose_open free runs cool, if_neg due, full]
  split <;> rfl

theorem compose_print (due : s.ca.state ≠ .due) (quiet : s.rc.firstCal = false)
    (room : roomFor s (if twoLanes s then 2 else 1) = true) : compose s = composePrint s := by
  rw [compose_open free runs cool, if_neg due, quiet, if_neg Bool.false_ne_true, if_pos room]

end

theorem roomFor_iff (s : State) (n : Nat) : roomFor s n = true ↔ s.wt.track.length + n ≤ 63 := by
  rw [roomFor, decide_eq_true_eq]
  unfold Config.trackCap
  omega

/-! ## The PRINT row (R32, R35, R36) -/

theorem composePrint_nothing {u : State} (h : walk none walkSteps s = .nothing u ∨ walk none walkSteps s = .endless u) :
    composePrint s = u := by
  obtain h | h := h <;> simp only [composePrint, h]

theorem twoLanes_iff (s : State) : twoLanes s = true ↔ s.cfg.laneMode = .twoUp ∧ s.rc.mask = .both := by
  simp only [twoLanes, Bool.and_eq_true, decide_eq_true_eq]

section
variable {x : CopyRef} {t : State} (first : walk none walkSteps s = .found x t)
include first

theorem composePrint_paired {y : CopyRef} {u : State} (two : twoLanes s = true)
    (partner : walk (some (remakeLines t x)) walkSteps t = .found y u) :
    composePrint s = commitPrint (remakeLines t x) (some x) (some y) u := by
  simp only [composePrint, first, if_pos two, partner]

theorem composePrint_alone {u : State} (two : twoLanes s = true)
    (empty : walk (some (remakeLines t x)) walkSteps t = .nothing u ∨ walk (some (remakeLines t x)) walkSteps t = .endless u) :
    composePrint s = commitPrint (remakeLines t x) (some x) none u := by
  obtain empty | empty := empty <;> simp only [composePrint, first, if_pos two, empty]

theorem composePrint_single (one : twoLanes s = false) : composePrint s =
    if firstLane s = .a then commitPrint (remakeLines t x) (some x) none t else commitPrint (remakeLines t x) none (some x) t := by
  simp only [composePrint, first, one, Bool.false_eq_true, if_false]
  cases firstLane s <;> rfl

end

/-- A row committed for prints: which lanes hold one, and what the searches for them kept (R28, R35, R36). -/
structure PrintCommitted (s : State) (len : Nat) (a b : Option CopyRef) (u : State) : Prop where
  keeps : SearchKeeps s u
  whole : composePrint s = commitPrint len a b u
  holds : a.isSome ∨ b.isSome
  both : a.isSome → b.isSome → twoLanes s = true
  laneA : b = none → firstLane s = .a
  laneB : a = none → firstLane s = .b

theorem composePrint_commits {x : CopyRef} {t : State} (first : walk none walkSteps s = .found x t) :
    ∃ len a b u, PrintCommitted s len a b u := by
  have keeps := walk_keeps none walkSteps s
  rw [first] at keeps
  cases two : twoLanes s with
  | true =>
    have lane : firstLane s = .a := by
      rw [firstLane, if_neg]
      rintro ⟨-, mask⟩
      rw [((twoLanes_iff s).1 two).2] at mask
      cases mask
    have keeps' := keeps.trans (walk_keeps (some (remakeLines t x)) walkSteps t)
    cases partner : walk (some (remakeLines t x)) walkSteps t with
    | found y u =>
      rw [partner] at keeps'
      exact ⟨_, _, _, u, keeps', composePrint_paired first two partner, .inl rfl, fun _ _ => two, nofun, nofun⟩
    | nothing u =>
      rw [partner] at keeps'
      exact ⟨_, _, _, u, keeps', composePrint_alone first two (.inl partner), .inl rfl, fun _ _ => two, fun _ => lane, nofun⟩
    | endless u =>
      rw [partner] at keeps'
      exact ⟨_, _, _, u, keeps', composePrint_alone first two (.inr partner), .inl rfl, fun _ _ => two, fun _ => lane, nofun⟩
  | false =>
    have whole := composePrint_single first two
    cases lane : firstLane s with
    | a =>
      rw [lane, if_pos rfl] at whole
      exact ⟨_, _, _, t, keeps, whole, .inl rfl, fun _ => nofun, fun _ => lane, nofun⟩
    | b =>
      rw [lane, if_neg nofun] at whole
      exact ⟨_, _, _, t, keeps, whole, .inr rfl, nofun, nofun, fun _ => lane⟩

/-- A PRINT row found in the slot after an attempt on an empty slot was committed in it. -/
theorem compose_committed {r : SlotRow} (free : s.rc.slot = none) (row : (compose s).rc.slot = some r) (kind : r.kind = .print) :
    s.ca.state ≠ .due ∧ s.rc.firstCal = false ∧ compose s = composePrint s ∧
      ∃ x t, walk none walkSteps s = .found x t := by
  have stays (h : compose s = s) : False := by
    rw [h, free] at row
    cases row
  by_cases barred : s.rc.slot.isSome ∨ s.mc.state ≠ .running ∨ s.rc.hot = true
  · exact (stays (compose_barred barred)).elim
  obtain ⟨-, runs, cool⟩ : s.rc.slot.isSome = false ∧ s.mc.state = .running ∧ s.rc.hot = false := by
    simpa [not_or] using barred
  by_cases due : s.ca.state = .due
  · rw [compose_due free runs cool due] at row stays
    split at row
    · cases row
      cases kind
    next full => exact (stays (if_neg full)).elim
  cases held : s.rc.firstCal with
  | true => exact (stays (compose_held free runs cool due held)).elim
  | false =>
    cases room : roomFor s (if twoLanes s then 2 else 1) with
    | false => exact (stays (compose_full free runs cool due room)).elim
    | true =>
      have whole := compose_print free runs cool due held room
      refine ⟨due, rfl, whole, ?_⟩
      have slot (u : State) (keeps : SearchKeeps s u) (none : composePrint s = u) : False := by
        rw [whole, none, keeps.slot, free] at row
        cases row
      have keeps := walk_keeps none walkSteps s
      cases search : walk none walkSteps s with
      | found x t => exact ⟨x, t, rfl⟩
      | nothing u =>
        rw [search] at keeps
        exact (slot u keeps (composePrint_nothing (.inl search))).elim
      | endless u =>
        rw [search] at keeps
        exact (slot u keeps (composePrint_nothing (.inr search))).elim

end

/-! ## The places of a print (R26) -/

theorem printFirst_oneUp {c : Conf} (h : c.laneMode = .oneUp) (l : Lane) (w : Nat) :
    printFirst c l w = (3664 - w * 12 / 10) / 2 := by
  simp only [printFirst, h]
  rfl

theorem printFirst_twoUp {c : Conf} (h : c.laneMode = .twoUp) (w : Nat) :
    let paper := c.paperWidth * 12 / 10
    let lane := (c.paperWidth - 40) / 2 * 12 / 10
    printFirst c .a w = (3664 - paper) / 2 + 12 + (lane - w * 12 / 10) / 2 ∧
      printFirst c .b w = (3664 - paper) / 2 + paper - 12 - lane + (lane - w * 12 / 10) / 2 := by
  simp only [printFirst, h, laneWidth]
  exact ⟨rfl, rfl⟩

/-- What a composition attempt does, by the hold or the row it comes to (R30 to R37, R40): the first part of O26. -/
theorem compose_cases (s : State) (free : s.rc.slot = none) (runs : s.mc.state = .running) (cool : s.rc.hot = false) :
    (s.ca.state = .due → s.wt.track.length ≤ 62 →
      compose s = { s with
        rc := { s.rc with slot := some { kind := .calib, length := 240, mask := s.rc.mask } }
        wt := { s.wt with track := s.wt.track ++ [{ kind := .calib, lane := .a, length := 240 }] } }) ∧
    (s.ca.state = .due → 62 < s.wt.track.length → compose s = s) ∧
    (s.ca.state ≠ .due → s.rc.firstCal = true → compose s = s) ∧
    (s.ca.state ≠ .due → 62 < s.wt.track.length → compose s = s) ∧
    (s.ca.state ≠ .due → twoLanes s = true → 61 < s.wt.track.length → compose s = s) := by
  have fewer {n : Nat} (h : 63 < s.wt.track.length + n) : roomFor s n = false :=
    Bool.eq_false_iff.2 fun room => by
      have := (roomFor_iff s n).1 room
      omega
  refine ⟨fun due room => ?_, fun due full => ?_, compose_held free runs cool, fun due full => ?_, fun due two full => ?_⟩
  · rw [compose_due free runs cool due, if_pos ((roomFor_iff s 1).2 (by omega))]
    rfl
  · rw [compose_due free runs cool due, fewer (by omega)]
    rfl
  · exact compose_full free runs cool due (fewer (by split <;> omega))
  · refine compose_full free runs cool due (fewer ?_)
    rw [if_pos two]
    omega

theorem lanes_bAlone {s : State} (h : s.cfg.laneMode = .twoUp) (mask : s.rc.mask = .bOnly) :
    twoLanes s = false ∧ firstLane s = .b := by
  refine ⟨Bool.eq_false_iff.2 fun two => ?_, if_pos ⟨h, mask⟩⟩
  rw [((twoLanes_iff s).1 two).2] at mask
  cases mask

theorem lanes_aAlone {s : State} (h : s.cfg.laneMode = .oneUp ∨ s.rc.mask = .aOnly) :
    twoLanes s = false ∧ firstLane s = .a := by
  refine ⟨Bool.eq_false_iff.2 fun two => ?_, if_neg fun ⟨mode, mask⟩ => ?_⟩
  · obtain ⟨mode, mask⟩ := (twoLanes_iff s).1 two
    obtain h | h := h
    · rw [mode] at h
      cases h
    · rw [mask] at h
      cases h
  · obtain h | h := h
    · rw [mode] at h
      cases h
    · rw [mask] at h
      cases h

/-- Settles O26: the attempt's cases, the walk step by step, and the row a search ends in. -/
theorem rowsComposed : Obligations.RowsComposed := by
  refine ⟨fun s => ⟨compose_barred, fun free runs cool => ?_⟩, fun need s => ?_, fun s r free row kind => ?_⟩
  · obtain ⟨calib, calibFull, held, full, pairFull⟩ := compose_cases s free runs cool
    refine ⟨calib, calibFull, held, full, pairFull, fun due quiet room => ?_⟩
    intro lenOf
    have whole := compose_print free runs cool due quiet ((roomFor_iff _ _).2 room)
    refine ⟨fun u empty => whole.trans (composePrint_nothing empty), fun x t first => ⟨fun mode mask => ?_, fun mode mask => ?_,
      fun alone => ?_⟩⟩
    · have two := (twoLanes_iff s).2 ⟨mode, mask⟩
      exact ⟨fun y u partner => whole.trans (composePrint_paired first two partner),
        fun u empty => whole.trans (composePrint_alone first two empty)⟩
    · obtain ⟨one, lane⟩ := lanes_bAlone mode mask
      rw [whole, composePrint_single first one, lane]
      rfl
    · obtain ⟨one, lane⟩ := lanes_aAlone alone
      rw [whole, composePrint_single first one, lane]
      rfl
  · refine ⟨rfl, rfl, fun w ws t => ⟨fun x => walk_found, walk_nothing, walk_endless⟩, ?_⟩
    intro long fits remakeLen offers
    have fit (n : Nat) : lengthOk need n = true ↔ fits n := lengthOk_need need n
    have offer (q : QueueId) (i : Fin 8) (o : OpenOrder) (c : Cursor) : Offers need q s i o c ↔ offers q i o c :=
      and_congr_right fun _ => and_congr_right fun _ => and_congr_right fun _ => fit _
    refine ⟨fun i x there ok first => ?_, fun none => ?_, fun q => ⟨rfl, fun none => ?_, fun told i o c here oldest => ?_⟩⟩
    · exact walkStep_remake there ((fit _).2 ok) fun j before y at_ => mt (fit _).1 (first j before y at_)
    · exact walkStep_noRemake fun y mem => mt (fit _).1 (none y mem)
    · rw [walkStep_openOrders, takeOpen_none fun i o c => mt (offer q i o c).1 (none i o c)]
      rfl
    · refine ⟨cursorPast s.store o c, ?_, cursorPast_within, cursorPast_beyond⟩
      rw [walkStep_openOrders, takeOpen_oldest told ((offer q i o c).2 here)
        fun j p d at_ => oldest j p d ((offer q j p d).1 at_), ← commitCopy_eq]
      rfl
  · intro t
    obtain ⟨due, quiet, whole, x, v, first⟩ := compose_committed free row kind
    obtain ⟨len, a, b, u, keeps, commits, holds, both, laneA, laneB⟩ := composePrint_commits first
    have ht : t = commitPrint len a b u := whole.trans commits
    rw [show compose s = commitPrint len a b u from ht] at row
    obtain rfl := Option.some.inj row
    have cfg : u.cfg = s.cfg := by rw [State.cfg, keeps.conf, State.cfg]
    refine ⟨due, quiet, keeps.mask, ?_, ?_, ?_, ?_, ?_, fun l p at_ => ?_⟩
    · simpa using holds
    · simpa using both
    · simpa using laneA
    · simpa using laneB
    · rw [ht, ← keeps.wt]
      cases a <;> cases b <;> rfl
    · intro item wide paper lane
      obtain ⟨x, rfl⟩ : ∃ x, p = printSpec u l x := by
        cases l with
        | a =>
          obtain ⟨x, -, rfl⟩ := Option.map_eq_some_iff.1 (show a.map (printSpec u .a) = some p from at_)
          exact ⟨x, rfl⟩
        | b =>
          obtain ⟨x, -, rfl⟩ := Option.map_eq_some_iff.1 (show b.map (printSpec u .b) = some p from at_)
          exact ⟨x, rfl⟩
      have same : item = readItem u.store ((orderIn u x.slot x.number).elim 0 (·.addr)).toNat x.item := by
        show readItem t.store _ _ = _
        rw [ht]
        rfl
      have size : (sizeOf u.cfg item.size).elim 0 (·.width) * 12 / 10 = wide := by rw [cfg]
      have place : (printSpec u l x).first = printFirst s.cfg l ((sizeOf u.cfg item.size).elim 0 (·.width)) := by
        rw [same, ← cfg]
        rfl
      refine ⟨by rw [same]; rfl, by rw [same]; rfl, by rw [same]; rfl, by rw [same]; rfl, fun mode => ?_, fun mode here => ?_,
        fun mode here => ?_⟩
      · rw [place, printFirst_oneUp mode, size]
      · rw [place, here, (printFirst_twoUp mode _).1, size]
      · rw [place, here, (printFirst_twoUp mode _).2, size]

end Sys2Proof.Machine
end
